-- ==== Sys2Proof/Word.lean ====
section
/-! DEFINITION. The machine's words, and nothing else: a 32-bit instruction and register word (R46, R63), a 64-bit value
held in an even pair (R46), a mask with one bit per lane (R46). -/

namespace Sys2Proof

/-- A 32-bit word: one lane of a V register, one S register, one instruction word (R46, R63). -/
abbrev Word := BitVec 32

/-- A 64-bit value: an even-aligned register pair, an address, a mask (R46). -/
abbrev DWord := BitVec 64

/-- One bit per lane (R46). -/
abbrev LaneMask := BitVec 64

/-- A byte of memory. -/
abbrev Byte := BitVec 8

end Sys2Proof
end

