-- ==== Sys2Proof/Syntax.lean ====
section
/-! DEFINITION. The whole syntax: one constructor of Instr for each row of the opcode table. The fields of a Dunmar
instruction are the fields of its format words (R65 to R71), with the literal word and the live-mask word beside them
(R56, R36, R64). A Proctor instruction has the fields of R338. The other rows are the device's and the host's steps
(95_what_each_step_holds.md); they have no encoding, and their arguments say which unit takes the step and what the
outside world brings (log 2). -/

namespace Sys2Proof

/-- Short form VS3 (R65). `sp` is the live-mask word of a safe point (R35, R36). -/
structure Vs3 where
  sp : Option Word
  d : BitVec 8
  a : BitVec 8
  b : BitVec 8
  deriving DecidableEq, Repr

/-- Short form VS2I (R65). -/
structure Vs2i where
  sp : Option Word
  d : BitVec 8
  a : BitVec 8
  imm : BitVec 8
  deriving DecidableEq, Repr

/-- Short form US (R65). -/
structure Us where
  sp : Option Word
  d : BitVec 9
  a : BitVec 9
  imm : BitVec 6
  deriving DecidableEq, Repr

/-- Short form USI (R65). -/
structure Usi where
  sp : Option Word
  d : BitVec 9
  imm : BitVec 15
  deriving DecidableEq, Repr

/-- Short form BR (R65). -/
structure Br where
  sp : Option Word
  cond : BitVec 4
  off : BitVec 20
  deriving DecidableEq, Repr

/-- The NOP word (R65): bits [23:0] are zero. -/
structure NopF where
  sp : Option Word
  deriving DecidableEq, Repr

/-- Long form LG (R67). `lit` is the literal word (R56). -/
structure Lg where
  sp : Option Word
  mod : BitVec 5
  fs : Bool
  d : BitVec 10
  a : BitVec 10
  b : BitVec 10
  c : BitVec 10
  hold : BitVec 2
  lit : Option Word
  deriving DecidableEq, Repr

/-- Long form LM (R68). -/
structure Lm where
  sp : Option Word
  nt : Bool
  sx : Bool
  size : BitVec 3
  fs : Bool
  d : BitVec 10
  off : BitVec 16
  scope : BitVec 3
  order : BitVec 3
  addr : BitVec 10
  lit : Option Word
  deriving DecidableEq, Repr

/-- Long form LA (R69). -/
structure La where
  sp : Option Word
  aop : BitVec 5
  fs : Bool
  d : BitVec 10
  ty : BitVec 2
  cmp : BitVec 10
  data : BitVec 10
  addr : BitVec 10
  order : BitVec 3
  scope : BitVec 3
  off : BitVec 16
  lit : Option Word
  deriving DecidableEq, Repr

/-- Long form LX (R70): `x`, `y`, `z` are w1 [31:22], [21:12], [11:2]. -/
structure Lx where
  sp : Option Word
  tile : BitVec 3
  shape : BitVec 3
  fs : Bool
  x : BitVec 10
  y : BitVec 10
  z : BitVec 10
  lit : Option Word
  deriving DecidableEq, Repr

/-- Long form LB (R71): `sel` is w0 [15:6], `lo` is w0 [5:0], `w1` is the second word. -/
structure Lb where
  sp : Option Word
  sel : BitVec 10
  lo : BitVec 6
  w1 : Word
  lit : Option Word
  deriving DecidableEq, Repr

/-- A Proctor instruction word without its opcode (R338). -/
structure Pr where
  d : BitVec 4
  a : BitVec 4
  b : BitVec 4
  imm : BitVec 14
  deriving DecidableEq, Repr

/-- An Ednan flit (R353), a collective packet (R357). Its header: type, link sequence number, virtual channel, topology version, destination and
source device. Its payload: communicator, sequence number and sending rank, what the sender's COLL named, a piece of the sender's contribution and
whether it is the last. Types (log 48): 0 a piece, 1 a NACK, 2 the sender has accepted every contribution, 3 the sender has met a mismatch. -/
structure Packet where
  typ : Nat
  lseq : Nat
  vc : Nat
  topv : Nat
  dest : Nat
  src : Nat
  comm : Nat
  seq : Nat
  rank : Nat
  kind : Nat
  count : Nat
  ty : Nat
  op : Nat
  last : Bool
  data : List Byte
  deriving DecidableEq, Repr

/-- Every field of a flit fits its bits, and the data its payload (R353, log 48). -/
def Packet.ok (k : Packet) : Bool :=
  k.typ < 2 ^ 8 && k.lseq < 2 ^ 12 && k.vc < 2 ^ 4 && k.topv < 2 ^ 16 && k.dest < 2 ^ 12 && k.src < 2 ^ 12 && k.comm < 2 ^ 16 && k.seq < 2 ^ 32 &&
    k.rank < 2 ^ 12 && k.kind < 4 && k.count < 2 ^ 32 && k.ty < 4 && k.op < 4 && k.data.length ≤ 208

/-- The host's answer for a sector (R324): its 64 bytes, which may be poisoned (R327). -/
structure HostData where
  bytes : List Byte
  poison : Bool
  deriving DecidableEq, Repr

/-- One constructor per row of the opcode table, in the table's order. -/
inductive Instr where
  /-- VADD_SHORT (R66). Short VS3 form of VINT VADD.i32: each active lane gets A + B, wrapping. -/
  | vaddShort (f : Vs3)
  /-- VSUB_SHORT (R66). Short VS3 form of VINT VSUB.i32. -/
  | vsubShort (f : Vs3)
  /-- VMUL_SHORT (R66). Short VS3 form of VINT VMUL.i32. -/
  | vmulShort (f : Vs3)
  /-- VAND_SHORT (R66). Short VS3 form of VINT VAND.i32. -/
  | vandShort (f : Vs3)
  /-- VOR_SHORT (R66). Short VS3 form of VINT VOR.i32. -/
  | vorShort (f : Vs3)
  /-- VXOR_SHORT (R66). Short VS3 form of VINT VXOR.i32. -/
  | vxorShort (f : Vs3)
  /-- VSHL_SHORT (R66). Short VS3 form of VINT VSHL.i32. -/
  | vshlShort (f : Vs3)
  /-- VSHR_SHORT (R66). Short VS3 form of VINT VSHR.i32. -/
  | vshrShort (f : Vs3)
  /-- VSRA_SHORT (R66). Short VS3 form of VINT VSRA.i32. -/
  | vsraShort (f : Vs3)
  /-- VMIN_SHORT (R66). Short VS3 form of VINT VMIN.i32. -/
  | vminShort (f : Vs3)
  /-- VMAX_SHORT (R66). Short VS3 form of VINT VMAX.i32. -/
  | vmaxShort (f : Vs3)
  /-- VFADD_SHORT (R66). Short VS3 form of VFLT VFADD.f32 RNE. -/
  | vfaddShort (f : Vs3)
  /-- VFSUB_SHORT (R66). Short VS3 form of VFLT VFSUB.f32 RNE. -/
  | vfsubShort (f : Vs3)
  /-- VFMUL_SHORT (R66). Short VS3 form of VFLT VFMUL.f32 RNE. -/
  | vfmulShort (f : Vs3)
  /-- VFMAC (R66). Short fused multiply-accumulate: D := A x B + D in F32, rounded once RNE. -/
  | vfmac (f : Vs3)
  /-- VFMIN_SHORT (R66). Short VS3 form of VFLT VFMIN.f32. -/
  | vfminShort (f : Vs3)
  /-- VFMAX_SHORT (R66). Short VS3 form of VFLT VFMAX.f32. -/
  | vfmaxShort (f : Vs3)
  /-- VMOV_SHORT (R66). Short VS3 form of VINT VMOV.i32; B must be zero. -/
  | vmovShort (f : Vs3)
  /-- VADDI (R66). Short VS2I VADD.i32 with a sign-extended 8-bit immediate. -/
  | vaddi (f : Vs2i)
  /-- VSHLI (R66). Short VS2I VSHL.i32 with an 8-bit immediate count. -/
  | vshli (f : Vs2i)
  /-- VSHRI (R66). Short VS2I VSHR.i32 with an 8-bit immediate count. -/
  | vshri (f : Vs2i)
  /-- VANDI (R66). Short VS2I VAND.i32 with a sign-extended 8-bit immediate. -/
  | vandi (f : Vs2i)
  /-- SADDI (R66). Short US SADD.i32 with a 6-bit immediate; writes CARRY. -/
  | saddi (f : Us)
  /-- SMOVI (R66). Short USI SMOV.i32 of a sign-extended 15-bit immediate. -/
  | smovi (f : Usi)
  /-- JMP_SHORT (R66). Short unconditional branch by a signed 20-bit word offset. -/
  | jmpShort (f : Br)
  /-- BRS_SHORT (R66). Short branch taken when the fragment's SCC equals the s bit. -/
  | brsShort (f : Br)
  /-- NOP (R66). Does nothing and uses one issue slot; allowed in every clause class. -/
  | nop (f : NopF)
  /-- VADD (R116). Per-lane integer add, wrapping or saturating. -/
  | vadd (f : Lg)
  /-- VSUB (R116). Per-lane integer subtract. -/
  | vsub (f : Lg)
  /-- VADDC (R116). Per-lane 32-bit add with carry in, writing sum and carry out to a pair. -/
  | vaddc (f : Lg)
  /-- VSUBB (R116). Per-lane 32-bit subtract with borrow, writing difference and borrow out. -/
  | vsubb (f : Lg)
  /-- VMUL (R116). Per-lane integer multiply, low part. -/
  | vmul (f : Lg)
  /-- VMULHI (R116). Per-lane integer multiply, high part. -/
  | vmulhi (f : Lg)
  /-- VMAD (R116). Per-lane integer multiply-add. -/
  | vmad (f : Lg)
  /-- VMADW (R116). Per-lane 32x32 multiply plus 64-bit addend into a 64-bit pair. -/
  | vmadw (f : Lg)
  /-- VABSD (R116). Per-lane absolute difference. -/
  | vabsd (f : Lg)
  /-- VMIN (R116). Per-lane integer minimum. -/
  | vmin (f : Lg)
  /-- VMAX (R116). Per-lane integer maximum. -/
  | vmax (f : Lg)
  /-- VAND (R116). Per-lane bitwise AND. -/
  | vand (f : Lg)
  /-- VOR (R116). Per-lane bitwise OR. -/
  | vor (f : Lg)
  /-- VXOR (R116). Per-lane bitwise XOR. -/
  | vxor (f : Lg)
  /-- VANDN (R116). Per-lane A AND NOT B. -/
  | vandn (f : Lg)
  /-- VSHL (R116). Per-lane shift left. -/
  | vshl (f : Lg)
  /-- VSHR (R116). Per-lane logical shift right. -/
  | vshr (f : Lg)
  /-- VSRA (R116). Per-lane arithmetic shift right. -/
  | vsra (f : Lg)
  /-- VFSHR (R116). Per-lane funnel shift right of the concatenation B:A. -/
  | vfshr (f : Lg)
  /-- VBFE (R118). Per-lane bit-field extract. -/
  | vbfe (f : Lg)
  /-- VBFI (R118). Per-lane bit-field insert into D's old value. -/
  | vbfi (f : Lg)
  /-- VPOPC (R116). Per-lane population count. -/
  | vpopc (f : Lg)
  /-- VCLZ (R116). Per-lane count of leading zeros. -/
  | vclz (f : Lg)
  /-- VBREV (R116). Per-lane bit reversal. -/
  | vbrev (f : Lg)
  /-- VSEL (R119). Per-lane select of A or B by a 64-bit uniform mask. -/
  | vsel (f : Lg)
  /-- VMOV (R116). Per-lane move. -/
  | vmov (f : Lg)
  /-- VMOVI (R119). Per-lane indexed register read from V(base + index). -/
  | vmovi (f : Lg)
  /-- VMOVX (R119). Per-lane indexed register write to V(base + index). -/
  | vmovx (f : Lg)
  /-- VLEA (R116). Per-lane 64-bit address computation base + index x 2^scale. -/
  | vlea (f : Lg)
  /-- VDIV (R120). Per-lane truncating integer division with defined divide-by-zero result. -/
  | vdiv (f : Lg)
  /-- VREM (R120). Per-lane truncating integer remainder. -/
  | vrem (f : Lg)
  /-- VFADD (R121). Per-lane floating add, rounded once, optional clamp. -/
  | vfadd (f : Lg)
  /-- VFSUB (R121). Per-lane floating subtract. -/
  | vfsub (f : Lg)
  /-- VFMUL (R121). Per-lane floating multiply. -/
  | vfmul (f : Lg)
  /-- VFMA (R121). Per-lane fused multiply-add rounded once. -/
  | vfma (f : Lg)
  /-- VFMIN (R121). Per-lane minimumNumber. -/
  | vfmin (f : Lg)
  /-- VFMAX (R121). Per-lane maximumNumber. -/
  | vfmax (f : Lg)
  /-- VFRND (R122). Per-lane round to an integral value in the selected mode. -/
  | vfrnd (f : Lg)
  /-- VFFRACT (R122). Per-lane fractional part a - floor(a). -/
  | vffract (f : Lg)
  /-- VFDOT2 (R123). Per-lane two-element packed dot product plus F32 addend. -/
  | vfdot2 (f : Lg)
  /-- VFCLASS (R124). Per-lane floating class mask. -/
  | vfclass (f : Lg)
  /-- VFLDEXP (R125). Per-lane scale by 2^n. -/
  | vfldexp (f : Lg)
  /-- VFFREXP (R125). Per-lane binary exponent extraction. -/
  | vffrexp (f : Lg)
  /-- VFCOPYS (R121). Per-lane copy of B's sign onto A's magnitude. -/
  | vfcopys (f : Lg)
  /-- VFDIV (R121). Per-lane correctly rounded floating division. -/
  | vfdiv (f : Lg)
  /-- VRCP (R127). Per-lane reciprocal within 1 ulp. -/
  | vrcp (f : Lg)
  /-- VRSQ (R127). Per-lane reciprocal square root. -/
  | vrsq (f : Lg)
  /-- VSQRT (R127). Per-lane correctly rounded square root. -/
  | vsqrt (f : Lg)
  /-- VEXP2 (R127). Per-lane 2^x. -/
  | vexp2 (f : Lg)
  /-- VLOG2 (R127). Per-lane log2 x. -/
  | vlog2 (f : Lg)
  /-- VSINPI (R127). Per-lane sin(pi x). -/
  | vsinpi (f : Lg)
  /-- VCOSPI (R127). Per-lane cos(pi x). -/
  | vcospi (f : Lg)
  /-- VTANH (R127). Per-lane tanh x. -/
  | vtanh (f : Lg)
  /-- VCVTF (R140). Per-lane float-to-float conversion selected by code. -/
  | vcvtf (f : Lg)
  /-- VCVTFI (R139). Per-lane float-to-integer conversion with saturating fates. -/
  | vcvtfi (f : Lg)
  /-- VCVTIF (R139). Per-lane integer-to-float conversion. -/
  | vcvtif (f : Lg)
  /-- VPACK (R141). Per-lane packing of halves or words. -/
  | vpack (f : Lg)
  /-- VUNPK (R141). Per-lane extraction and extension of an 8- or 16-bit element. -/
  | vunpk (f : Lg)
  /-- VCVTLG (R106). Per-lane conversion of F32 or F64 to LG6 or LG8 by nearest table value. -/
  | vcvtlg (f : Lg)
  /-- VLGCVT (R107). Per-lane conversion of an LG code to its table-based float value. -/
  | vlgcvt (f : Lg)
  /-- VCMP (R142). Integer compare of active lanes into a 64-bit uniform mask. -/
  | vcmp (f : Lg)
  /-- VCMPF (R142). Float compare of active lanes into a 64-bit uniform mask. -/
  | vcmpf (f : Lg)
  /-- VSHFL (R137). Lane shuffle by index, up, down or xor. -/
  | vshfl (f : Lg)
  /-- VBCST (R136). Broadcast one lane of A to all active lanes. -/
  | vbcst (f : Lg)
  /-- VRDLN (R136). Read one lane of A into an S register. -/
  | vrdln (f : Lg)
  /-- VWRLN (R136). Write a uniform value into one lane if active. -/
  | vwrln (f : Lg)
  /-- VBALLOT (R136). Mask of active lanes whose A is non-zero. -/
  | vballot (f : Lg)
  /-- VMPFX (R136). Per-lane prefix count of a uniform mask's lower bits. -/
  | vmpfx (f : Lg)
  /-- VRED (R138). Tree reduction of active lanes under a type and operation. -/
  | vred (f : Lg)
  /-- VSCAN (R138). Inclusive scan of active lanes in the fixed tree order. -/
  | vscan (f : Lg)
  /-- VQSWZ (R136). Swizzle within quads by a uniform pattern. -/
  | vqswz (f : Lg)
  /-- VMATCH (R136). Per-lane mask of active lanes holding an equal bit pattern. -/
  | vmatch (f : Lg)
  /-- SADD (R133). Uniform add setting CARRY. -/
  | sadd (f : Lg)
  /-- SSUB (R133). Uniform subtract setting CARRY as borrow. -/
  | ssub (f : Lg)
  /-- SMUL (R133). Uniform multiply, low part. -/
  | smul (f : Lg)
  /-- SMULHI (R133). Uniform multiply, high part. -/
  | smulhi (f : Lg)
  /-- SAND (R133). Uniform bitwise AND. -/
  | sand (f : Lg)
  /-- SOR (R133). Uniform bitwise OR. -/
  | sor (f : Lg)
  /-- SXOR (R133). Uniform bitwise XOR. -/
  | sxor (f : Lg)
  /-- SANDN (R133). Uniform A AND NOT B. -/
  | sandn (f : Lg)
  /-- SSHL (R133). Uniform shift left. -/
  | sshl (f : Lg)
  /-- SSHR (R133). Uniform logical shift right. -/
  | sshr (f : Lg)
  /-- SSRA (R133). Uniform arithmetic shift right. -/
  | ssra (f : Lg)
  /-- SBFE (R133). Uniform bit-field extract. -/
  | sbfe (f : Lg)
  /-- SPOPC (R133). Uniform population count. -/
  | spopc (f : Lg)
  /-- SCLZ (R133). Uniform count of leading zeros. -/
  | sclz (f : Lg)
  /-- SMIN (R133). Uniform minimum. -/
  | smin (f : Lg)
  /-- SMAX (R133). Uniform maximum. -/
  | smax (f : Lg)
  /-- SMOV (R133). Uniform move, including writes of EXEC and FLAGS. -/
  | smov (f : Lg)
  /-- SSEL (R133). Uniform select by the fragment's SCC. -/
  | ssel (f : Lg)
  /-- SCMP (R133). Uniform compare setting SCC. -/
  | scmp (f : Lg)
  /-- SLEA (R133). Uniform 64-bit address computation. -/
  | slea (f : Lg)
  /-- SMOVK (R133). Uniform masked merge into D's old value. -/
  | smovk (f : Lg)
  /-- SFADD (R133). Uniform floating add. -/
  | sfadd (f : Lg)
  /-- SFMUL (R133). Uniform floating multiply. -/
  | sfmul (f : Lg)
  /-- SFMA (R133). Uniform fused multiply-add. -/
  | sfma (f : Lg)
  /-- SMFF1 (R133). Uniform index of the lowest set bit, setting SCC. -/
  | smff1 (f : Lg)
  /-- JMP (R190). Long unconditional branch. -/
  | jmp (f : Lb)
  /-- BRS (R190). Long branch on the fragment's SCC. -/
  | brs (f : Lb)
  /-- BRZ (R190). Branch if an S register or pair is zero. -/
  | brz (f : Lb)
  /-- SPLIT (R191). Divides the fragment by a lane mask, opening a reconvergence region. -/
  | split (f : Lb)
  /-- BREAK (R192). Active lanes leave the n innermost regions and continue at the target. -/
  | break (f : Lb)
  /-- CALL (R190). Writes the return address and branches. -/
  | call (f : Lb)
  /-- RET (R190). Branches to an address held in an S pair, marked as a return. -/
  | ret (f : Lb)
  /-- JMPI (R190). Indirect branch to an address held in an S pair. -/
  | jmpi (f : Lb)
  /-- EXIT (R193). Ends the fragment for all its members; the last exit starts retirement. -/
  | exit (f : Lb)
  /-- YIELD (R190). Places the fragment last among ready fragments of its priority. -/
  | yield (f : Lb)
  /-- GLD (R152). Per-lane global load; destinations pending until data returns. -/
  | gld (f : Lm)
  /-- GST (R152). Per-lane global store into the combine buffer. -/
  | gst (f : Lm)
  /-- ULD (R152). Uniform global load into S registers. -/
  | uld (f : Lm)
  /-- UST (R152). Uniform global store from S registers. -/
  | ust (f : Lm)
  /-- CPF (R154). Prefetches lines into the near cache and optionally the L1. -/
  | cpf (f : Lm)
  /-- SLD (R155). Load from the team's scratchpad. -/
  | sld (f : Lm)
  /-- SST (R155). Store to the team's scratchpad. -/
  | sst (f : Lm)
  /-- XLD (R156). Load from a cohort member's scratchpad. -/
  | xld (f : Lm)
  /-- XST (R156). Store to a cohort member's scratchpad. -/
  | xst (f : Lm)
  /-- GATOM (R159). Per-lane global atomic executed at the place its scope selects. -/
  | gatom (f : La)
  /-- SATOM (R159). Per-lane scratchpad atomic. -/
  | satom (f : La)
  /-- XATOM (R159). Per-lane cohort-scratchpad atomic. -/
  | xatom (f : La)
  /-- UATOM (R159). Uniform global atomic. -/
  | uatom (f : La)
  /-- FENCE (R162). Orders the group's P0 accesses at a scope; completes when acknowledgements and loads are done. -/
  | fence (f : Lg)
  /-- FENCEX (R163). Orders the group's accesses between two named access paths. -/
  | fencex (f : Lg)
  /-- CINV (R164). Invalidates the core's L1. -/
  | cinv (f : Lg)
  /-- CWB (R164). Posts the group's combine-buffer lines and waits for acknowledgement. -/
  | cwb (f : Lg)
  /-- WBIND (R165). Binds a region to a window descriptor, deferred while its copy runs. -/
  | wbind (f : Lg)
  /-- WUNBIND (R166). Frees a region once its copy has ended. -/
  | wunbind (f : Lg)
  /-- WWARM (R166). Starts the copy of an absent window. -/
  | wwarm (f : Lg)
  /-- WTEST (R167). Reports present chunk bits and sets SCC without waiting. -/
  | wtest (f : Lg)
  /-- WWAIT (R167). Waits in Attendance until selected chunks are present. -/
  | wwait (f : Lg)
  /-- WSLICE (R168). Joins or forms a slice set sharing a window's fetch among N teams. -/
  | wslice (f : Lg)
  /-- CHFILL (R170). Sends a Churn fill job. -/
  | chfill (f : Lg)
  /-- CHCOPY (R170). Sends a Churn copy job. -/
  | chcopy (f : Lg)
  /-- CHCMP (R170). Sends a Churn compare job. -/
  | chcmp (f : Lg)
  /-- CHRED (R170). Sends a Churn reduction job. -/
  | chred (f : Lg)
  /-- MMA (R177). Issues a matrix multiply-accumulate job on a tile. -/
  | mma (f : Lx)
  /-- MZERO (R184). Remaps a tile to a zeroed spare, or takes a turn to zero it. -/
  | mzero (f : Lx)
  /-- MDRAIN (R185). Issues a drain of a tile to memory. -/
  | mdrain (f : Lx)
  /-- MDRAINQ (R186). Issues a drain of half a tile into a drain queue, reserving 8 entries. -/
  | mdrainq (f : Lx)
  /-- MLDACC (R184). Issues a load of a tile from memory in X224. -/
  | mldacc (f : Lx)
  /-- MSTAT (R187). Requests a tile's 64-bit status. -/
  | mstat (f : Lx)
  /-- MRPROG (R187). Requests a tile's row progress and stop bit. -/
  | mrprog (f : Lx)
  /-- CAPMINT (R195). Mints a register pass for a register range. -/
  | capmint (f : Lg)
  /-- CAPREV (R195). Advances the slot's GEN, revoking all passes. -/
  | caprev (f : Lg)
  /-- NOTE (R197). Sends a vector note packet into another group's register. -/
  | note (f : Lg)
  /-- NOTEU (R197). Sends a uniform note packet. -/
  | noteu (f : Lg)
  /-- EXPECT (R196). Arms a register range as EMPTY. -/
  | expect (f : Lg)
  /-- NPOLL (R196). Reports which registers of a range are not EMPTY. -/
  | npoll (f : Lg)
  /-- WREG (R204). Registers a polling Attendance entry without waiting. -/
  | wreg (f : Lg)
  /-- WDROP (R204). Removes the fragment's entries on an object. -/
  | wdrop (f : Lg)
  /-- WAIT (R204). Waits until a queue or flag word differs from a value. -/
  | wait (f : Lg)
  /-- LOCK (R203). Takes a lock or waits to be handed it. -/
  | lock (f : Lg)
  /-- UNLOCK (R203). Releases a lock, handing it to the earliest waiter. -/
  | unlock (f : Lg)
  /-- BAR (R202). Arrives at a barrier once for the group and waits for the phase change. -/
  | bar (f : Lg)
  /-- BARA (R202). Arrives at a barrier without waiting, returning the phase. -/
  | bara (f : Lg)
  /-- BARW (R202). Waits for a barrier phase to leave a given value. -/
  | barw (f : Lg)
  /-- WHOLD (R204). Declares or withdraws holding an object for inheritance. -/
  | whold (f : Lg)
  /-- WSTAT (R206). Reads Attendance table and priority status. -/
  | wstat (f : Lg)
  /-- SPAWN (R208). Starts one new group on the core if resources are free. -/
  | spawn (f : Lg)
  /-- LAUNCH (R210). Submits a child launch, reserving a Q6 entry. -/
  | launch (f : Lg)
  /-- JOIN (R210). Waits for a child launch to end, reporting its status in Q6. -/
  | join (f : Lg)
  /-- KILL (R210). Ends a descendant launch and all its descendants. -/
  | kill (f : Lg)
  /-- QUOTA (R210). Reads the partition's remaining launch quota. -/
  | quota (f : Lg)
  /-- COLL (R211). Starts a collective job on path P4, reserving a Q5 entry. -/
  | coll (f : Lg)
  /-- CTOPV (R211). Reads the topology version and compares it with a value. -/
  | ctopv (f : Lg)
  /-- TRAP (R215). Raises SWTRAP. -/
  | trap (f : Lg)
  /-- TRET (R217). Ends handler mode and resumes at RPC and RIDX. -/
  | tret (f : Lg)
  /-- SGETSR (R213). Reads a system register. -/
  | sgetsr (f : Lg)
  /-- SSETSR (R213). Writes a system register. -/
  | ssetsr (f : Lg)
  /-- SLEEP (R212). Keeps the fragment from issuing for a number of cycles. -/
  | sleep (f : Lg)
  /-- PMARK (R212). Passes a user marker to the Proctor. -/
  | pmark (f : Lg)
  /-- DBRK (R218). Raises DBRK when debug is enabled, else acts as NOP. -/
  | dbrk (f : Lg)
  /-- FRESUME (R303). Resumes the agent of a fault-queue entry by SEQ. -/
  | fresume (f : Lg)
  /-- LDE (R338). Proctor: loads an event field into a work register. -/
  | prLde (f : Pr)
  /-- LDI (R338). Proctor: W[d] := W[a] x 2^14 + imm. -/
  | prLdi (f : Pr)
  /-- ADD (R338). Proctor: W[a] + src2. -/
  | prAdd (f : Pr)
  /-- SUB (R338). Proctor: W[a] - src2. -/
  | prSub (f : Pr)
  /-- AND (R338). Proctor: bitwise AND with src2. -/
  | prAnd (f : Pr)
  /-- OR (R338). Proctor: bitwise OR with src2. -/
  | prOr (f : Pr)
  /-- XOR (R338). Proctor: bitwise XOR with src2. -/
  | prXor (f : Pr)
  /-- SHL (R338). Proctor: shift left by src2 mod 32. -/
  | prShl (f : Pr)
  /-- SHR (R338). Proctor: logical shift right by src2 mod 32. -/
  | prShr (f : Pr)
  /-- MIN (R338). Proctor: unsigned minimum. -/
  | prMin (f : Pr)
  /-- MAX (R338). Proctor: unsigned maximum. -/
  | prMax (f : Pr)
  /-- MUL (R338). Proctor: low 32 bits of the product. -/
  | prMul (f : Pr)
  /-- HASH (R338). Proctor: multiplicative hash to k bits with a seed. -/
  | prHash (f : Pr)
  /-- BFW (R338). Proctor: forward branch on a condition. -/
  | prBfw (f : Pr)
  /-- HINC (R339). Proctor: saturating histogram increment. -/
  | prHinc (f : Pr)
  /-- SKINC (R339). Proctor: four-row count-min sketch increment. -/
  | prSkinc (f : Pr)
  /-- HLL (R339). Proctor: cardinality register update. -/
  | prHll (f : Pr)
  /-- LDM (R338). Proctor: loads a scratch word. -/
  | prLdm (f : Pr)
  /-- STM (R338). Proctor: stores a scratch word. -/
  | prStm (f : Pr)
  /-- TRIG_IRQ (R340). Proctor: records a tag in FE_PRIRQ and raises the front end's interrupt. -/
  | prTrigIrq (f : Pr)
  /-- TRIG_SNAP (R340). Proctor: copies the program's scratch to the snapshot area. -/
  | prTrigSnap (f : Pr)
  /-- TRIG_ARM (R340). Proctor: arms a slot of the same partition. -/
  | prTrigArm (f : Pr)
  /-- TRIG_DISARM (R340). Proctor: disarms a slot of the same partition. -/
  | prTrigDisarm (f : Pr)
  /-- EMIT (R341). Proctor: appends a 32-byte record to the partition's ring. -/
  | prEmit (f : Pr)
  /-- END (R338). Proctor: ends the invocation. -/
  | prEnd (f : Pr)
  /-- ENTER_CLAUSE (R28). A fragment fetches and checks a clause header, tests WAITM and begins the clause or parks. -/
  | enterClause (core : Nat) (slot : Nat) (frag : Nat)
  /-- WAITING_TABLE_RETEST (R44). A fragment left in the ready pool by a full waiting table re-tests its condition every 16 cc. -/
  | waitingTableRetest (core : Nat) (slot : Nat) (frag : Nat)
  /-- SLEEP_EXPIRY (R212). A sleeping fragment's count ends and it may issue again. -/
  | sleepExpiry (core : Nat) (slot : Nat) (frag : Nat)
  /-- SPILL_BRING_BACK (R222). A ready spilled fragment is swapped back into the split table within 256 cc. -/
  | spillBringBack (core : Nat) (slot : Nat) (idx : Nat)
  /-- GLOBAL_LOAD_REPLY (R21). Load data returns: destination registers written, pending cleared, flag counter decremented, waiters woken. -/
  | globalLoadReply (op : Nat)
  /-- HOME_LOAD_REQUEST (R21). A load request reaches its home slice, which grants on a hit or reads DRAM on a miss. -/
  | homeLoadRequest (chip : Nat) (mc : Nat)
  /-- DRAM_READ_COMPLETE (R21). A DRAM read for a slice miss completes and the reply leaves. -/
  | dramReadComplete (mc : Nat) (line : Nat) (bad : Bool)
  /-- NEAR_CACHE_GRANT (R232). A grant reaches a near cache, fills it, completes attached requests and applies a recorded newer probe. -/
  | nearCacheGrant (chip : Nat) (mc : Nat)
  /-- NEAR_CACHE_PROBE (R232). A probe reaches a near cache and is applied, discarded or recorded by sequence comparison. -/
  | nearCacheProbe (chip : Nat) (mc : Nat)
  /-- COMBINE_BUFFER_TIMEOUT (R153). A combine-buffer line is posted 512 cc after its first byte entered. -/
  | combineBufferTimeout (core : Nat) (line : Nat)
  /-- HOME_POSTING_MERGE (R231). A posted line reaches its home, merges by byte mask, advances the sequence number and probes holders. -/
  | homePostingMerge (chip : Nat) (mc : Nat)
  /-- PROBE_ACK_RECEIVE (R231). A near cache's probe acknowledgement reaches the home, which acknowledges the posting once all are in. -/
  | probeAckReceive (chip : Nat) (mc : Nat)
  /-- POSTING_ACK (R153). A home's acknowledgement reaches the core, completing the stores and decrementing their flags. -/
  | postingAck (chip : Nat) (mc : Nat)
  /-- HOME_ATOMIC (R159). A dev or sys scope atomic reaches its home slice and is applied indivisibly. -/
  | homeAtomic (chip : Nat) (mc : Nat)
  /-- ATOMIC_REPLY (R160). An atomic's old value and tag word reach the issuer and its flag is decremented. -/
  | atomicReply (op : Nat)
  /-- TABLE_WALK_STEP (R294). A page-table read returns and the walk checks the entry, descends, finishes or faults. -/
  | tableWalkStep (op : Nat)
  /-- FE_FQHEAD (R302). Host consumes fault entries; deferred entries of a full queue are written as slots free. -/
  | feFqhead (fe : Nat) (v : DWord)
  /-- FE_FRESUME (R303). Host resumes a fault-queue entry by SEQ, with the result in FE_FRSTAT. -/
  | feFresume (fe : Nat) (v : DWord)
  /-- FE_TLBINV (R298). Host starts a TLB invalidation of a page, region or the whole partition. -/
  | feTlbinv (fe : Nat) (v : DWord)
  /-- TLBINV_COMPLETE (R298). An invalidation finishes once covered entries are gone and their accesses are performed; BUSY clears. -/
  | tlbinvComplete (fe : Nat)
  /-- FE_PREEMPT_SAVE (R305). Host requests a save of named groups. -/
  | fePreemptSave (fe : Nat) (v : DWord)
  /-- FE_PREEMPT_RESTORE (R305). Host requests a restore of named saved groups. -/
  | fePreemptRestore (fe : Nat) (v : DWord)
  /-- SLICE_END (R305). A group's slice expires while work waits for its core, and a save is requested. -/
  | sliceEnd (core : Nat) (slot : Nat)
  /-- SAVE_GRACE_EXPIRY (R306). No safe point within 4,096 cc of a save request, so the group is halted. -/
  | saveGraceExpiry (core : Nat) (slot : Nat)
  /-- SAVE_COMPLETE (R310). The context image is complete, CGEN advances and held notes are applied. -/
  | saveComplete (core : Nat) (slot : Nat)
  /-- RESTORE (R314). A saved group is restored when room allows: rows, tiles, image, jobs and replay packets. -/
  | restore (core : Nat) (slot : Nat)
  /-- REGISTER_COMPACTION (R277). A core moves parked groups' register blocks to free an aligned block. -/
  | registerCompaction (core : Nat)
  /-- TEAM_PLACEMENT (R276). The next team of a partition is placed on the first core from the pointer that has room. -/
  | teamPlacement (fe : Nat)
  /-- COHORT_PLACEMENT (R276). A cohort is placed whole on one compute chiplet, all teams starting in one cycle. -/
  | cohortPlacement (fe : Nat)
  /-- FE_SUBMIT (R282). A write of FE_SUBMIT_HI commits a submission, accepted or refused with a status. -/
  | feSubmit (fe : Nat) (v : DWord)
  /-- JOURNAL_DURABLE (R361). Both mirror writes of a Journal change are acknowledged; JOIN results and quota returns follow. -/
  | journalDurable (fe : Nat) (jseq : Nat)
  /-- JOURNAL_MIRROR_FAILURE (R366). A mirror's memory chiplet or channel fails; the other mirror carries on or LOST is set. -/
  | journalMirrorFailure (mc : Nat)
  /-- FE_RESET (R364). Host starts a partition reset. -/
  | feReset (fe : Nat) (v : DWord)
  /-- FE_CTL_ENABLE (R278). Setting EN commits the partition's configuration, or sets ERR if it is invalid. -/
  | feCtlEnable (fe : Nat)
  /-- FE_CTL_DISABLE (R278). Clearing EN starts a partition reset. -/
  | feCtlDisable (fe : Nat)
  /-- WATCHDOG_EXPIRY (R364). A launch places or retires no group for 2^28 cc and a partition reset starts. -/
  | watchdogExpiry (fe : Nat) (jseq : Nat)
  /-- HARDWARE_FAILURE (R366). A part holding a partition's cores or state fails, starting a hardware partition reset. -/
  | hardwareFailure (chip : Nat)
  /-- MG_RESET (R376). Host writes 0xD0 to start a device reset. -/
  | mgReset (v : DWord) (img : Nat) (cause : Nat)
  /-- FATAL_DEVICE_ERROR (R373). A fatal error stops the chiplets abruptly and starts a device reset, logging its cause. -/
  | fatalDeviceError (cause : Nat)
  /-- PLANES_TRAINED (R367). Every waveguide plane has trained, so every partition may be enabled. -/
  | planesTrained
  /-- MG_ATTCMD (R374). Host starts an attestation over the written nonce. -/
  | mgAttcmd (v : DWord)
  /-- ATTESTATION_DONE (R374). The signed report appears in MG_ATTBUF and DONE is set. -/
  | attestationDone
  /-- POWER_LIMIT_REACHED (R375). A power or junction limit is reached and the core clock steps down by 100 MHz. -/
  | powerLimitReached
  /-- CLOCK_RAISE (R375). The measurement stays below the limit for 1 ms and the clock is raised. -/
  | clockRaise
  /-- TT_COMMIT (R287). Host commits the staged Timetable, checked and waiting for the round boundary. -/
  | ttCommit (v : DWord)
  /-- TIMETABLE_ROUND_START (R287). A round starts; a waiting commit takes effect and Proctor budgets are refilled. -/
  | timetableRoundStart
  /-- TIMETABLE_SLOT_START (R288). A Timetable slot starts and class budgets at each port are renewed. -/
  | timetableSlotStart
  /-- FE_WAYMASK (R286). Host writes a way mask for one slice or all slices. -/
  | feWaymask (fe : Nat) (v : DWord)
  /-- WAY_MASK_APPLY (R286). A changed way mask takes effect at the slice within 512 cc. -/
  | wayMaskApply (fe : Nat) (slice : Nat)
  /-- WAY_CLEANING_DONE (R286). Background write-back of removed ways ends and CLEANING clears. -/
  | wayCleaningDone (fe : Nat) (slice : Nat)
  /-- FE_ALLOWLIM (R279). Host writes an allow-list entry's limits; a length of 0 also clears its grants. -/
  | feAllowlim (fe : Nat) (v : DWord)
  /-- VF_MBOX (R280). A virtual function queues a launch pointer and raises the scheduler interrupt, or is dropped. -/
  | vfMbox (vf : Nat) (v : DWord)
  /-- MAILBOX_FIFO_READ (R280). The host scheduler takes a pointer from a virtual function's FIFO. -/
  | mailboxFifoRead (vf : Nat)
  /-- VF_MAP (R281). Host maps a virtual function to a partition, ignored while its FIFO holds pointers. -/
  | vfMap (vf : Nat) (v : DWord)
  /-- FE_JNLHEAD (R363). Host retires Journal entries below a new head. -/
  | feJnlhead (fe : Nat) (v : DWord)
  /-- FE_PROUTHEAD (R341). Host consumes Proctor ring records, ignored if it would pass the tail. -/
  | feProuthead (fe : Nat) (v : DWord)
  /-- REGISTER_WRITE (R7). A write to a register with no row of its own, including the EN-locked configuration checks. -/
  | registerWrite (bar : Nat) (off : Nat) (v : DWord)
  /-- BIAS_FLIP_TO_HOST (R321). Host starts a flip of a page to host bias: lines FLUSHING, flush requests sent. -/
  | biasFlipToHost
  /-- BIAS_FLIP_TO_DEVICE (R322). Host starts a flip of a page to device bias: lines RECALLING, BISnpInv sent. -/
  | biasFlipToDevice
  /-- FLUSH_REQUEST (R321). A compute chiplet posts its lines of the page, invalidates copies and answers FLUSHDONE. -/
  | flushRequest (chip : Nat)
  /-- FLUSHDONE (R321). A FLUSHDONE reaches the home; once all are in, lines are flushed and the bias bit written. -/
  | flushdone (chip : Nat)
  /-- FLUSH_INVALIDATION_ACK (R321). A near cache's flush invalidation acknowledgement reaches the home. -/
  | flushInvalidationAck (chip : Nat)
  /-- BISNP_RESPONSE (R345). The host answers a back-invalidate snoop; data merges and held device accesses proceed. -/
  | bisnpResponse (line : Nat) (half : Nat) (data : List Byte)
  /-- HOST_MEM_READ (R318). A host CXL.mem read is served at the home under the page's bias. -/
  | hostMemRead (pa : Nat) (n : Nat)
  /-- HOST_MEM_WRITE (R318). A host CXL.mem write merges at the home by byte mask: a byte that it does not pick is none. -/
  | hostMemWrite (pa : Nat) (data : List (Option Byte))
  /-- HOST_CACHE_REQUEST (R320). A host request for a shared copy or ownership is granted or refused by bias. -/
  | hostCacheRequest (line : Nat) (half : Nat) (own : Bool)
  /-- SNPDATA (R326). A host SnpData returns modified data and moves holders to S. -/
  | snpdata (line : Nat) (half : Nat)
  /-- SNPINV (R326). A host SnpInv returns modified data and invalidates every copy. -/
  | snpinv (line : Nat) (half : Nat)
  /-- SNPCUR (R326). A host SnpCur returns modified data leaving states unchanged. -/
  | snpcur (line : Nat) (half : Nat)
  /-- HOST_SECTOR_GRANT (R324). The host's answer to RdShared or RdOwn fills a near-cache sector. -/
  | hostSectorGrant (chip : Nat) (line : Nat) (half : Nat) (data : HostData) (own : Bool)
  /-- UPGRADE_NOTICE (R324). EC0 records a sector's first write, after which the posting is acknowledged. -/
  | upgradeNotice (chip : Nat) (line : Nat) (half : Nat)
  /-- FLIT_RECEIVE (R347). A Separator flit arrives, is CRC-checked, delivered in sequence or relayed, duplicates discarded. -/
  | flitReceive (i : Nat) (j : Nat) (ok : Bool)
  /-- FLIT_ACK (R347). A flit acknowledgement reaches the sender, freeing its replay buffer entry. -/
  | flitAck (i : Nat) (j : Nat)
  /-- SWITCHOVER_DRAIN_TIMEOUT (R351). A switch-over's 2 us drain wait expires and resending begins. -/
  | switchoverDrainTimeout (i : Nat) (j : Nat)
  /-- CREDIT_RETURN (R352). A receive credit returns to a sender, which may send another flit. -/
  | creditReturn (i : Nat) (j : Nat)
  /-- COLOUR_LOSS (R348). A receiver sees 8 consecutive CRC failures or 200 ns of no signal and marks the colour lost. -/
  | colourLoss (i : Nat) (j : Nat) (colour : Nat)
  /-- LOSS_REPORT (R350). The source receives a loss report, sets LOSTP or LOSTS and selects a new mode. -/
  | lossReport (i : Nat) (j : Nat) (colour : Nat)
  /-- SEP_ROUTE (R350). Host writes a pair's route mode, preset and lost bits, starting a switch-over if valid. -/
  | sepRoute (i : Nat) (j : Nat) (v : Word)
  /-- COLOUR_RETEST (R348). A colour cleared by the host is retested, and its lost bit set again if it fails. -/
  | colourRetest (i : Nat) (j : Nat) (colour : Nat) (ok : Bool)
  /-- LOSS_OF_LIGHT (R354). An Ednan port loses light and enters TRAIN. -/
  | lossOfLight (p : Nat)
  /-- TRAINING_COMPLETE (R354). An Ednan port's training ends, entering RUN or HOLD by partner. -/
  | trainingComplete (p : Nat) (partner : Nat) (us : Nat)
  /-- TRAINING_TIMEOUT (R354). Training fails for 1 ms and the port goes DOWN. -/
  | trainingTimeout (p : Nat)
  /-- ED_PORT_ENABLE (R354). Host enables an Ednan port, which enters TRAIN. -/
  | edPortEnable (p : Nat)
  /-- ED_PORT_DISABLE (R354). Host disables an Ednan port, which goes DOWN. -/
  | edPortDisable (p : Nat)
  /-- EDNAN_FLIT_RECEIVE (R353). An Ednan flit arrives, is CRC-checked and delivered or resent. -/
  | ednanFlitReceive (p : Nat) (ok : Bool) (pkt : Packet)
  /-- COLLECTIVE_PACKET_RECEIVE (R357). A collective packet is checked against the current TOPV and delivered, or NACKed as stale. -/
  | collectivePacketReceive (p : Nat)
  /-- TOPV_COMMIT (R356). Host commits the staged Ednan routing table and topology version. -/
  | topvCommit (v : DWord)
  /-- CM_CFG (R358). Host configures a communicator, resetting its sequence; ignored while busy. -/
  | cmCfg (v : DWord)
  /-- CM_MAPDATA (R358). Host writes a rank's device number; ignored while busy. -/
  | cmMapdata (v : DWord)
  /-- COLLECTIVE_COMPLETE (R211). A collective job ends, writing DST if done and its Q5 entry. -/
  | collectiveComplete (op : Nat)
  /-- DEADLOCK_PROBE (R259). An Attendance unit sends edge-chasing probes every 4,096 cc and confirms deadlocked sets. -/
  | deadlockProbe (chip : Nat)
  /-- CYCLE_DELIVERY (R260). After the report is acknowledged, CYCLE is delivered to one fragment and its wait withdrawn. -/
  | cycleDelivery (chip : Nat)
  /-- PRIORITY_RAISE (R257). Inherited priority propagates to holders, or is withdrawn, within 1,024 cc. -/
  | priorityRaise (core : Nat) (slot : Nat)
  /-- WAIT_REREAD (R204). A waited word is re-read at least every 4,096 cc and the waiter woken if it differs. -/
  | waitReread (chip : Nat) (idx : Nat)
  /-- NOTE_ARRIVAL (R198). A note packet reaches its target core and is checked, applied and acknowledged, or NACKed. -/
  | noteArrival (core : Nat)
  /-- NOTE_BUFFER_RETRY (R267). A note held at the sending chiplet for a full note buffer is retried. -/
  | noteBufferRetry (core : Nat)
  /-- NOTE_ACK_RECEIVE (R199). A note's acknowledgement or NACK reaches the sender, decrementing its flag and recording failure. -/
  | noteAckReceive (op : Nat)
  /-- WINDOW_CHUNK_ARRIVAL (R166). A copied chunk is written whole and its bit set, releasing waiting accesses. -/
  | windowChunkArrival (team : Nat) (region : Nat) (chunk : Nat)
  /-- MMA_JOB (R180). An MMA job takes its tile's turn, applies rows on an engine and completes or stops on a fault. -/
  | mmaJob (core : Nat) (tile : Nat)
  /-- MLDACC_JOB (R184). An MLDACC job loads a tile in its turn. -/
  | mldaccJob (core : Nat) (tile : Nat)
  /-- MDRAIN_JOB (R185). An MDRAIN reads the tile in its turn and posts converted stores on P2. -/
  | mdrainJob (core : Nat) (tile : Nat)
  /-- MDRAINQ_TURN (R186). An MDRAINQ writes 8 converted entries into its drain queue in its turn. -/
  | mdrainqTurn (core : Nat) (tile : Nat)
  /-- TILE_STATUS_TURN (R187). MSTAT or MRPROG writes a tile's status at the end of its turn. -/
  | tileStatusTurn (core : Nat) (tile : Nat)
  /-- MZERO_TURN (R173). An MZERO or MLDACC that did not remap replaces the tile contents in its turn. -/
  | mzeroTurn (core : Nat) (tile : Nat)
  /-- CHURN_GRANULE (R251). A Churn engine applies one granule step at its home. -/
  | churnGranule (op : Nat) (k : Nat)
  /-- PROCTOR_INVOCATION (R333). A Proctor takes a FIFO entry and runs each matching attachment within budget. -/
  | proctorInvocation (port : Nat)
  /-- PROCTOR_ATTACH (R332). Host attaches a Proctor program on the selected chiplets, all or none. -/
  | proctorAttach (fe : Nat) (v : DWord)
  /-- PROCTOR_DETACH (R332). Host detaches a Proctor program and frees its scratch. -/
  | proctorDetach (fe : Nat) (v : DWord)
  /-- REGISTER_SCRUB (R62). The register scrubber checks words in free bank cycles, correcting or marking them bad. -/
  | registerScrub (core : Nat) (row : Nat) (lane : Nat)
  /-- STORAGE_SCRUB (R370). SRAM storage is scrubbed every 2^28 cc, dropping, refetching or poisoning on errors. -/
  | storageScrub (kind : Nat) (place : Nat) (line : Nat) (fatal : Bool)
  /-- DRAM_PATROL (R370). Each DRAM stack is patrolled every 24 hours, poisoning lines it cannot correct. -/
  | dramPatrol (mc : Nat) (line : Nat) (bad : Bool)
  /-- UNLISTED_OPCODE (R73). An instruction word whose major or minor is not listed reaches issue and takes ILLOP. -/
  | unlistedOpcode (ws : List Word)
  /-- SCRATCHPAD_ACCESS_COMPLETE (R150). An SLD, SST, XLD or XST finishes writing its destination lanes or scratchpad bytes, clearing pending registers and decrementing its flag. -/
  | scratchpadAccessComplete (op : Nat)
  /-- CHIPLET_POWER_GATING (R327). A chiplet about to be power-gated posts its combine buffer, writes back its modified host sectors and is then gated. -/
  | chipletPowerGating (chip : Nat)
  deriving DecidableEq, Repr

end Sys2Proof
end

