-- ==== Sys2Proof/Decode.lean ====
section
/-! DEFINITION. Decoding and encoding (04_encodings_and_assembly.md, R63 to R75; the Proctor's words, R338). `Enc` is an
instruction word group by its format and opcode; the tables `Enc.instr?` and `Instr.enc` go between it and `Instr`.
`decode` reads words in the order of R75 (steps 1 to 4) and rejects by name; `encode` writes the words of an instruction
from the same tables. -/

namespace Sys2Proof

/-- The `n` bits of `w` from bit `lo` upward (R4). -/
def field (w : Word) (lo n : Nat) : BitVec n := BitVec.ofNat n (w.toNat / 2 ^ lo)

/-- Bit `i` of `w` (R4). -/
def flag (w : Word) (i : Nat) : Bool := w.toNat / 2 ^ i % 2 == 1

/-- 0 or 1. -/
def bitOf (b : Bool) : Nat := if b then 1 else 0

/-- An encoded instruction: its format, its opcode and its fields (R63, R65 to R71, R338). -/
inductive Enc where
  | vs3 (maj : BitVec 6) (f : Vs3)
  | vs2i (maj : BitVec 6) (f : Vs2i)
  | us (f : Us)
  | usi (f : Usi)
  | br (maj : BitVec 6) (f : Br)
  | nop (f : NopF)
  | lg (maj : BitVec 6) (minor : BitVec 8) (f : Lg)
  | lm (maj : BitVec 6) (minor : BitVec 8) (f : Lm)
  | la (maj : BitVec 6) (minor : BitVec 8) (f : La)
  | lx (maj : BitVec 6) (minor : BitVec 8) (f : Lx)
  | lb (maj : BitVec 6) (minor : BitVec 8) (f : Lb)
  | pr (op : BitVec 6) (f : Pr)
  deriving DecidableEq, Repr

/-- The minors of major 0x00 (R73). -/
def vintInstr (f : Lg) : Nat → Option Instr
  | 0x00 => some (.vadd f)
  | 0x01 => some (.vsub f)
  | 0x02 => some (.vaddc f)
  | 0x03 => some (.vsubb f)
  | 0x04 => some (.vmul f)
  | 0x05 => some (.vmulhi f)
  | 0x06 => some (.vmad f)
  | 0x07 => some (.vmadw f)
  | 0x08 => some (.vabsd f)
  | 0x09 => some (.vmin f)
  | 0x0A => some (.vmax f)
  | 0x0B => some (.vand f)
  | 0x0C => some (.vor f)
  | 0x0D => some (.vxor f)
  | 0x0E => some (.vandn f)
  | 0x0F => some (.vshl f)
  | 0x10 => some (.vshr f)
  | 0x11 => some (.vsra f)
  | 0x12 => some (.vfshr f)
  | 0x13 => some (.vbfe f)
  | 0x14 => some (.vbfi f)
  | 0x15 => some (.vpopc f)
  | 0x16 => some (.vclz f)
  | 0x17 => some (.vbrev f)
  | 0x18 => some (.vsel f)
  | 0x19 => some (.vmov f)
  | 0x1A => some (.vmovi f)
  | 0x1B => some (.vmovx f)
  | 0x1C => some (.vlea f)
  | 0x1D => some (.vdiv f)
  | 0x1E => some (.vrem f)
  | _ => none

/-- The minors of major 0x01 (R73). -/
def vfltInstr (f : Lg) : Nat → Option Instr
  | 0x00 => some (.vfadd f)
  | 0x01 => some (.vfsub f)
  | 0x02 => some (.vfmul f)
  | 0x03 => some (.vfma f)
  | 0x04 => some (.vfmin f)
  | 0x05 => some (.vfmax f)
  | 0x06 => some (.vfrnd f)
  | 0x07 => some (.vffract f)
  | 0x08 => some (.vfdot2 f)
  | 0x09 => some (.vfclass f)
  | 0x0A => some (.vfldexp f)
  | 0x0B => some (.vffrexp f)
  | 0x0C => some (.vfcopys f)
  | 0x0D => some (.vfdiv f)
  | _ => none

/-- The minors of major 0x02 (R73). -/
def vxfnInstr (f : Lg) : Nat → Option Instr
  | 0x00 => some (.vrcp f)
  | 0x01 => some (.vrsq f)
  | 0x02 => some (.vsqrt f)
  | 0x03 => some (.vexp2 f)
  | 0x04 => some (.vlog2 f)
  | 0x05 => some (.vsinpi f)
  | 0x06 => some (.vcospi f)
  | 0x07 => some (.vtanh f)
  | _ => none

/-- The minors of major 0x03 (R73). -/
def vcnvInstr (f : Lg) : Nat → Option Instr
  | 0x00 => some (.vcvtf f)
  | 0x01 => some (.vcvtfi f)
  | 0x02 => some (.vcvtif f)
  | 0x03 => some (.vpack f)
  | 0x04 => some (.vunpk f)
  | 0x05 => some (.vcvtlg f)
  | 0x06 => some (.vlgcvt f)
  | 0x07 => some (.vcmp f)
  | 0x08 => some (.vcmpf f)
  | _ => none

/-- The minors of major 0x04 (R73). -/
def vlaneInstr (f : Lg) : Nat → Option Instr
  | 0x00 => some (.vshfl f)
  | 0x01 => some (.vbcst f)
  | 0x02 => some (.vrdln f)
  | 0x03 => some (.vwrln f)
  | 0x04 => some (.vballot f)
  | 0x05 => some (.vmpfx f)
  | 0x06 => some (.vred f)
  | 0x07 => some (.vscan f)
  | 0x08 => some (.vqswz f)
  | 0x09 => some (.vmatch f)
  | _ => none

/-- The minors of major 0x08 (R73). -/
def ualuInstr (f : Lg) : Nat → Option Instr
  | 0x00 => some (.sadd f)
  | 0x01 => some (.ssub f)
  | 0x02 => some (.smul f)
  | 0x03 => some (.smulhi f)
  | 0x04 => some (.sand f)
  | 0x05 => some (.sor f)
  | 0x06 => some (.sxor f)
  | 0x07 => some (.sandn f)
  | 0x08 => some (.sshl f)
  | 0x09 => some (.sshr f)
  | 0x0A => some (.ssra f)
  | 0x0B => some (.sbfe f)
  | 0x0C => some (.spopc f)
  | 0x0D => some (.sclz f)
  | 0x0E => some (.smin f)
  | 0x0F => some (.smax f)
  | 0x10 => some (.smov f)
  | 0x11 => some (.ssel f)
  | 0x12 => some (.scmp f)
  | 0x13 => some (.slea f)
  | 0x14 => some (.smovk f)
  | 0x15 => some (.sfadd f)
  | 0x16 => some (.sfmul f)
  | 0x17 => some (.sfma f)
  | 0x18 => some (.smff1 f)
  | _ => none

/-- The minors of major 0x13 (R73). -/
def mordInstr (f : Lg) : Nat → Option Instr
  | 0x00 => some (.fence f)
  | 0x01 => some (.fencex f)
  | 0x02 => some (.cinv f)
  | 0x03 => some (.cwb f)
  | 0x04 => some (.wbind f)
  | 0x05 => some (.wunbind f)
  | 0x06 => some (.wwarm f)
  | 0x07 => some (.wtest f)
  | 0x08 => some (.wwait f)
  | 0x09 => some (.wslice f)
  | 0x0A => some (.chfill f)
  | 0x0B => some (.chcopy f)
  | 0x0C => some (.chcmp f)
  | 0x0D => some (.chred f)
  | _ => none

/-- The minors of major 0x20 (R73). -/
def noteInstr (f : Lg) : Nat → Option Instr
  | 0x00 => some (.capmint f)
  | 0x01 => some (.caprev f)
  | 0x02 => some (.note f)
  | 0x03 => some (.noteu f)
  | 0x04 => some (.expect f)
  | 0x05 => some (.npoll f)
  | _ => none

/-- The minors of major 0x21 (R73). -/
def attnInstr (f : Lg) : Nat → Option Instr
  | 0x00 => some (.wreg f)
  | 0x01 => some (.wdrop f)
  | 0x02 => some (.wait f)
  | 0x03 => some (.lock f)
  | 0x04 => some (.unlock f)
  | 0x05 => some (.bar f)
  | 0x06 => some (.bara f)
  | 0x07 => some (.barw f)
  | 0x08 => some (.whold f)
  | 0x09 => some (.wstat f)
  | _ => none

/-- The minors of major 0x22 (R73). -/
def workInstr (f : Lg) : Nat → Option Instr
  | 0x00 => some (.spawn f)
  | 0x01 => some (.launch f)
  | 0x02 => some (.join f)
  | 0x03 => some (.kill f)
  | 0x04 => some (.quota f)
  | 0x05 => some (.coll f)
  | 0x06 => some (.ctopv f)
  | _ => none

/-- The minors of major 0x23 (R73). -/
def systInstr (f : Lg) : Nat → Option Instr
  | 0x00 => some (.trap f)
  | 0x01 => some (.tret f)
  | 0x02 => some (.sgetsr f)
  | 0x03 => some (.ssetsr f)
  | 0x04 => some (.sleep f)
  | 0x05 => some (.pmark f)
  | 0x06 => some (.dbrk f)
  | 0x07 => some (.fresume f)
  | _ => none

/-- The minors of major 0x10 (R73). -/
def mglbInstr (f : Lm) : Nat → Option Instr
  | 0x00 => some (.gld f)
  | 0x01 => some (.gst f)
  | 0x02 => some (.uld f)
  | 0x03 => some (.ust f)
  | 0x04 => some (.cpf f)
  | _ => none

/-- The minors of major 0x11 (R73). -/
def mscrInstr (f : Lm) : Nat → Option Instr
  | 0x00 => some (.sld f)
  | 0x01 => some (.sst f)
  | 0x02 => some (.xld f)
  | 0x03 => some (.xst f)
  | _ => none

/-- The minors of major 0x12 (R73). -/
def matmInstr (f : La) : Nat → Option Instr
  | 0x00 => some (.gatom f)
  | 0x01 => some (.satom f)
  | 0x02 => some (.xatom f)
  | 0x03 => some (.uatom f)
  | _ => none

/-- The minors of major 0x18 (R73). -/
def mtrxInstr (f : Lx) : Nat → Option Instr
  | 0x00 => some (.mma f)
  | 0x01 => some (.mzero f)
  | 0x02 => some (.mdrain f)
  | 0x03 => some (.mdrainq f)
  | 0x04 => some (.mldacc f)
  | 0x05 => some (.mstat f)
  | 0x06 => some (.mrprog f)
  | _ => none

/-- The minors of major 0x09 (R73). -/
def ctrlInstr (f : Lb) : Nat → Option Instr
  | 0x00 => some (.jmp f)
  | 0x01 => some (.brs f)
  | 0x02 => some (.brz f)
  | 0x03 => some (.split f)
  | 0x04 => some (.break f)
  | 0x05 => some (.call f)
  | 0x06 => some (.ret f)
  | 0x07 => some (.jmpi f)
  | 0x08 => some (.exit f)
  | 0x09 => some (.yield f)
  | _ => none

/-- The VS3 majors (R66). -/
def vs3Instr (f : Vs3) : Nat → Option Instr
  | 0x00 => some (.vaddShort f)
  | 0x01 => some (.vsubShort f)
  | 0x02 => some (.vmulShort f)
  | 0x03 => some (.vandShort f)
  | 0x04 => some (.vorShort f)
  | 0x05 => some (.vxorShort f)
  | 0x06 => some (.vshlShort f)
  | 0x07 => some (.vshrShort f)
  | 0x08 => some (.vsraShort f)
  | 0x09 => some (.vminShort f)
  | 0x0A => some (.vmaxShort f)
  | 0x0B => some (.vfaddShort f)
  | 0x0C => some (.vfsubShort f)
  | 0x0D => some (.vfmulShort f)
  | 0x0E => some (.vfmac f)
  | 0x0F => some (.vfminShort f)
  | 0x10 => some (.vfmaxShort f)
  | 0x11 => some (.vmovShort f)
  | _ => none

/-- The VS2I majors (R66). -/
def vs2iInstr (f : Vs2i) : Nat → Option Instr
  | 0x20 => some (.vaddi f)
  | 0x21 => some (.vshli f)
  | 0x22 => some (.vshri f)
  | 0x23 => some (.vandi f)
  | _ => none

/-- The Proctor opcodes (R338); TRIG is told apart by its act, imm14[1:0]. -/
def prInstr (f : Pr) : Nat → Option Instr
  | 0x00 => some (.prLde f)
  | 0x01 => some (.prLdi f)
  | 0x02 => some (.prAdd f)
  | 0x03 => some (.prSub f)
  | 0x04 => some (.prAnd f)
  | 0x05 => some (.prOr f)
  | 0x06 => some (.prXor f)
  | 0x07 => some (.prShl f)
  | 0x08 => some (.prShr f)
  | 0x09 => some (.prMin f)
  | 0x0A => some (.prMax f)
  | 0x0B => some (.prMul f)
  | 0x0C => some (.prHash f)
  | 0x0D => some (.prBfw f)
  | 0x0E => some (.prHinc f)
  | 0x0F => some (.prSkinc f)
  | 0x10 => some (.prHll f)
  | 0x11 => some (.prLdm f)
  | 0x12 => some (.prStm f)
  | 0x14 => some (.prEmit f)
  | 0x15 => some (.prEnd f)
  | 0x13 => match f.imm.toNat % 4 with
    | 0 => some (.prTrigIrq f)
    | 1 => some (.prTrigSnap f)
    | 2 => some (.prTrigArm f)
    | _ => some (.prTrigDisarm f)
  | _ => none

/-- The instruction an encoding stands for; `none` for an unlisted minor (R73) or Proctor opcode (R338). -/
def Enc.instr? : Enc → Option Instr
  | .vs3 maj f => vs3Instr f maj.toNat
  | .vs2i maj f => vs2iInstr f maj.toNat
  | .us f => some (.saddi f)
  | .usi f => some (.smovi f)
  | .br maj f => match maj.toNat with
    | 0x30 => some (.jmpShort f)
    | 0x31 => some (.brsShort f)
    | _ => none
  | .nop f => some (.nop f)
  | .lg maj minor f => match maj.toNat with
    | 0x00 => vintInstr f minor.toNat
    | 0x01 => vfltInstr f minor.toNat
    | 0x02 => vxfnInstr f minor.toNat
    | 0x03 => vcnvInstr f minor.toNat
    | 0x04 => vlaneInstr f minor.toNat
    | 0x08 => ualuInstr f minor.toNat
    | 0x13 => mordInstr f minor.toNat
    | 0x20 => noteInstr f minor.toNat
    | 0x21 => attnInstr f minor.toNat
    | 0x22 => workInstr f minor.toNat
    | 0x23 => systInstr f minor.toNat
    | _ => none
  | .lm maj minor f => match maj.toNat with
    | 0x10 => mglbInstr f minor.toNat
    | 0x11 => mscrInstr f minor.toNat
    | _ => none
  | .la maj minor f => match maj.toNat with
    | 0x12 => matmInstr f minor.toNat
    | _ => none
  | .lx maj minor f => match maj.toNat with
    | 0x18 => mtrxInstr f minor.toNat
    | _ => none
  | .lb maj minor f => match maj.toNat with
    | 0x09 => ctrlInstr f minor.toNat
    | _ => none
  | .pr op f => prInstr f op.toNat

/-- The encoding of an instruction; the device's and the host's steps have none. -/
def Instr.enc : Instr → Option Enc
  | .vaddShort f => some (.vs3 0x00#6 f)
  | .vsubShort f => some (.vs3 0x01#6 f)
  | .vmulShort f => some (.vs3 0x02#6 f)
  | .vandShort f => some (.vs3 0x03#6 f)
  | .vorShort f => some (.vs3 0x04#6 f)
  | .vxorShort f => some (.vs3 0x05#6 f)
  | .vshlShort f => some (.vs3 0x06#6 f)
  | .vshrShort f => some (.vs3 0x07#6 f)
  | .vsraShort f => some (.vs3 0x08#6 f)
  | .vminShort f => some (.vs3 0x09#6 f)
  | .vmaxShort f => some (.vs3 0x0A#6 f)
  | .vfaddShort f => some (.vs3 0x0B#6 f)
  | .vfsubShort f => some (.vs3 0x0C#6 f)
  | .vfmulShort f => some (.vs3 0x0D#6 f)
  | .vfmac f => some (.vs3 0x0E#6 f)
  | .vfminShort f => some (.vs3 0x0F#6 f)
  | .vfmaxShort f => some (.vs3 0x10#6 f)
  | .vmovShort f => some (.vs3 0x11#6 f)
  | .vaddi f => some (.vs2i 0x20#6 f)
  | .vshli f => some (.vs2i 0x21#6 f)
  | .vshri f => some (.vs2i 0x22#6 f)
  | .vandi f => some (.vs2i 0x23#6 f)
  | .saddi f => some (.us f)
  | .smovi f => some (.usi f)
  | .jmpShort f => some (.br 0x30#6 f)
  | .brsShort f => some (.br 0x31#6 f)
  | .nop f => some (.nop f)
  | .vadd f => some (.lg 0x00#6 0x00#8 f)
  | .vsub f => some (.lg 0x00#6 0x01#8 f)
  | .vaddc f => some (.lg 0x00#6 0x02#8 f)
  | .vsubb f => some (.lg 0x00#6 0x03#8 f)
  | .vmul f => some (.lg 0x00#6 0x04#8 f)
  | .vmulhi f => some (.lg 0x00#6 0x05#8 f)
  | .vmad f => some (.lg 0x00#6 0x06#8 f)
  | .vmadw f => some (.lg 0x00#6 0x07#8 f)
  | .vabsd f => some (.lg 0x00#6 0x08#8 f)
  | .vmin f => some (.lg 0x00#6 0x09#8 f)
  | .vmax f => some (.lg 0x00#6 0x0A#8 f)
  | .vand f => some (.lg 0x00#6 0x0B#8 f)
  | .vor f => some (.lg 0x00#6 0x0C#8 f)
  | .vxor f => some (.lg 0x00#6 0x0D#8 f)
  | .vandn f => some (.lg 0x00#6 0x0E#8 f)
  | .vshl f => some (.lg 0x00#6 0x0F#8 f)
  | .vshr f => some (.lg 0x00#6 0x10#8 f)
  | .vsra f => some (.lg 0x00#6 0x11#8 f)
  | .vfshr f => some (.lg 0x00#6 0x12#8 f)
  | .vbfe f => some (.lg 0x00#6 0x13#8 f)
  | .vbfi f => some (.lg 0x00#6 0x14#8 f)
  | .vpopc f => some (.lg 0x00#6 0x15#8 f)
  | .vclz f => some (.lg 0x00#6 0x16#8 f)
  | .vbrev f => some (.lg 0x00#6 0x17#8 f)
  | .vsel f => some (.lg 0x00#6 0x18#8 f)
  | .vmov f => some (.lg 0x00#6 0x19#8 f)
  | .vmovi f => some (.lg 0x00#6 0x1A#8 f)
  | .vmovx f => some (.lg 0x00#6 0x1B#8 f)
  | .vlea f => some (.lg 0x00#6 0x1C#8 f)
  | .vdiv f => some (.lg 0x00#6 0x1D#8 f)
  | .vrem f => some (.lg 0x00#6 0x1E#8 f)
  | .vfadd f => some (.lg 0x01#6 0x00#8 f)
  | .vfsub f => some (.lg 0x01#6 0x01#8 f)
  | .vfmul f => some (.lg 0x01#6 0x02#8 f)
  | .vfma f => some (.lg 0x01#6 0x03#8 f)
  | .vfmin f => some (.lg 0x01#6 0x04#8 f)
  | .vfmax f => some (.lg 0x01#6 0x05#8 f)
  | .vfrnd f => some (.lg 0x01#6 0x06#8 f)
  | .vffract f => some (.lg 0x01#6 0x07#8 f)
  | .vfdot2 f => some (.lg 0x01#6 0x08#8 f)
  | .vfclass f => some (.lg 0x01#6 0x09#8 f)
  | .vfldexp f => some (.lg 0x01#6 0x0A#8 f)
  | .vffrexp f => some (.lg 0x01#6 0x0B#8 f)
  | .vfcopys f => some (.lg 0x01#6 0x0C#8 f)
  | .vfdiv f => some (.lg 0x01#6 0x0D#8 f)
  | .vrcp f => some (.lg 0x02#6 0x00#8 f)
  | .vrsq f => some (.lg 0x02#6 0x01#8 f)
  | .vsqrt f => some (.lg 0x02#6 0x02#8 f)
  | .vexp2 f => some (.lg 0x02#6 0x03#8 f)
  | .vlog2 f => some (.lg 0x02#6 0x04#8 f)
  | .vsinpi f => some (.lg 0x02#6 0x05#8 f)
  | .vcospi f => some (.lg 0x02#6 0x06#8 f)
  | .vtanh f => some (.lg 0x02#6 0x07#8 f)
  | .vcvtf f => some (.lg 0x03#6 0x00#8 f)
  | .vcvtfi f => some (.lg 0x03#6 0x01#8 f)
  | .vcvtif f => some (.lg 0x03#6 0x02#8 f)
  | .vpack f => some (.lg 0x03#6 0x03#8 f)
  | .vunpk f => some (.lg 0x03#6 0x04#8 f)
  | .vcvtlg f => some (.lg 0x03#6 0x05#8 f)
  | .vlgcvt f => some (.lg 0x03#6 0x06#8 f)
  | .vcmp f => some (.lg 0x03#6 0x07#8 f)
  | .vcmpf f => some (.lg 0x03#6 0x08#8 f)
  | .vshfl f => some (.lg 0x04#6 0x00#8 f)
  | .vbcst f => some (.lg 0x04#6 0x01#8 f)
  | .vrdln f => some (.lg 0x04#6 0x02#8 f)
  | .vwrln f => some (.lg 0x04#6 0x03#8 f)
  | .vballot f => some (.lg 0x04#6 0x04#8 f)
  | .vmpfx f => some (.lg 0x04#6 0x05#8 f)
  | .vred f => some (.lg 0x04#6 0x06#8 f)
  | .vscan f => some (.lg 0x04#6 0x07#8 f)
  | .vqswz f => some (.lg 0x04#6 0x08#8 f)
  | .vmatch f => some (.lg 0x04#6 0x09#8 f)
  | .sadd f => some (.lg 0x08#6 0x00#8 f)
  | .ssub f => some (.lg 0x08#6 0x01#8 f)
  | .smul f => some (.lg 0x08#6 0x02#8 f)
  | .smulhi f => some (.lg 0x08#6 0x03#8 f)
  | .sand f => some (.lg 0x08#6 0x04#8 f)
  | .sor f => some (.lg 0x08#6 0x05#8 f)
  | .sxor f => some (.lg 0x08#6 0x06#8 f)
  | .sandn f => some (.lg 0x08#6 0x07#8 f)
  | .sshl f => some (.lg 0x08#6 0x08#8 f)
  | .sshr f => some (.lg 0x08#6 0x09#8 f)
  | .ssra f => some (.lg 0x08#6 0x0A#8 f)
  | .sbfe f => some (.lg 0x08#6 0x0B#8 f)
  | .spopc f => some (.lg 0x08#6 0x0C#8 f)
  | .sclz f => some (.lg 0x08#6 0x0D#8 f)
  | .smin f => some (.lg 0x08#6 0x0E#8 f)
  | .smax f => some (.lg 0x08#6 0x0F#8 f)
  | .smov f => some (.lg 0x08#6 0x10#8 f)
  | .ssel f => some (.lg 0x08#6 0x11#8 f)
  | .scmp f => some (.lg 0x08#6 0x12#8 f)
  | .slea f => some (.lg 0x08#6 0x13#8 f)
  | .smovk f => some (.lg 0x08#6 0x14#8 f)
  | .sfadd f => some (.lg 0x08#6 0x15#8 f)
  | .sfmul f => some (.lg 0x08#6 0x16#8 f)
  | .sfma f => some (.lg 0x08#6 0x17#8 f)
  | .smff1 f => some (.lg 0x08#6 0x18#8 f)
  | .jmp f => some (.lb 0x09#6 0x00#8 f)
  | .brs f => some (.lb 0x09#6 0x01#8 f)
  | .brz f => some (.lb 0x09#6 0x02#8 f)
  | .split f => some (.lb 0x09#6 0x03#8 f)
  | .break f => some (.lb 0x09#6 0x04#8 f)
  | .call f => some (.lb 0x09#6 0x05#8 f)
  | .ret f => some (.lb 0x09#6 0x06#8 f)
  | .jmpi f => some (.lb 0x09#6 0x07#8 f)
  | .exit f => some (.lb 0x09#6 0x08#8 f)
  | .yield f => some (.lb 0x09#6 0x09#8 f)
  | .gld f => some (.lm 0x10#6 0x00#8 f)
  | .gst f => some (.lm 0x10#6 0x01#8 f)
  | .uld f => some (.lm 0x10#6 0x02#8 f)
  | .ust f => some (.lm 0x10#6 0x03#8 f)
  | .cpf f => some (.lm 0x10#6 0x04#8 f)
  | .sld f => some (.lm 0x11#6 0x00#8 f)
  | .sst f => some (.lm 0x11#6 0x01#8 f)
  | .xld f => some (.lm 0x11#6 0x02#8 f)
  | .xst f => some (.lm 0x11#6 0x03#8 f)
  | .gatom f => some (.la 0x12#6 0x00#8 f)
  | .satom f => some (.la 0x12#6 0x01#8 f)
  | .xatom f => some (.la 0x12#6 0x02#8 f)
  | .uatom f => some (.la 0x12#6 0x03#8 f)
  | .fence f => some (.lg 0x13#6 0x00#8 f)
  | .fencex f => some (.lg 0x13#6 0x01#8 f)
  | .cinv f => some (.lg 0x13#6 0x02#8 f)
  | .cwb f => some (.lg 0x13#6 0x03#8 f)
  | .wbind f => some (.lg 0x13#6 0x04#8 f)
  | .wunbind f => some (.lg 0x13#6 0x05#8 f)
  | .wwarm f => some (.lg 0x13#6 0x06#8 f)
  | .wtest f => some (.lg 0x13#6 0x07#8 f)
  | .wwait f => some (.lg 0x13#6 0x08#8 f)
  | .wslice f => some (.lg 0x13#6 0x09#8 f)
  | .chfill f => some (.lg 0x13#6 0x0A#8 f)
  | .chcopy f => some (.lg 0x13#6 0x0B#8 f)
  | .chcmp f => some (.lg 0x13#6 0x0C#8 f)
  | .chred f => some (.lg 0x13#6 0x0D#8 f)
  | .mma f => some (.lx 0x18#6 0x00#8 f)
  | .mzero f => some (.lx 0x18#6 0x01#8 f)
  | .mdrain f => some (.lx 0x18#6 0x02#8 f)
  | .mdrainq f => some (.lx 0x18#6 0x03#8 f)
  | .mldacc f => some (.lx 0x18#6 0x04#8 f)
  | .mstat f => some (.lx 0x18#6 0x05#8 f)
  | .mrprog f => some (.lx 0x18#6 0x06#8 f)
  | .capmint f => some (.lg 0x20#6 0x00#8 f)
  | .caprev f => some (.lg 0x20#6 0x01#8 f)
  | .note f => some (.lg 0x20#6 0x02#8 f)
  | .noteu f => some (.lg 0x20#6 0x03#8 f)
  | .expect f => some (.lg 0x20#6 0x04#8 f)
  | .npoll f => some (.lg 0x20#6 0x05#8 f)
  | .wreg f => some (.lg 0x21#6 0x00#8 f)
  | .wdrop f => some (.lg 0x21#6 0x01#8 f)
  | .wait f => some (.lg 0x21#6 0x02#8 f)
  | .lock f => some (.lg 0x21#6 0x03#8 f)
  | .unlock f => some (.lg 0x21#6 0x04#8 f)
  | .bar f => some (.lg 0x21#6 0x05#8 f)
  | .bara f => some (.lg 0x21#6 0x06#8 f)
  | .barw f => some (.lg 0x21#6 0x07#8 f)
  | .whold f => some (.lg 0x21#6 0x08#8 f)
  | .wstat f => some (.lg 0x21#6 0x09#8 f)
  | .spawn f => some (.lg 0x22#6 0x00#8 f)
  | .launch f => some (.lg 0x22#6 0x01#8 f)
  | .join f => some (.lg 0x22#6 0x02#8 f)
  | .kill f => some (.lg 0x22#6 0x03#8 f)
  | .quota f => some (.lg 0x22#6 0x04#8 f)
  | .coll f => some (.lg 0x22#6 0x05#8 f)
  | .ctopv f => some (.lg 0x22#6 0x06#8 f)
  | .trap f => some (.lg 0x23#6 0x00#8 f)
  | .tret f => some (.lg 0x23#6 0x01#8 f)
  | .sgetsr f => some (.lg 0x23#6 0x02#8 f)
  | .ssetsr f => some (.lg 0x23#6 0x03#8 f)
  | .sleep f => some (.lg 0x23#6 0x04#8 f)
  | .pmark f => some (.lg 0x23#6 0x05#8 f)
  | .dbrk f => some (.lg 0x23#6 0x06#8 f)
  | .fresume f => some (.lg 0x23#6 0x07#8 f)
  | .prLde f => some (.pr 0x00#6 f)
  | .prLdi f => some (.pr 0x01#6 f)
  | .prAdd f => some (.pr 0x02#6 f)
  | .prSub f => some (.pr 0x03#6 f)
  | .prAnd f => some (.pr 0x04#6 f)
  | .prOr f => some (.pr 0x05#6 f)
  | .prXor f => some (.pr 0x06#6 f)
  | .prShl f => some (.pr 0x07#6 f)
  | .prShr f => some (.pr 0x08#6 f)
  | .prMin f => some (.pr 0x09#6 f)
  | .prMax f => some (.pr 0x0A#6 f)
  | .prMul f => some (.pr 0x0B#6 f)
  | .prHash f => some (.pr 0x0C#6 f)
  | .prBfw f => some (.pr 0x0D#6 f)
  | .prHinc f => some (.pr 0x0E#6 f)
  | .prSkinc f => some (.pr 0x0F#6 f)
  | .prHll f => some (.pr 0x10#6 f)
  | .prLdm f => some (.pr 0x11#6 f)
  | .prStm f => some (.pr 0x12#6 f)
  | .prTrigIrq f => some (.pr 0x13#6 f)
  | .prTrigSnap f => some (.pr 0x13#6 f)
  | .prTrigArm f => some (.pr 0x13#6 f)
  | .prTrigDisarm f => some (.pr 0x13#6 f)
  | .prEmit f => some (.pr 0x14#6 f)
  | .prEnd f => some (.pr 0x15#6 f)
  | .enterClause _ _ _ => none
  | .waitingTableRetest _ _ _ => none
  | .sleepExpiry _ _ _ => none
  | .spillBringBack _ _ _ => none
  | .globalLoadReply _ => none
  | .homeLoadRequest _ _ => none
  | .dramReadComplete _ _ _ => none
  | .nearCacheGrant _ _ => none
  | .nearCacheProbe _ _ => none
  | .combineBufferTimeout _ _ => none
  | .homePostingMerge _ _ => none
  | .probeAckReceive _ _ => none
  | .postingAck _ _ => none
  | .homeAtomic _ _ => none
  | .atomicReply _ => none
  | .tableWalkStep _ => none
  | .feFqhead _ _ => none
  | .feFresume _ _ => none
  | .feTlbinv _ _ => none
  | .tlbinvComplete _ => none
  | .fePreemptSave _ _ => none
  | .fePreemptRestore _ _ => none
  | .sliceEnd _ _ => none
  | .saveGraceExpiry _ _ => none
  | .saveComplete _ _ => none
  | .restore _ _ => none
  | .registerCompaction _ => none
  | .teamPlacement _ => none
  | .cohortPlacement _ => none
  | .feSubmit _ _ => none
  | .journalDurable _ _ => none
  | .journalMirrorFailure _ => none
  | .feReset _ _ => none
  | .feCtlEnable _ => none
  | .feCtlDisable _ => none
  | .watchdogExpiry _ _ => none
  | .hardwareFailure _ => none
  | .mgReset _ _ _ => none
  | .fatalDeviceError _ => none
  | .planesTrained => none
  | .mgAttcmd _ => none
  | .attestationDone => none
  | .powerLimitReached => none
  | .clockRaise => none
  | .ttCommit _ => none
  | .timetableRoundStart => none
  | .timetableSlotStart => none
  | .feWaymask _ _ => none
  | .wayMaskApply _ _ => none
  | .wayCleaningDone _ _ => none
  | .feAllowlim _ _ => none
  | .vfMbox _ _ => none
  | .mailboxFifoRead _ => none
  | .vfMap _ _ => none
  | .feJnlhead _ _ => none
  | .feProuthead _ _ => none
  | .registerWrite _ _ _ => none
  | .biasFlipToHost => none
  | .biasFlipToDevice => none
  | .flushRequest _ => none
  | .flushdone _ => none
  | .flushInvalidationAck _ => none
  | .bisnpResponse _ _ _ => none
  | .hostMemRead _ _ => none
  | .hostMemWrite _ _ => none
  | .hostCacheRequest _ _ _ => none
  | .snpdata _ _ => none
  | .snpinv _ _ => none
  | .snpcur _ _ => none
  | .hostSectorGrant _ _ _ _ _ => none
  | .upgradeNotice _ _ _ => none
  | .flitReceive _ _ _ => none
  | .flitAck _ _ => none
  | .switchoverDrainTimeout _ _ => none
  | .creditReturn _ _ => none
  | .colourLoss _ _ _ => none
  | .lossReport _ _ _ => none
  | .sepRoute _ _ _ => none
  | .colourRetest _ _ _ _ => none
  | .lossOfLight _ => none
  | .trainingComplete _ _ _ => none
  | .trainingTimeout _ => none
  | .edPortEnable _ => none
  | .edPortDisable _ => none
  | .ednanFlitReceive _ _ _ => none
  | .collectivePacketReceive _ => none
  | .topvCommit _ => none
  | .cmCfg _ => none
  | .cmMapdata _ => none
  | .collectiveComplete _ => none
  | .deadlockProbe _ => none
  | .cycleDelivery _ => none
  | .priorityRaise _ _ => none
  | .waitReread _ _ => none
  | .noteArrival _ => none
  | .noteBufferRetry _ => none
  | .noteAckReceive _ => none
  | .windowChunkArrival _ _ _ => none
  | .mmaJob _ _ => none
  | .mldaccJob _ _ => none
  | .mdrainJob _ _ => none
  | .mdrainqTurn _ _ => none
  | .tileStatusTurn _ _ => none
  | .mzeroTurn _ _ => none
  | .churnGranule _ _ => none
  | .proctorInvocation _ => none
  | .proctorAttach _ _ => none
  | .proctorDetach _ _ => none
  | .registerScrub _ _ _ => none
  | .storageScrub _ _ _ _ => none
  | .dramPatrol _ _ _ => none
  | .unlistedOpcode _ => none
  | .scratchpadAccessComplete _ => none
  | .chipletPowerGating _ => none

/-- A field the entry does not use is zero (R72): `d`, `a`, `b`, `c` say which selector fields the entry uses. -/
def lgUnused (d a b c : Bool) (f : Lg) : Bool :=
  (d || f.d == 0) && (a || f.a == 0) && (b || f.b == 0) && (c || f.c == 0)

/-- The VINT modifier field (R72): `sat` where SAT is allowed, `narrow` where only I32 and N32 are. -/
def vintMod (sat narrow : Bool) (m : Nat) : Bool :=
  m % 4 == 0 && (sat || m / 4 % 2 == 0) && (!narrow || m / 8 < 2)

/-- The VFLT modifier field (R121): `rnd` and `clamp` where the columns say yes. -/
def vfltMod (rnd clamp : Bool) (m : Nat) : Bool := (rnd || m / 2 % 4 == 0) && (clamp || m % 2 == 0)

/-- VCVTF's code and rounding (R140): a widening conversion carries rounding 0. -/
def vcvtfMod (m : Nat) : Bool :=
  match m / 4 with
  | 0 => m % 4 == 0
  | 4 => m % 4 == 0
  | 5 => m % 4 == 0
  | 7 => m % 4 == 0
  | _ => true

/-- Operation and type of VRED and VSCAN (R138). -/
def redMod (m : Nat) : Bool := m / 8 < 2 || m % 8 ≤ 2

/-- Scalar integer modifier (R132). -/
def ualuMod (sat : Bool) (m : Nat) : Bool := m % 4 == 0 && (sat || m / 4 % 2 == 0)

/-- KIND of an Attendance instruction (R200): 1 lock, 2 queue, 3 flag. -/
def kindOk (k : Nat) : Bool := 1 ≤ k && k ≤ 3

/-- Must-be-zero fields, codes and FS of major 0x00, by minor (R72, R116). -/
def vintOk (f : Lg) (m : Nat) : Nat → Bool
  | 0x00 => lgUnused true true true false f && vintMod true false m && !f.fs
  | 0x01 => lgUnused true true true false f && vintMod true false m && !f.fs
  | 0x02 => lgUnused true true true true f && vintMod false true m && !f.fs
  | 0x03 => lgUnused true true true true f && vintMod false true m && !f.fs
  | 0x04 => lgUnused true true true false f && vintMod true false m && !f.fs
  | 0x05 => lgUnused true true true false f && vintMod false false m && !f.fs
  | 0x06 => lgUnused true true true true f && vintMod true false m && !f.fs
  | 0x07 => lgUnused true true true true f && vintMod false true m && !f.fs
  | 0x08 => lgUnused true true true false f && vintMod true false m && !f.fs
  | 0x09 => lgUnused true true true false f && vintMod false false m && !f.fs
  | 0x0A => lgUnused true true true false f && vintMod false false m && !f.fs
  | 0x0B => lgUnused true true true false f && vintMod false false m && !f.fs
  | 0x0C => lgUnused true true true false f && vintMod false false m && !f.fs
  | 0x0D => lgUnused true true true false f && vintMod false false m && !f.fs
  | 0x0E => lgUnused true true true false f && vintMod false false m && !f.fs
  | 0x0F => lgUnused true true true false f && vintMod true false m && !f.fs
  | 0x10 => lgUnused true true true false f && vintMod false false m && !f.fs
  | 0x11 => lgUnused true true true false f && vintMod false false m && !f.fs
  | 0x12 => lgUnused true true true true f && vintMod false false m && !f.fs
  | 0x13 => lgUnused true true true true f && vintMod false false m && !f.fs
  | 0x14 => lgUnused true true true true f && vintMod false false m && !f.fs
  | 0x15 => lgUnused true true false false f && vintMod false false m && !f.fs
  | 0x16 => lgUnused true true false false f && vintMod false false m && !f.fs
  | 0x17 => lgUnused true true false false f && vintMod false false m && !f.fs
  | 0x18 => lgUnused true true true true f && vintMod false false m && !f.fs
  | 0x19 => lgUnused true true false false f && vintMod false false m && !f.fs
  | 0x1A => lgUnused true true true false f && vintMod false false m && !f.fs
  | 0x1B => lgUnused true true true false f && vintMod false false m && !f.fs
  | 0x1C => lgUnused true true true true f && vintMod false true m && !f.fs
  | 0x1D => lgUnused true true true false f && vintMod false false m && !f.fs
  | 0x1E => lgUnused true true true false f && vintMod false false m && !f.fs
  | _ => false

/-- Must-be-zero fields, codes and FS of major 0x01, by minor (R72, R121). -/
def vfltOk (f : Lg) (m : Nat) : Nat → Bool
  | 0x00 => lgUnused true true true false f && vfltMod true true m && !f.fs
  | 0x01 => lgUnused true true true false f && vfltMod true true m && !f.fs
  | 0x02 => lgUnused true true true false f && vfltMod true true m && !f.fs
  | 0x03 => lgUnused true true true true f && vfltMod true true m && !f.fs
  | 0x04 => lgUnused true true true false f && vfltMod false true m && !f.fs
  | 0x05 => lgUnused true true true false f && vfltMod false true m && !f.fs
  | 0x06 => lgUnused true true false false f && vfltMod true true m && !f.fs
  | 0x07 => lgUnused true true false false f && vfltMod true true m && !f.fs
  | 0x08 => lgUnused true true true true f && vfltMod true true m && 2 ≤ m / 8 && !f.fs
  | 0x09 => lgUnused true true false false f && vfltMod false false m && !f.fs
  | 0x0A => lgUnused true true true false f && vfltMod true true m && !f.fs
  | 0x0B => lgUnused true true false false f && vfltMod false false m && !f.fs
  | 0x0C => lgUnused true true true false f && vfltMod false true m && !f.fs
  | 0x0D => lgUnused true true true false f && vfltMod true true m && !f.fs
  | _ => false

/-- Must-be-zero fields, codes and FS of major 0x02, by minor (R72, R126). -/
def vxfnOk (f : Lg) (m : Nat) : Nat → Bool
  | 0x00 => lgUnused true true false false f && m % 8 == 0 && m / 8 < 2 && !f.fs
  | 0x01 => lgUnused true true false false f && m % 8 == 0 && m / 8 < 2 && !f.fs
  | 0x02 => lgUnused true true false false f && m % 8 == 0 && m / 8 < 2 && !f.fs
  | 0x03 => lgUnused true true false false f && m % 8 == 0 && m / 8 < 2 && !f.fs
  | 0x04 => lgUnused true true false false f && m % 8 == 0 && m / 8 < 2 && !f.fs
  | 0x05 => lgUnused true true false false f && m % 8 == 0 && m / 8 < 2 && !f.fs
  | 0x06 => lgUnused true true false false f && m % 8 == 0 && m / 8 < 2 && !f.fs
  | 0x07 => lgUnused true true false false f && m % 8 == 0 && m / 8 < 2 && !f.fs
  | _ => false

/-- Must-be-zero fields, codes and FS of major 0x03, by minor (R72, R139). -/
def vcnvOk (f : Lg) (m : Nat) : Nat → Bool
  | 0x00 => lgUnused true true false false f && vcvtfMod m && !f.fs
  | 0x01 => lgUnused true true false false f && !f.fs
  | 0x02 => lgUnused true true false false f && !f.fs
  | 0x03 => lgUnused true true true false f && m < 3 && !f.fs
  | 0x04 => lgUnused true true false false f && (m < 16 && (m / 4 % 2 == 1 || m % 4 < 2)) && !f.fs
  | 0x05 => lgUnused true true false false f && m % 8 == 0 && !f.fs
  | 0x06 => lgUnused true true false false f && m % 4 == 0 && !f.fs
  | 0x07 => lgUnused true true true false f && m % 8 ≤ 5 && !f.fs
  | 0x08 => lgUnused true true true false f && m / 8 < 2 && !f.fs
  | _ => false

/-- Must-be-zero fields, codes and FS of major 0x04, by minor (R72, R136). -/
def vlaneOk (f : Lg) (m : Nat) : Nat → Bool
  | 0x00 => lgUnused true true true false f && m < 8 && !f.fs
  | 0x01 => lgUnused true true true false f && (m == 0 || m == 4) && !f.fs
  | 0x02 => lgUnused true true true false f && (m == 0 || m == 4) && !f.fs
  | 0x03 => lgUnused true true true false f && (m == 0 || m == 4) && !f.fs
  | 0x04 => lgUnused true true false false f && (m == 0 || m == 4) && !f.fs
  | 0x05 => lgUnused true true false false f && m == 0 && !f.fs
  | 0x06 => lgUnused true true false false f && redMod m && !f.fs
  | 0x07 => lgUnused true true false false f && redMod m && !f.fs
  | 0x08 => lgUnused true true true false f && (m == 0 || m == 4) && !f.fs
  | 0x09 => lgUnused true true false false f && (m == 0 || m == 4) && !f.fs
  | _ => false

/-- Must-be-zero fields, codes and FS of major 0x08, by minor (R72, R132, R133). -/
def ualuOk (f : Lg) (m : Nat) : Nat → Bool
  | 0x00 => lgUnused true true true false f && ualuMod true m && !f.fs
  | 0x01 => lgUnused true true true false f && ualuMod true m && !f.fs
  | 0x02 => lgUnused true true true false f && ualuMod true m && !f.fs
  | 0x03 => lgUnused true true true false f && ualuMod false m && !f.fs
  | 0x04 => lgUnused true true true false f && ualuMod false m && !f.fs
  | 0x05 => lgUnused true true true false f && ualuMod false m && !f.fs
  | 0x06 => lgUnused true true true false f && ualuMod false m && !f.fs
  | 0x07 => lgUnused true true true false f && ualuMod false m && !f.fs
  | 0x08 => lgUnused true true true false f && ualuMod true m && !f.fs
  | 0x09 => lgUnused true true true false f && ualuMod false m && !f.fs
  | 0x0A => lgUnused true true true false f && ualuMod false m && !f.fs
  | 0x0B => lgUnused true true true true f && ualuMod false m && !f.fs
  | 0x0C => lgUnused true true false false f && ualuMod false m && !f.fs
  | 0x0D => lgUnused true true false false f && ualuMod false m && !f.fs
  | 0x0E => lgUnused true true true false f && ualuMod false m && !f.fs
  | 0x0F => lgUnused true true true false f && ualuMod false m && !f.fs
  | 0x10 => lgUnused true true false false f && ualuMod false m && !f.fs
  | 0x11 => lgUnused true true true false f && ualuMod false m && !f.fs
  | 0x12 => lgUnused true true true false f && m % 8 ≤ 5 && !f.fs
  | 0x13 => lgUnused true true true true f && ualuMod false m && m / 8 < 2 && !f.fs
  | 0x14 => lgUnused true true false true f && ualuMod false m && !f.fs
  | 0x15 => lgUnused true true true false f && m % 2 == 0 && m / 8 < 2 && !f.fs
  | 0x16 => lgUnused true true true false f && m % 2 == 0 && m / 8 < 2 && !f.fs
  | 0x17 => lgUnused true true true true f && m % 2 == 0 && m / 8 < 2 && !f.fs
  | 0x18 => lgUnused true true false false f && ualuMod false m && !f.fs
  | _ => false

/-- Must-be-zero fields, codes and FS of major 0x13, by minor (R72, R161). -/
def mordOk (f : Lg) (m : Nat) : Nat → Bool
  | 0x00 => lgUnused false false false false f
  | 0x01 => lgUnused false true true false f
  | 0x02 => lgUnused false false false false f && m == 0
  | 0x03 => lgUnused false false false false f && m == 0
  | 0x04 => lgUnused false true true false f && m == 0 && !f.fs
  | 0x05 => lgUnused false false true false f && m == 0
  | 0x06 => lgUnused false false true false f && m == 0 && !f.fs
  | 0x07 => lgUnused true true true true f && m == 0 && !f.fs
  | 0x08 => lgUnused false true true true f && m == 0 && !f.fs
  | 0x09 => lgUnused false false true true f && m == 0 && !f.fs
  | 0x0A => lgUnused false true true true f && m == 0
  | 0x0B => lgUnused false true true true f && m == 0
  | 0x0C => lgUnused false true true true f && m == 0
  | 0x0D => lgUnused false true false true f && m / 8 < 3 && m / 4 % 2 == 0
  | _ => false

/-- Must-be-zero fields, codes and FS of major 0x20, by minor (R72, R194). -/
def noteOk (f : Lg) (m : Nat) : Nat → Bool
  | 0x00 => lgUnused true true true false f && m < 4 && !f.fs
  | 0x01 => lgUnused false false false false f && m == 0 && !f.fs
  | 0x02 => lgUnused false true true true f && m < 4
  | 0x03 => lgUnused false true true true f && m < 4
  | 0x04 => lgUnused false true true false f && m == 0 && !f.fs
  | 0x05 => lgUnused true true true false f && m == 0 && !f.fs
  | _ => false

/-- Must-be-zero fields, codes and FS of major 0x21, by minor (R72, R200). -/
def attnOk (f : Lg) (m : Nat) : Nat → Bool
  | 0x00 => lgUnused false true true false f && m < 8 && kindOk m && !f.fs
  | 0x01 => lgUnused false true false false f && m == 0 && !f.fs
  | 0x02 => lgUnused false true true false f && (m % 8 == 2 || m % 8 == 3) && !f.fs
  | 0x03 => lgUnused false true false false f && m % 8 == 0 && !f.fs
  | 0x04 => lgUnused false true false false f && m % 8 == 0 && !f.fs
  | 0x05 => lgUnused false true false false f && m % 8 == 0 && !f.fs
  | 0x06 => lgUnused true true false false f && m % 8 == 0 && !f.fs
  | 0x07 => lgUnused false true true false f && m % 8 == 0 && !f.fs
  | 0x08 => lgUnused false true false false f && m < 16 && kindOk (m % 8) && !f.fs
  | 0x09 => lgUnused true false false false f && m == 0 && !f.fs
  | _ => false

/-- Must-be-zero fields, codes and FS of major 0x22, by minor (R72, R207). -/
def workOk (f : Lg) (m : Nat) : Nat → Bool
  | 0x00 => lgUnused true true true false f && m == 0 && !f.fs
  | 0x01 => lgUnused false true false false f && m < 2
  | 0x02 => lgUnused false true false false f && m == 0
  | 0x03 => lgUnused false true false false f && m == 0 && !f.fs
  | 0x04 => lgUnused true false false false f && m == 0 && !f.fs
  | 0x05 => lgUnused false true false false f && m < 3
  | 0x06 => lgUnused true true false false f && m == 0 && !f.fs
  | _ => false

/-- Must-be-zero fields, codes and FS of major 0x23, by minor (R72, R212). -/
def systOk (f : Lg) (m : Nat) : Nat → Bool
  | 0x00 => lgUnused false false true false f && m == 0 && !f.fs
  | 0x01 => lgUnused false false false false f && m == 0 && !f.fs
  | 0x02 => lgUnused true true false false f && m == 0 && !f.fs
  | 0x03 => lgUnused false true true false f && m == 0 && !f.fs
  | 0x04 => lgUnused false false true false f && m == 0 && !f.fs
  | 0x05 => lgUnused false false true false f && m < 16 && !f.fs
  | 0x06 => lgUnused false false true false f && m == 0 && !f.fs
  | 0x07 => lgUnused true true false false f && m == 0 && !f.fs
  | _ => false

/-- ORDER and SCOPE of R147: `orders` are the orders accepted, `scopes` the scopes accepted with an order. -/
def orderOk (orders scopes : List Nat) (order scope : Nat) : Bool :=
  if order == 0 then orders.contains 0 && scope == 0 else orders.contains order && scopes.contains scope

/-- The LM rules whose fate is ILLOP (R68, R147, R154). A load of SIZE 0 or 1 with SX = 1 is accepted also where D is NULL (DESIGN CHOICE,
log 77). -/
def lmOk (maj minor : Nat) (f : Lm) : Bool :=
  let size := f.size.toNat
  let order := f.order.toNat
  let scope := f.scope.toNat
  let load := minor % 2 == 0
  let orders := if load then [0, 1, 2, 5] else [0, 1, 3, 5]
  if maj == 0x10 && minor == 4 then
    f.d == 0 && size == 0 && !f.sx && !f.fs && order == 0 && scope == 0
  else
    size ≤ 4 && (!f.sx || (load && size < 2)) &&
    (if maj == 0x10 then minor ≤ 3 && orderOk orders [0, 1, 2, 3, 4] order scope
     else if minor ≤ 1 then orderOk orders [0, 1] order scope
     else minor ≤ 3 && orderOk orders [2] order scope)

/-- The types an atomic operation accepts (R158). -/
def aopType (aop ty : Nat) : Bool :=
  if aop ≤ 8 then ty ≤ 2 else if aop ≤ 10 then ty == 1 else aop ≤ 13 && ty == 3

/-- The LA rules whose fate is ILLOP (R69, R147, R158). -/
def laOk (minor : Nat) (f : La) : Bool :=
  let order := f.order.toNat
  let scope := f.scope.toNat
  aopType f.aop.toNat f.ty.toNat && (f.aop == 8 || f.cmp == 0) &&
  (match minor with
   | 0 => orderOk [0, 1, 2, 3, 4, 5] [0, 1, 2, 3, 4] order scope
   | 1 => orderOk [0, 1, 2, 3, 4, 5] [0, 1] order scope
   | 2 => orderOk [0, 1, 2, 3, 4, 5] [2] order scope
   | 3 => orderOk [0, 1, 2, 3, 4, 5] [0, 1, 2, 3, 4] order scope
   | _ => false)

/-- The LX fields marked 0 (R70). -/
def lxOk (minor : Nat) (f : Lx) : Bool :=
  match minor with
  | 0 => true
  | 1 => f.shape == 0 && !f.fs && f.x == 0 && f.y == 0 && f.z == 0
  | 2 => f.z == 0
  | 3 => !f.fs && f.x == 0 && f.z.toNat ≤ 1
  | 4 => f.shape == 0 && f.z == 0
  | 5 => f.shape == 0 && !f.fs && f.y == 0 && f.z == 0
  | 6 => f.shape == 0 && !f.fs && f.y == 0 && f.z == 0
  | _ => false

/-- The LB fields marked 0, and BREAK's n (R71). -/
def lbOk (minor : Nat) (f : Lb) : Bool :=
  match minor with
  | 0 => f.sel == 0 && f.lo == 0
  | 1 => f.sel == 0 && f.lo.toNat % 32 == 0
  | 2 => f.lo.toNat % 32 == 0
  | 3 => f.lo == 0
  | 4 => f.sel.toNat % 64 == 0 && f.sel != 0 && f.lo == 0
  | 5 => f.lo == 0
  | 6 => f.lo == 0 && f.w1 == 0
  | 7 => f.lo == 0 && f.w1 == 0
  | 8 => f.sel == 0 && f.lo == 0 && f.w1 == 0
  | 9 => f.sel == 0 && f.lo == 0 && f.w1 == 0
  | _ => false

/-- The Proctor's fields that must be zero and its reserved codes (R338, R340). -/
def prOk (op : Nat) (f : Pr) : Bool :=
  let imm := f.imm.toNat
  match op with
  | 0x00 => f.a == 0 && f.b == 0 && imm < 8
  | 0x01 => f.b == 0
  | 0x0C => f.b == 0 && imm / 32 % 128 == 0
  | 0x0D => f.d.toNat ≤ 6
  | 0x0E => f.d.toNat ≤ 14
  | 0x0F => f.d.toNat ≤ 12
  | 0x10 => f.d.toNat ≤ 12 && f.b == 0
  | 0x11 => f.b == 0
  | 0x12 => f.d == 0
  | 0x13 => f.d == 0 && f.a == 0 && f.b == 0 && (2 ≤ imm % 4 || imm / 4 % 16 == 0)
  | 0x14 => f.d == 0 && f.b == 0 && imm < 256
  | 0x15 => f.d == 0 && f.a == 0 && f.b == 0 && imm == 0
  | n => n ≤ 0x15

/-- Whether HOLD may be non-zero: the VEC majors and UALU (R72). -/
def holdMajor (maj : Nat) : Bool := maj ≤ 4 || maj == 8

/-- Step 4 of R75: the minor is listed, every must-be-zero field is zero, no field holds a reserved code. -/
def Enc.fieldsOk : Enc → Bool
  | .vs3 maj f => maj.toNat ≤ 0x10 || (maj.toNat == 0x11 && f.b == 0)
  | .vs2i maj _ => 0x20 ≤ maj.toNat && maj.toNat ≤ 0x23
  | .us _ => true
  | .usi _ => true
  | .br maj f => (maj.toNat == 0x30 && f.cond == 0) || (maj.toNat == 0x31 && f.cond.toNat < 2)
  | .nop _ => true
  | .lg maj minor f =>
    (holdMajor maj.toNat || f.hold == 0) &&
    (match maj.toNat with
     | 0x00 => vintOk f f.mod.toNat minor.toNat
     | 0x01 => vfltOk f f.mod.toNat minor.toNat
     | 0x02 => vxfnOk f f.mod.toNat minor.toNat
     | 0x03 => vcnvOk f f.mod.toNat minor.toNat
     | 0x04 => vlaneOk f f.mod.toNat minor.toNat
     | 0x08 => ualuOk f f.mod.toNat minor.toNat
     | 0x13 => mordOk f f.mod.toNat minor.toNat
     | 0x20 => noteOk f f.mod.toNat minor.toNat
     | 0x21 => attnOk f f.mod.toNat minor.toNat
     | 0x22 => workOk f f.mod.toNat minor.toNat
     | 0x23 => systOk f f.mod.toNat minor.toNat
     | _ => false)
  | .lm maj minor f => (maj.toNat == 0x10 || maj.toNat == 0x11) && lmOk maj.toNat minor.toNat f
  | .la maj minor f => maj.toNat == 0x12 && laOk minor.toNat f
  | .lx maj minor f => maj.toNat == 0x18 && lxOk minor.toNat f
  | .lb maj minor f => maj.toNat == 0x09 && lbOk minor.toNat f
  | .pr op f => prOk op.toNat f

/-- The selector that makes the next word a literal (R56). -/
def litSel (s : BitVec 10) : Bool := s == 1023

/-- Whether a literal word follows the format words: a source selector is 1023 (R64). The store data of GST, UST, SST
and XST counts as a source (R68); destinations and fields that must be zero do not (R70, R71). A, B and C of LG and CMP of LA count also where the
entry does not use them (DESIGN CHOICE, log 98). -/
def Enc.usesLit : Enc → Bool
  | .lg _ _ f => litSel f.a || litSel f.b || litSel f.c
  | .lm _ minor f => litSel f.addr || ((minor.toNat == 1 || minor.toNat == 3) && litSel f.d)
  | .la _ _ f => litSel f.addr || litSel f.data || litSel f.cmp
  | .lx _ minor f => match minor.toNat with
    | 0 => litSel f.x || litSel f.y || litSel f.z
    | 2 => litSel f.x || litSel f.y
    | 4 => litSel f.x || litSel f.y
    | _ => false
  | .lb _ minor f => (minor.toNat == 2 || minor.toNat == 3 || minor.toNat == 6 || minor.toNat == 7) && litSel f.sel
  | _ => false

/-- The literal word an encoding carries. -/
def Enc.lit : Enc → Option Word
  | .lg _ _ f => f.lit
  | .lm _ _ f => f.lit
  | .la _ _ f => f.lit
  | .lx _ _ f => f.lit
  | .lb _ _ f => f.lit
  | _ => none

/-- The live-mask word an encoding carries (R36). -/
def Enc.sp : Enc → Option Word
  | .vs3 _ f => f.sp
  | .vs2i _ f => f.sp
  | .us f => f.sp
  | .usi f => f.sp
  | .br _ f => f.sp
  | .nop f => f.sp
  | .lg _ _ f => f.sp
  | .lm _ _ f => f.sp
  | .la _ _ f => f.sp
  | .lx _ _ f => f.sp
  | .lb _ _ f => f.sp
  | .pr _ _ => none

/-- The encoding with its literal and live-mask words put in. -/
def Enc.withTail (lit sp : Option Word) : Enc → Enc
  | .vs3 m f => .vs3 m { f with sp := sp }
  | .vs2i m f => .vs2i m { f with sp := sp }
  | .us f => .us { f with sp := sp }
  | .usi f => .usi { f with sp := sp }
  | .br m f => .br m { f with sp := sp }
  | .nop f => .nop { f with sp := sp }
  | .lg m n f => .lg m n { f with lit := lit, sp := sp }
  | .lm m n f => .lm m n { f with lit := lit, sp := sp }
  | .la m n f => .la m n { f with lit := lit, sp := sp }
  | .lx m n f => .lx m n { f with lit := lit, sp := sp }
  | .lb m n f => .lb m n { f with lit := lit, sp := sp }
  | .pr m f => .pr m f

/-- The formats of R65 to R71. -/
inductive Fmt where
  | vs3 | vs2i | us | usi | br | nop | lg | lm | la | lx | lb
  deriving DecidableEq, Repr

/-- The format of a listed major (R65, R73): step 1 of R75. -/
def majorFmt (long : Bool) (maj : Nat) : Option Fmt :=
  if long then
    match maj with
    | 0x00 => some .lg
    | 0x01 => some .lg
    | 0x02 => some .lg
    | 0x03 => some .lg
    | 0x04 => some .lg
    | 0x08 => some .lg
    | 0x09 => some .lb
    | 0x10 => some .lm
    | 0x11 => some .lm
    | 0x12 => some .la
    | 0x13 => some .lg
    | 0x18 => some .lx
    | 0x20 => some .lg
    | 0x21 => some .lg
    | 0x22 => some .lg
    | 0x23 => some .lg
    | _ => none
  else if maj ≤ 0x11 then some .vs3
  else if 0x20 ≤ maj && maj ≤ 0x23 then some .vs2i
  else match maj with
    | 0x28 => some .us
    | 0x29 => some .usi
    | 0x30 => some .br
    | 0x31 => some .br
    | 0x3F => some .nop
    | _ => none

/-- The engine class of a listed major (R26, R73): 0 VEC, 1 CTL, 2 MEM, 3 MTX, 4 SYN; `none` for NOP, which any class
allows (R29). -/
def majorClass (long : Bool) (maj : Nat) : Option Nat :=
  if long then
    if maj ≤ 4 then some 0 else if maj ≤ 9 then some 1 else if maj ≤ 0x13 then some 2
    else if maj == 0x18 then some 3 else some 4
  else if maj ≤ 0x23 then some 0 else if maj == 0x3F then none else some 1

/-- The format words of a Dunmar encoding (R65 to R71). -/
def Enc.words : Enc → List Word
  | .vs3 maj f => [BitVec.ofNat 32 (bitOf f.sp.isSome * 2 ^ 31 + maj.toNat * 2 ^ 24 + f.d.toNat * 2 ^ 16 +
      f.a.toNat * 2 ^ 8 + f.b.toNat)]
  | .vs2i maj f => [BitVec.ofNat 32 (bitOf f.sp.isSome * 2 ^ 31 + maj.toNat * 2 ^ 24 + f.d.toNat * 2 ^ 16 +
      f.a.toNat * 2 ^ 8 + f.imm.toNat)]
  | .us f => [BitVec.ofNat 32 (bitOf f.sp.isSome * 2 ^ 31 + 0x28 * 2 ^ 24 + f.d.toNat * 2 ^ 15 +
      f.a.toNat * 2 ^ 6 + f.imm.toNat)]
  | .usi f => [BitVec.ofNat 32 (bitOf f.sp.isSome * 2 ^ 31 + 0x29 * 2 ^ 24 + f.d.toNat * 2 ^ 15 + f.imm.toNat)]
  | .br maj f => [BitVec.ofNat 32 (bitOf f.sp.isSome * 2 ^ 31 + maj.toNat * 2 ^ 24 + f.cond.toNat * 2 ^ 20 +
      f.off.toNat)]
  | .nop f => [BitVec.ofNat 32 (bitOf f.sp.isSome * 2 ^ 31 + 0x3F * 2 ^ 24)]
  | .lg maj minor f =>
    [BitVec.ofNat 32 (bitOf f.sp.isSome * 2 ^ 31 + 2 ^ 30 + maj.toNat * 2 ^ 24 + minor.toNat * 2 ^ 16 +
      f.d.toNat * 2 ^ 6 + bitOf f.fs * 2 ^ 5 + f.mod.toNat),
     BitVec.ofNat 32 (f.a.toNat * 2 ^ 22 + f.b.toNat * 2 ^ 12 + f.c.toNat * 2 ^ 2 + f.hold.toNat)]
  | .lm maj minor f =>
    [BitVec.ofNat 32 (bitOf f.sp.isSome * 2 ^ 31 + 2 ^ 30 + maj.toNat * 2 ^ 24 + minor.toNat * 2 ^ 16 +
      f.d.toNat * 2 ^ 6 + bitOf f.fs * 2 ^ 5 + f.size.toNat * 2 ^ 2 + bitOf f.sx * 2 + bitOf f.nt),
     BitVec.ofNat 32 (f.addr.toNat * 2 ^ 22 + f.order.toNat * 2 ^ 19 + f.scope.toNat * 2 ^ 16 + f.off.toNat)]
  | .la maj minor f =>
    [BitVec.ofNat 32 (bitOf f.sp.isSome * 2 ^ 31 + 2 ^ 30 + maj.toNat * 2 ^ 24 + minor.toNat * 2 ^ 16 +
      f.d.toNat * 2 ^ 6 + bitOf f.fs * 2 ^ 5 + f.aop.toNat),
     BitVec.ofNat 32 (f.addr.toNat * 2 ^ 22 + f.data.toNat * 2 ^ 12 + f.cmp.toNat * 2 ^ 2 + f.ty.toNat),
     BitVec.ofNat 32 (f.off.toNat * 2 ^ 6 + f.scope.toNat * 2 ^ 3 + f.order.toNat)]
  | .lx maj minor f =>
    [BitVec.ofNat 32 (bitOf f.sp.isSome * 2 ^ 31 + 2 ^ 30 + maj.toNat * 2 ^ 24 + minor.toNat * 2 ^ 16 +
      f.tile.toNat * 2 ^ 13 + f.shape.toNat * 2 ^ 10 + bitOf f.fs * 2 ^ 5),
     BitVec.ofNat 32 (f.x.toNat * 2 ^ 22 + f.y.toNat * 2 ^ 12 + f.z.toNat * 2 ^ 2)]
  | .lb maj minor f =>
    [BitVec.ofNat 32 (bitOf f.sp.isSome * 2 ^ 31 + 2 ^ 30 + maj.toNat * 2 ^ 24 + minor.toNat * 2 ^ 16 +
      f.sel.toNat * 2 ^ 6 + f.lo.toNat), f.w1]
  | .pr op f => [BitVec.ofNat 32 (op.toNat * 2 ^ 26 + f.d.toNat * 2 ^ 22 + f.a.toNat * 2 ^ 18 + f.b.toNat * 2 ^ 14 +
      f.imm.toNat)]

/-- The major opcode of word 0 (R63). -/
def majorOf (w : Word) : BitVec 6 := field w 24 6

/-- The format words read back, without literal and live-mask words, and whether the bits that no field holds are zero
(R65, R69, R70). `none` where the words run out. -/
def rawEnc (fmt : Fmt) (w0 : Word) (rest : List Word) : Option (Enc × Bool × List Word) :=
  let maj := majorOf w0
  let minor : BitVec 8 := field w0 16 8
  match fmt with
  | .vs3 => some (.vs3 maj ⟨none, field w0 16 8, field w0 8 8, field w0 0 8⟩, true, rest)
  | .vs2i => some (.vs2i maj ⟨none, field w0 16 8, field w0 8 8, field w0 0 8⟩, true, rest)
  | .us => some (.us ⟨none, field w0 15 9, field w0 6 9, field w0 0 6⟩, true, rest)
  | .usi => some (.usi ⟨none, field w0 15 9, field w0 0 15⟩, true, rest)
  | .br => some (.br maj ⟨none, field w0 20 4, field w0 0 20⟩, true, rest)
  | .nop => some (.nop ⟨none⟩, field w0 0 24 == 0, rest)
  | .lg => match rest with
    | w1 :: r => some (.lg maj minor ⟨none, field w0 0 5, flag w0 5, field w0 6 10, field w1 22 10, field w1 12 10,
        field w1 2 10, field w1 0 2, none⟩, true, r)
    | [] => none
  | .lm => match rest with
    | w1 :: r => some (.lm maj minor ⟨none, flag w0 0, flag w0 1, field w0 2 3, flag w0 5, field w0 6 10,
        field w1 0 16, field w1 16 3, field w1 19 3, field w1 22 10, none⟩, true, r)
    | [] => none
  | .la => match rest with
    | w1 :: w2 :: r => some (.la maj minor ⟨none, field w0 0 5, flag w0 5, field w0 6 10, field w1 0 2, field w1 2 10,
        field w1 12 10, field w1 22 10, field w2 0 3, field w2 3 3, field w2 6 16, none⟩, field w2 22 10 == 0, r)
    | _ => none
  | .lx => match rest with
    | w1 :: r => some (.lx maj minor ⟨none, field w0 13 3, field w0 10 3, flag w0 5, field w1 22 10, field w1 12 10,
        field w1 2 10, none⟩, field w0 6 4 == 0 && field w0 0 5 == 0 && field w1 0 2 == 0, r)
    | [] => none
  | .lb => match rest with
    | w1 :: r => some (.lb maj minor ⟨none, field w0 6 10, field w0 0 6, w1, none⟩, true, r)
    | [] => none

/-- Why words are no instruction, in the order of R75. -/
inductive Reject where
  /-- Step 1: LG and MAJ name no listed major. -/
  | unlistedMajor
  /-- Step 2: the major's class is not the clause's. -/
  | wrongClass
  /-- Step 3: the words run past the words of the clause. -/
  | overrun
  /-- Step 4: the minor is unlisted, a must-be-zero field is not zero, or a field holds a reserved code. -/
  | illegalFields
  deriving DecidableEq, Repr

/-- Take one word if `need` says so. -/
def takeWord (need : Bool) (ws : List Word) : Option (Option Word × List Word) :=
  match need, ws with
  | false, _ => some (none, ws)
  | true, w :: r => some (some w, r)
  | true, [] => none

/-- Decode the instruction that begins `ws`, the words that remain of a clause of class `ecls` (`none`: any class), in
the order of R75, steps 1 to 4. The answer is the instruction and how many words it occupies (R64). -/
def decode (ecls : Option Nat) (ws : List Word) : Except Reject (Instr × Nat) :=
  match ws with
  | [] => .error .overrun
  | w0 :: rest =>
    match majorFmt (flag w0 30) (majorOf w0).toNat with
    | none => .error .unlistedMajor
    | some fmt =>
      if (match ecls, majorClass (flag w0 30) (majorOf w0).toNat with
          | some e, some c => e != c
          | _, _ => false) then .error .wrongClass
      else match rawEnc fmt w0 rest with
        | none => .error .overrun
        | some (e, zeros, r1) =>
          match takeWord e.usesLit r1 with
          | none => .error .overrun
          | some (lit, r2) =>
            match takeWord (flag w0 31) r2 with
            | none => .error .overrun
            | some (sp, r3) =>
              let e' := e.withTail lit sp
              if zeros && e'.fieldsOk then
                match e'.instr? with
                | some i => .ok (i, ws.length - r3.length)
                | none => .error .illegalFields
              else .error .illegalFields

/-- Decode one Proctor word (R338); `none` where the attach checks reject it. -/
def decodePr (w : Word) : Option Instr :=
  let e : Enc := .pr (field w 26 6) ⟨field w 22 4, field w 18 4, field w 14 4, field w 0 14⟩
  if e.fieldsOk then e.instr? else none

/-- The words of an instruction: format words, literal word, live-mask word (R64). A step of the device or the host
has none. -/
def encode (i : Instr) : List Word :=
  match i.enc with
  | some e => e.words ++ e.lit.toList ++ e.sp.toList
  | none => []

/-- The words of an instruction given as one number, first word lowest, with `k` words. -/
def wordsOf : Nat → Nat → List Word
  | 0, _ => []
  | k + 1, w => BitVec.ofNat 32 w :: wordsOf k (w / 2 ^ 32)

/-- What the decoder reads from an instruction whose bits are `w` (all bits above `nbits` zero): a Dunmar instruction if
the words are one, otherwise a Proctor instruction. A word such as 0x0000_0000 is both VADD of a program and LDE of a
Proctor image; the two never meet, since each is read from its own place (log 9). Five words hold the longest
instruction. -/
def decodeTableWord (nbits w : Nat) : Option Instr :=
  let v := w % 2 ^ nbits
  match decode none (wordsOf 5 v) with
  | .ok (i, _) => some i
  | .error _ => decodePr (BitVec.ofNat 32 v)

end Sys2Proof
end

