-- ==== Sys2Proof/Machine/Tab.lean ====
section
/-! DEFINITION. Sparse tables: a list of key and value pairs with rising keys. Register files, waiting operations, cache
lines and every other keyed piece of state are tables; memory is a table of bytes in the canonical form of R4's byte
space: addresses strictly rising and no entry equal to the byte an unlisted address reads as (log 3). -/

namespace Sys2Proof.Machine

/-- A sparse table with natural-number keys. -/
abbrev Tab (α : Type) := List (Nat × α)

/-- The value at a key. -/
def Tab.get? {α : Type} : Tab α → Nat → Option α
  | [], _ => none
  | (k', v) :: t, k => if k' = k then some v else Tab.get? t k

/-- The value at a key, or a default. -/
def Tab.getD {α : Type} (t : Tab α) (k : Nat) (d : α) : α := (Tab.get? t k).getD d

/-- Write a key, keeping the keys rising. -/
def Tab.set {α : Type} : Tab α → Nat → α → Tab α
  | [], k, v => [(k, v)]
  | (k', v') :: t, k, v =>
    if k' = k then (k, v) :: t
    else if k < k' then (k, v) :: (k', v') :: t
    else (k', v') :: Tab.set t k v

/-- Remove a key. -/
def Tab.del {α : Type} : Tab α → Nat → Tab α
  | [], _ => []
  | (k', v) :: t, k => if k' = k then Tab.del t k else (k', v) :: Tab.del t k

/-- Change the value at a key, if there is one. -/
def Tab.upd {α : Type} (t : Tab α) (k : Nat) (f : α → α) : Tab α :=
  match Tab.get? t k with
  | some v => Tab.set t k (f v)
  | none => t

/-- The keys. -/
def Tab.keys {α : Type} (t : Tab α) : List Nat := t.map (·.1)

/-- The values. -/
def Tab.vals {α : Type} (t : Tab α) : List α := t.map (·.2)

/-- The lowest natural number below `n` that is no key, or `n`. -/
def Tab.lowestFree {α : Type} (t : Tab α) (n : Nat) : Nat :=
  ((List.range n).find? fun k => (Tab.get? t k).isNone).getD n

/-- What a byte of memory that nothing has written reads as (log 3). -/
def unlistedByte : Byte := 0

/-- Bytes by address, in canonical form. -/
abbrev Memory := List Host.Cell

/-- One byte of memory. -/
def Memory.read (m : Memory) (a : Nat) : Byte := Tab.getD m a unlistedByte

/-- Write one byte, keeping the canonical form. -/
def Memory.write (m : Memory) (a : Nat) (b : Byte) : Memory :=
  if b = unlistedByte then Tab.del m a else Tab.set m a b

/-- Keys rise from `lo` on and no value is the unlisted byte. -/
def Memory.wfFrom : Nat → Memory → Bool
  | _, [] => true
  | lo, (a, b) :: t => decide (lo ≤ a) && decide (b ≠ unlistedByte) && Memory.wfFrom (a + 1) t

/-- The canonical form of memory. -/
def Memory.wf (m : Memory) : Bool := Memory.wfFrom 0 m

/-- `n` bytes from address `a` upward. -/
def Memory.readN (m : Memory) (a n : Nat) : List Byte := (List.range n).map fun i => Memory.read m (a + i)

/-- Write bytes from address `a` upward, the first at the lowest address. -/
def Memory.writeN (m : Memory) : Nat → List Byte → Memory
  | _, [] => m
  | a, b :: t => Memory.writeN (Memory.write m a b) (a + 1) t

end Sys2Proof.Machine
end

