-- ==== Sys2Proof/Machine/Bits.lean ====
section
/-! DEFINITION. Bit and byte helpers: sign extension, counting bits, bytes in little-endian order (R4), lane masks. -/

namespace Sys2Proof.Machine

/-- `x` modulo `2 ^ w` read as a signed integer (R86). -/
def sgn (w x : Nat) : Int :=
  let y := x % 2 ^ w
  if y < 2 ^ (w - 1) then (y : Int) else (y : Int) - (2 ^ w : Nat)

/-- An integer modulo `2 ^ w`, as a natural number (R87). -/
def wrap (w : Nat) (v : Int) : Nat := (v % (2 ^ w : Nat)).toNat

/-- Number of 1 bits among the low `w` bits. -/
def popcount : Nat → Nat → Nat
  | 0, _ => 0
  | w + 1, x => x % 2 + popcount w (x / 2)

/-- Number of leading 0 bits of a `w`-bit value; `w` for zero. -/
def clz (w x : Nat) : Nat :=
  let y := x % 2 ^ w
  if y = 0 then w else w - 1 - Nat.log2 y

/-- Index of the lowest 1 bit of a `w`-bit value; `w` for zero. -/
def ctz (w x : Nat) : Nat := ((List.range w).find? fun i => x / 2 ^ i % 2 == 1).getD w

/-- A `w`-bit value with bit i moved to bit w-1-i. -/
def bitrev : Nat → Nat → Nat
  | 0, _ => 0
  | w + 1, x => x % 2 * 2 ^ w + bitrev w (x / 2)

/-- Bits [hi:lo] of a number, where `n` is their count. -/
def bitsAt (x lo n : Nat) : Nat := x / 2 ^ lo % 2 ^ n

/-- Bit `i` of a number. -/
def bitAt (x i : Nat) : Bool := x / 2 ^ i % 2 == 1

/-- Little-endian bytes of a number (R4). -/
def toBytes : Nat → Nat → List Byte
  | 0, _ => []
  | n + 1, x => BitVec.ofNat 8 x :: toBytes n (x / 256)

/-- The number that little-endian bytes stand for (R4). -/
def ofBytes : List Byte → Nat
  | [] => 0
  | b :: t => b.toNat + 256 * ofBytes t

/-- Whether lane `l` is in a mask (R46). -/
def inMask (m : LaneMask) (l : Nat) : Bool := m.getLsbD l

/-- The lanes of a mask in increasing order (R8). -/
def lanesOf (m : LaneMask) : List Nat := (List.range 64).filter (inMask m)

/-- The mask of the lanes for which `p` holds. -/
def maskOf (p : Nat → Bool) : LaneMask :=
  BitVec.ofNat 64 ((List.range 64).foldl (fun acc l => if p l then acc + 2 ^ l else acc) 0)

/-- Two 32-bit halves as a 64-bit value, the low half first (R46). -/
def pairOf (lo hi : Word) : DWord := BitVec.ofNat 64 (lo.toNat + hi.toNat * 2 ^ 32)

/-- The low half of a pair (R46). -/
def loHalf (x : DWord) : Word := BitVec.ofNat 32 x.toNat

/-- The high half of a pair (R46). -/
def hiHalf (x : DWord) : Word := BitVec.ofNat 32 (x.toNat / 2 ^ 32)

/-- The element at an index, or a default. -/
def nth {α : Type} (l : List α) (i : Nat) (d : α) : α := (l[i]?).getD d

/-- Replace the element at an index. -/
def setNth {α : Type} (l : List α) (i : Nat) (x : α) : List α := l.set i x

/-- Change the element at an index. -/
def updNth {α : Type} (l : List α) (i : Nat) (f : α → α) : List α :=
  match l[i]? with
  | some x => l.set i (f x)
  | none => l

end Sys2Proof.Machine
end

