-- ==== Sys2Proof/Machine/Num.lean ====
section
/-! DEFINITION. Binary floating point (05_number_formats.md, R88 to R92): formats, exact dyadic values, one rounding, and
the exact results of the arithmetic operations. The sticky bits are a number with the bits of FLAGS (R51). -/

namespace Sys2Proof.Machine

/-- A binary format: exponent bits and fraction bits (R88). -/
structure FpFmt where
  eb : Nat
  mb : Nat
  deriving DecidableEq, Repr

/-- binary16 (R88). -/
def f16 : FpFmt := ⟨5, 10⟩
/-- BF16 (R88). -/
def bf16 : FpFmt := ⟨8, 7⟩
/-- binary32 (R88). -/
def f32 : FpFmt := ⟨8, 23⟩
/-- binary64 (R88). -/
def f64 : FpFmt := ⟨11, 52⟩

/-- Exponent bias. -/
def FpFmt.bias (t : FpFmt) : Nat := 2 ^ (t.eb - 1) - 1
/-- Width in bits. -/
def FpFmt.width (t : FpFmt) : Nat := 1 + t.eb + t.mb
/-- The sign bit's weight. -/
def FpFmt.signW (t : FpFmt) : Nat := 2 ^ (t.eb + t.mb)
/-- The pattern of +infinity. -/
def FpFmt.infBits (t : FpFmt) : Nat := (2 ^ t.eb - 1) * 2 ^ t.mb
/-- The canonical NaN (R88, R90). -/
def FpFmt.nanBits (t : FpFmt) : Nat := t.infBits + 2 ^ (t.mb - 1)
/-- The largest finite value (R88). -/
def FpFmt.maxBits (t : FpFmt) : Nat := t.infBits - 1
/-- The exponent of the smallest normal value. -/
def FpFmt.emin (t : FpFmt) : Int := 1 - (t.bias : Int)
/-- The pattern of 1.0. -/
def FpFmt.oneBits (t : FpFmt) : Nat := t.bias * 2 ^ t.mb

/-- Invalid operation: FLAGS bit 3 (R51). -/
def fIO : Nat := 8
/-- Division by zero: FLAGS bit 4. -/
def fDZ : Nat := 16
/-- Overflow: FLAGS bit 5. -/
def fOF : Nat := 32
/-- Underflow: FLAGS bit 6. -/
def fUF : Nat := 64
/-- Inexact: FLAGS bit 7. -/
def fNX : Nat := 128

/-- Rounding modes, numbered as MOD[2:1] has them (R72, R89). -/
inductive Rm where
  | rne | rtz | rup | rdn
  deriving DecidableEq, Repr

/-- The rounding mode of a 2-bit code (R72). -/
def rmOf (n : Nat) : Rm :=
  match n % 4 with
  | 0 => .rne
  | 1 => .rtz
  | 2 => .rup
  | _ => .rdn

/-- What a pattern stands for: a NaN, an infinity, or the finite value (-1)^neg × m × 2^e (R88). -/
inductive Fp where
  | nan (signalling : Bool)
  | inf (neg : Bool)
  | fin (neg : Bool) (m : Nat) (e : Int)
  deriving DecidableEq, Repr

/-- Read a pattern (R88). -/
def unpack (t : FpFmt) (x : Nat) : Fp :=
  let neg := bitAt x (t.eb + t.mb)
  let ex := bitsAt x t.mb t.eb
  let fr := x % 2 ^ t.mb
  if ex = 2 ^ t.eb - 1 then
    if fr = 0 then .inf neg else .nan (fr < 2 ^ (t.mb - 1))
  else if ex = 0 then .fin neg fr (t.emin - t.mb)
  else .fin neg (2 ^ t.mb + fr) (t.emin - t.mb + (ex : Int) - 1)

/-- The sign bit of a pattern. -/
def signBits (t : FpFmt) (neg : Bool) : Nat := if neg then t.signW else 0

/-- Whether a discarded part `rem` of `2 ^ d` rounds the kept integer `n` away from zero. -/
def roundsUp (rm : Rm) (neg : Bool) (n rem d : Nat) : Bool :=
  match rm with
  | .rne => 2 ^ d < 2 * rem || (2 * rem == 2 ^ d && n % 2 == 1)
  | .rtz => false
  | .rup => !neg && 0 < rem
  | .rdn => neg && 0 < rem

/-- m × 2^e as a multiple of 2^q, rounded to an integer: the integer, and whether it is exact. -/
def quantize (rm : Rm) (neg : Bool) (m : Nat) (e q : Int) : Nat × Bool :=
  if q ≤ e then (m * 2 ^ (e - q).toNat, true)
  else
    let d := (q - e).toNat
    let n := m / 2 ^ d
    let rem := m % 2 ^ d
    (n + (if roundsUp rm neg n rem d then 1 else 0), rem == 0)

/-- What an overflow delivers (R89). -/
def overflowBits (t : FpFmt) (rm : Rm) (neg : Bool) : Nat :=
  match rm, neg with
  | .rne, _ => t.infBits
  | .rtz, _ => t.maxBits
  | .rup, false => t.infBits
  | .rup, true => t.maxBits
  | .rdn, true => t.infBits
  | .rdn, false => t.maxBits

/-- Round (-1)^neg × m × 2^e once to the format: the pattern and the sticky bits (R89, R92). -/
def roundFp (t : FpFmt) (rm : Rm) (neg : Bool) (m : Nat) (e : Int) : Nat × Nat :=
  if m = 0 then (signBits t neg, 0)
  else
    let top : Int := (Nat.log2 m : Int) + e
    let q : Int := max top t.emin - t.mb
    let r := quantize rm neg m e q
    let n := r.1
    let exact := r.2
    let be : Nat := (q + t.mb + t.bias).toNat
    let mag := (be - 1) * 2 ^ t.mb + n
    if t.infBits ≤ mag then (signBits t neg + overflowBits t rm neg, fOF + fNX)
    else
      let tiny := top < t.emin &&
        (quantize rm neg m e (top - t.mb)).1 * 2 ^ ((top - t.mb) - (t.emin - t.mb - 2)).toNat
          < 2 ^ (t.mb + 2)
      (signBits t neg + mag, (if exact then 0 else fNX) + (if tiny && !exact then fUF else 0))

/-- The canonical NaN with IO or without. -/
def nanWith (t : FpFmt) (io : Bool) : Nat × Nat := (t.nanBits, if io then fIO else 0)

/-- Whether an operand is a signalling NaN. -/
def isSnan : Fp → Bool
  | .nan s => s
  | _ => false

/-- Whether an operand is a NaN. -/
def isNan : Fp → Bool
  | .nan _ => true
  | _ => false

/-- The sum of two exact finite values: sign, magnitude, exponent; an exact zero sum of opposite signs is +0, or -0
under RDN (R89). -/
def exactAdd (rm : Rm) (na : Bool) (ma : Nat) (ea : Int) (nb : Bool) (mb : Nat) (eb : Int) : Bool × Nat × Int :=
  let e := min ea eb
  let a : Int := (if na then -1 else 1) * ((ma * 2 ^ (ea - e).toNat : Nat) : Int)
  let b : Int := (if nb then -1 else 1) * ((mb * 2 ^ (eb - e).toNat : Nat) : Int)
  let s := a + b
  if s = 0 then ((if na == nb then na else rm == .rdn), 0, e)
  else (decide (s < 0), s.natAbs, e)

/-- Round an exact sum. -/
def roundSum (t : FpFmt) (rm : Rm) (x : Bool × Nat × Int) : Nat × Nat := roundFp t rm x.1 x.2.1 x.2.2

/-- Addition (R89, R90, R92). -/
def fpAdd (t : FpFmt) (rm : Rm) (x y : Nat) : Nat × Nat :=
  match unpack t x, unpack t y with
  | .nan s, b => nanWith t (s || isSnan b)
  | a, .nan s => nanWith t (s || isSnan a)
  | .inf n, .inf n' => if n == n' then (signBits t n + t.infBits, 0) else nanWith t true
  | .inf n, .fin _ _ _ => (signBits t n + t.infBits, 0)
  | .fin _ _ _, .inf n => (signBits t n + t.infBits, 0)
  | .fin na ma ea, .fin nb mb eb => roundSum t rm (exactAdd rm na ma ea nb mb eb)

/-- Flip the sign bit. -/
def fpNeg (t : FpFmt) (x : Nat) : Nat := if bitAt x (t.eb + t.mb) then x - t.signW else x + t.signW

/-- Subtraction: a + (−b), with a NaN's sign of no account (R90). -/
def fpSub (t : FpFmt) (rm : Rm) (x y : Nat) : Nat × Nat := fpAdd t rm x (fpNeg t y)

/-- Multiplication (R89, R90, R92). -/
def fpMul (t : FpFmt) (rm : Rm) (x y : Nat) : Nat × Nat :=
  match unpack t x, unpack t y with
  | .nan s, b => nanWith t (s || isSnan b)
  | a, .nan s => nanWith t (s || isSnan a)
  | .inf n, .inf n' => (signBits t (n != n') + t.infBits, 0)
  | .inf n, .fin n' m _ => if m = 0 then nanWith t true else (signBits t (n != n') + t.infBits, 0)
  | .fin n' m _, .inf n => if m = 0 then nanWith t true else (signBits t (n != n') + t.infBits, 0)
  | .fin na ma ea, .fin nb mb eb => roundFp t rm (na != nb) (ma * mb) (ea + eb)

/-- Whether a product is 0 × infinity. -/
def zeroTimesInf : Fp → Fp → Bool
  | .inf _, .fin _ m _ => m == 0
  | .fin _ m _, .inf _ => m == 0
  | _, _ => false

/-- The exact product: infinite, or finite. NaN operands are dealt with before. -/
def exactMul : Fp → Fp → Fp
  | .inf n, .inf n' => .inf (n != n')
  | .inf n, .fin n' _ _ => .inf (n != n')
  | .fin n' _ _, .inf n => .inf (n != n')
  | .fin na ma ea, .fin nb mb eb => .fin (na != nb) (ma * mb) (ea + eb)
  | _, _ => .nan false

/-- a × b + c, rounded once (R91). 0 × infinity is invalid also with a NaN addend (R92). -/
def fpFma (t : FpFmt) (rm : Rm) (x y z : Nat) : Nat × Nat :=
  let a := unpack t x
  let b := unpack t y
  let c := unpack t z
  if isNan a || isNan b || isNan c || zeroTimesInf a b then
    nanWith t (isSnan a || isSnan b || isSnan c || zeroTimesInf a b)
  else match exactMul a b, c with
    | .inf n, .inf n' => if n == n' then (signBits t n + t.infBits, 0) else nanWith t true
    | .inf n, _ => (signBits t n + t.infBits, 0)
    | .fin _ _ _, .inf n => (signBits t n + t.infBits, 0)
    | .fin na ma ea, .fin nb mb eb => roundSum t rm (exactAdd rm na ma ea nb mb eb)
    | _, _ => nanWith t false

/-- A quotient of naturals with a sticky low bit: enough bits that one rounding of it rounds the exact quotient. -/
def stickyDiv (a b k : Nat) : Nat := 2 * (a * 2 ^ k / b) + (if a * 2 ^ k % b = 0 then 0 else 1)

/-- Division, correctly rounded (R121). -/
def fpDiv (t : FpFmt) (rm : Rm) (x y : Nat) : Nat × Nat :=
  match unpack t x, unpack t y with
  | .nan s, b => nanWith t (s || isSnan b)
  | a, .nan s => nanWith t (s || isSnan a)
  | .inf _, .inf _ => nanWith t true
  | .inf n, .fin n' _ _ => (signBits t (n != n') + t.infBits, 0)
  | .fin n _ _, .inf n' => (signBits t (n != n'), 0)
  | .fin na ma ea, .fin nb mb eb =>
    if mb = 0 then
      if ma = 0 then nanWith t true else (signBits t (na != nb) + t.infBits, fDZ)
    else
      let k := 2 * t.mb + 4
      roundFp t rm (na != nb) (stickyDiv ma mb k) (ea - eb - k - 1)

/-- The integer square root, by bisection on the bits (R129: correctly rounded results are determined). -/
def isqrtGo : Nat → Nat → Nat → Nat
  | 0, _, r => r
  | b + 1, x, r => if (r + 2 ^ b) * (r + 2 ^ b) ≤ x then isqrtGo b x (r + 2 ^ b) else isqrtGo b x r

/-- The integer square root of `x`. -/
def isqrt (x : Nat) : Nat := isqrtGo (Nat.log2 x / 2 + 1) x 0

/-- Square root, RNE, with the special values of R128. -/
def fpSqrt (t : FpFmt) (x : Nat) : Nat × Nat :=
  match unpack t x with
  | .nan s => nanWith t s
  | .inf n => if n then nanWith t true else (t.infBits, 0)
  | .fin n m e =>
    if m = 0 then (signBits t n, 0)
    else if n then nanWith t true
    else
      let k := 2 * t.mb + 6
      let e' : Int := e - 2 * k
      let m' := m * 2 ^ (2 * k)
      let m2 := if e' % 2 = 0 then m' else 2 * m'
      let e2 : Int := if e' % 2 = 0 then e' else e' - 1
      let r := isqrt m2
      roundFp t .rne false (2 * r + (if r * r = m2 then 0 else 1)) (e2 / 2 - 1)

/-- The order of two values that are no NaN: whether a < b, with −0 below +0 where `zs` (R91). -/
def fpLt (zs : Bool) : Fp → Fp → Bool
  | .inf n, .inf n' => n && !n'
  | .inf n, .fin _ _ _ => n
  | .fin _ _ _, .inf n => !n
  | .fin na ma ea, .fin nb mb eb =>
    let e := min ea eb
    let a : Int := (if na then -1 else 1) * ((ma * 2 ^ (ea - e).toNat : Nat) : Int)
    let b : Int := (if nb then -1 else 1) * ((mb * 2 ^ (eb - e).toNat : Nat) : Int)
    a < b || (zs && a == 0 && b == 0 && na && !nb)
  | _, _ => false

/-- minimumNumber and maximumNumber (R91). -/
def fpMinMax (t : FpFmt) (wantMax : Bool) (x y : Nat) : Nat × Nat :=
  let a := unpack t x
  let b := unpack t y
  let io := if isSnan a || isSnan b then fIO else 0
  if isNan a && isNan b then (t.nanBits, io)
  else if isNan a then (y, io)
  else if isNan b then (x, io)
  else if (if wantMax then fpLt true a b else fpLt true b a) then (y, 0) else (x, 0)

/-- Round to an integral value (R122). -/
def fpRnd (t : FpFmt) (rm : Rm) (x : Nat) : Nat × Nat :=
  match unpack t x with
  | .nan s => nanWith t s
  | .inf _ => (x, 0)
  | .fin n m e =>
    if m = 0 then (x, 0)
    else ((roundFp t .rtz n (quantize rm n m e 0).1 0).1, 0)

/-- a − floor(a) (R122). An integral a gives +0 in every mode, as ±0 does (DEDUCED, log 11). -/
def fpFract (t : FpFmt) (rm : Rm) (x : Nat) : Nat × Nat :=
  match unpack t x with
  | .nan s => nanWith t s
  | .inf _ => nanWith t true
  | .fin n m e =>
    if m = 0 then (0, 0)
    else if 0 ≤ e then (0, 0)
    else
      let d := (-e).toNat
      let f := if n then (2 ^ d - m % 2 ^ d) % 2 ^ d else m % 2 ^ d
      if f = 0 then (0, 0)
      else
        let r := roundFp t rm false f e
        if t.oneBits ≤ r.1 then (t.oneBits - 1, r.2 ||| fNX) else r

/-- The class bit of a value (R124). -/
def fpClass (t : FpFmt) (x : Nat) : Nat :=
  match unpack t x with
  | .nan s => if s then 1 else 2
  | .inf n => if n then 4 else 512
  | .fin n m _ =>
    if m = 0 then (if n then 32 else 64)
    else if m < 2 ^ t.mb then (if n then 16 else 128)
    else if n then 8 else 256

/-- a × 2^n (R125). -/
def fpLdexp (t : FpFmt) (rm : Rm) (x : Nat) (n : Int) : Nat × Nat :=
  match unpack t x with
  | .nan s => nanWith t s
  | .inf _ => (x, 0)
  | .fin s m e => if m = 0 then (x, 0) else roundFp t rm s m (e + n)

/-- The binary exponent e with 2^(e−1) ≤ |a| < 2^e, and IO for infinities and NaNs (R125). -/
def fpFrexp (t : FpFmt) (x : Nat) : Int × Nat :=
  match unpack t x with
  | .nan _ => (0, fIO)
  | .inf _ => (0, fIO)
  | .fin _ m e => if m = 0 then (0, 0) else ((Nat.log2 m : Int) + e + 1, 0)

/-- The magnitude bits of a with the sign bit of b (R121). -/
def fpCopysign (t : FpFmt) (x y : Nat) : Nat := x % t.signW + signBits t (bitAt y (t.eb + t.mb))

/-- The clamp to [+0, 1] (R121). -/
def fpClamp (t : FpFmt) (x : Nat) : Nat :=
  match unpack t x with
  | .nan _ => 0
  | .inf n => if n then 0 else t.oneBits
  | .fin n m _ => if n || m == 0 then 0 else if t.oneBits < x then t.oneBits else x

/-- a0 × b0 + a1 × b1 + c with one rounding to F32 (R123). IO is raised for 0 × ∞, for opposite infinities and for a signalling NaN, also
where another element is a quiet NaN. -/
def fpDot2 (t : FpFmt) (rm : Rm) (a0 a1 b0 b1 c : Nat) : Nat × Nat :=
  let u0 := unpack t a0
  let u1 := unpack t a1
  let v0 := unpack t b0
  let v1 := unpack t b1
  let w := unpack f32 c
  let infs := [exactMul u0 v0, exactMul u1 v1, w]
  let bad := zeroTimesInf u0 v0 || zeroTimesInf u1 v1 || (infs.contains (.inf true) && infs.contains (.inf false))
  let snan := isSnan u0 || isSnan u1 || isSnan v0 || isSnan v1 || isSnan w
  if isNan u0 || isNan u1 || isNan v0 || isNan v1 || isNan w || bad then nanWith f32 (snan || bad)
  else match exactMul u0 v0, exactMul u1 v1, w with
    | .fin n0 m0 e0, .fin n1 m1 e1, .fin n2 m2 e2 =>
      let s := exactAdd rm n0 m0 e0 n1 m1 e1
      let r := exactAdd rm s.1 s.2.1 s.2.2 n2 m2 e2
      let allNeg := n0 && n1 && n2
      let allPos := !n0 && !n1 && !n2
      if r.2.1 = 0 then (signBits f32 (if allNeg then true else if allPos then false else rm == .rdn), 0)
      else roundSum f32 rm r
    | p0, p1, p2 =>
      (signBits f32 ([p0, p1, p2].any fun p => p == .inf true) + f32.infBits, 0)

/-- Float to float (R140). -/
def fpConv (src dst : FpFmt) (rm : Rm) (x : Nat) : Nat × Nat :=
  match unpack src x with
  | .nan s => nanWith dst s
  | .inf n => (signBits dst n + dst.infBits, 0)
  | .fin n m e => roundFp dst rm n m e

/-- Float to integer of `w` bits (R108). Whether a value is outside the destination range is judged after rounding (DESIGN CHOICE, log 78). -/
def fpToInt (src : FpFmt) (signed : Bool) (w : Nat) (rm : Rm) (x : Nat) : Nat × Nat :=
  let lo : Int := if signed then -((2 ^ (w - 1) : Nat) : Int) else 0
  let hi : Int := if signed then ((2 ^ (w - 1) : Nat) : Int) - 1 else ((2 ^ w : Nat) : Int) - 1
  match unpack src x with
  | .nan _ => (0, fIO)
  | .inf n => (wrap w (if n then lo else hi), fIO)
  | .fin n m e =>
    let r := quantize rm n m e 0
    let v : Int := if n then -(r.1 : Int) else (r.1 : Int)
    if v < lo then (wrap w lo, fIO)
    else if hi < v then (wrap w hi, fIO)
    else (wrap w v, if r.2 then 0 else fNX)

/-- Integer to float (R139). -/
def fpOfInt (dst : FpFmt) (rm : Rm) (v : Int) : Nat × Nat := roundFp dst rm (decide (v < 0)) v.natAbs 0

/-- A float condition (R142): code, result, and the sticky bits. -/
def fpCmp (t : FpFmt) (cond : Nat) (x y : Nat) : Bool × Nat :=
  let a := unpack t x
  let b := unpack t y
  let snan := isSnan a || isSnan b
  if isNan a || isNan b then
    ((cond == 1 || cond == 6),
     if snan || (2 ≤ cond && cond ≤ 5) then fIO else 0)
  else
    let lt := fpLt false a b
    let gt := fpLt false b a
    (match cond with
     | 0 => !lt && !gt
     | 1 => lt || gt
     | 2 => lt
     | 3 => !gt
     | 4 => gt
     | 5 => !lt
     | 6 => false
     | _ => true, 0)

end Sys2Proof.Machine
end

