-- ==== Sys2Proof/Machine/State.lean ====
section
/-! DEFINITION. The state of the device (01_machine_at_a_glance.md, R3, R18, R24, and the rules named at each field), as
plain data, and the state after reset. Fields that are the model's own say so; INVENTORY.md lists every field. -/

namespace Sys2Proof.Machine

/-- Why a parked fragment cannot proceed (R43). The reason code is `Await.code`. -/
inductive Await where
  /-- FLAGWAIT at a clause entry: the flags of this WAITM mask are awaited (R28). -/
  | flags (waitm : Nat)
  /-- FLAGWAIT: the counter of this flag is full (R31). -/
  | room (flag : Nat)
  /-- PENDREG: one of these registers is pending for a load (R42). Keys 0-127 are V, 128-511 are S. -/
  | pend (regs : List Nat)
  /-- QUEUE: this queue is empty (R53). -/
  | queue (q : Nat)
  /-- ATT: an entry of the Attendance table is awaited (R254), or a queue entry of LAUNCH.w or JOIN. -/
  | att
  /-- ATT: parked at this BAR (instruction address, object address) until every live fragment is there (R202). -/
  | bar (pc : Nat) (obj : Nat)
  /-- FAULT: the fault event of this number is awaited (R300). -/
  | fault (event : Nat)
  /-- NOTESTALL: one of these registers is armed and empty (R196). -/
  | note (regs : List Nat)
  /-- BACKPRESS, with the cause of R337: 0 combine buffer, 1 request queue, 2 class budget, 3 queue entry, 4 tile,
  5 replay limit. -/
  | back (cause : Nat)
  /-- BACKPRESS, cause 3: this many free entries of this queue are awaited (R53, R186). -/
  | entries (q n : Nat)
  /-- BACKPRESS, cause 5: the group has sixteen matrix jobs (R307). -/
  | jobs
  /-- BACKPRESS, cause 1: the core's queue of MMA jobs is full (R181). -/
  | engines
  /-- BACKPRESS without a cause number: an earlier memory instruction of the group is not yet translated (R149), or a table read that this
  one needs must wait for the host (R320). -/
  | order
  /-- BACKPRESS without a cause number: an object operation that waits for the group's earlier accesses, as a release at
  this scope (R148, R202, R203), or only for the stores of its core to the object's line (R151); whether it writes the object, and its
  address (beyond all memory for one in a scratchpad); and whether its page is SO. Scope 0 is that of a WAIT at team scope, which reads the
  L1 or the combine buffer (R234). -/
  | object (release write so : Bool) (scope pa : Nat)
  /-- BACKPRESS without a cause number: a WBIND of the group on this team's region waits for the end of its copy (R165, R270). -/
  | bind (team region : Nat)
  /-- FLAGWAIT: an EXIT that ended the group's last live fragment waits for the counters and notes (R34). -/
  | exit
  /-- PREEMPT: being saved, or saved and not yet restored, and ready but for that (R43; log 73). -/
  | preempt
  /-- BACKPRESS without a cause number: a clause entry whose words, so many bytes at this address, cannot be served yet (R28, R288, R320;
  log 86). -/
  | fetch (va n : Nat)
  deriving DecidableEq, Repr

/-- The reason code (R43). -/
def Await.code : Await → Nat
  | .flags _ => 0
  | .room _ => 0
  | .pend _ => 1
  | .queue _ => 2
  | .att => 3
  | .bar _ _ => 3
  | .fault _ => 4
  | .note _ => 5
  | .back _ => 6
  | .entries _ _ => 6
  | .jobs => 6
  | .engines => 6
  | .order => 6
  | .object _ _ _ _ _ => 6
  | .bind _ _ => 6
  | .exit => 0
  | .preempt => 7
  | .fetch _ _ => 6

/-- The cause number of R337 for BACKPRESS. A wait that R337 does not list, for an earlier instruction of the group whose translation is
open, for an object's line or for a binding, has cause 1, the request queue (DESIGN CHOICE, log 86). -/
def Await.cause (a : Await) : Option Nat :=
  match a with
  | .back c => some c
  | .entries _ _ => some 3
  | .jobs => some 5
  | _ => if a.code = 6 then some 1 else none

/-- The condition of a fragment (R221). -/
inductive Cond where
  | ready
  /-- Parked since a cc; `tabled` is false where the waiting table was full (R44). -/
  | parked (why : Await) (tabled : Bool) (since : Nat)
  /-- Sleeping until a cc (R212). -/
  | sleeping (till : Nat)
  /-- Waiting at the reconvergence point of its innermost region (R223). -/
  | atRpc
  deriving DecidableEq, Repr

/-- An operand latch (R41): the value, one per lane or one for all, whether it was 64 bits wide, and the count of
instructions of the fragment when it was captured. -/
structure Latch where
  vals : List DWord
  wide : Bool
  uniform : Bool
  stamp : Nat
  deriving DecidableEq, Repr

/-- A fragment (R221). `pc` is the header address of its clause; `idx` is the word at which its next instruction begins,
0 while the clause is not yet entered; `words` are the fetched words of the clause after its header (R28). -/
structure Frag where
  pc : Nat
  hdr : Word
  words : List Word
  idx : Nat
  members : LaneMask
  exec : LaneMask
  scc : Bool
  carry : Bool
  depth : Nat
  region : Option Nat
  cond : Cond
  /-- Cycle of its last issue or of becoming ready (R228). -/
  since : Nat
  /-- Loses every tie at its next selection (R228). -/
  yielded : Bool
  /-- Instructions issued, and the count at its last safe point (R41). -/
  count : Nat
  lastSp : Nat
  /-- L0, L1, L2 (R41). -/
  latches : Tab Latch
  /-- The index its entry has, or had before it was spilled (R222). -/
  home : Nat
  /-- When its entry was last spilled (R222): the model's own. -/
  spilled : Nat
  /-- Its name in its group, never used again: the model's own. -/
  id : Nat
  /-- A clause entry of TRET: no WAITM test, and the word to resume at (R217). -/
  resume : Option Nat
  deriving DecidableEq, Repr

/-- An open region (R221). `id` names it; `outer` is the next region out. -/
structure Region where
  id : Nat
  rpc : Nat
  expected : LaneMask
  arrived : LaneMask
  depth : Nat
  outer : Option Nat
  deriving DecidableEq, Repr

/-- An entry of the split table (index 0-7) or of the spill area (index 8 and up) (R221, R222). -/
inductive SplitEntry where
  | frag (f : Frag)
  | region (r : Region)
  deriving DecidableEq, Repr

/-- States of a group (R219). -/
inductive GState where
  | placed | running | parked | saved | retiring | retired
  deriving DecidableEq, Repr

/-- The number of a group state in a context image (R311) and in Proctor events (R337): R219's order from 1 on (DEDUCED, log 44). -/
def GState.code : GState → Nat
  | .placed => 1
  | .running => 2
  | .parked => 3
  | .saved => 4
  | .retiring => 5
  | .retired => 6

/-- The note state of a register (R196). -/
inductive NoteSt where
  | ord | empty | full
  deriving DecidableEq, Repr

/-- A queue entry (R53): the operation that reserved it, the flag it joined, its words once its result is known, and those
words once they have arrived. -/
structure QSlot where
  op : Nat
  flag : Option Nat
  res : Option (List Word)
  val : Option (List Word)
  deriving DecidableEq, Repr

/-- A recorded note failure (R199): the pass, the cause, and whether it has been raised. -/
structure NoteFail where
  pass : DWord
  cause : Nat
  raised : Bool
  deriving DecidableEq, Repr

/-- A physical tile (R172, R173, R187): elements by 32 × i + j, as X224 or F32 patterns, zero where not listed; the mode of
its contents (0 unset, 1 EXACT, 2 F32TREE) and that of the operations issued (R104); the status bits; the group that holds
it, by name; the jobs whose turns are pending, in issue order (R174). -/
structure Tile where
  elems : Tab Nat
  mode : Nat
  imode : Nat
  accsat : Bool
  sclamp : Bool
  narp : Bool
  rows : Nat
  stop : Bool
  owner : Option Nat
  turns : List Nat
  deriving DecidableEq, Repr

/-- A cleared tile (R173). -/
def Tile.empty : Tile :=
  { elems := [], mode := 0, imode := 0, accsat := false, sclamp := false, narp := false, rows := 0, stop := false
    owner := none, turns := [] }

/-- A group (R46 to R54, R213, R219). -/
structure Group where
  state : GState
  /-- The launch (its Journal sequence number), the partition, the team's key, its TEAMID and COHID. -/
  launch : Nat
  part : Nat
  team : Nat
  teamid : Word
  cohid : Word
  vcount : Nat
  subcore : Nat
  row0 : Nat
  /-- Physical tiles of T0, T1, … (R173). -/
  tiles : List Nat
  cls : Nat
  bprio : Nat
  prioMax : Nat
  eprio : Nat
  trapVa : Nat
  dbgen : Bool
  fsvc : Bool
  v : Tab (List Word)
  s : Tab Word
  /-- Registers pending for a load, with the operation that writes them (R42). -/
  pend : Tab Nat
  note : Tab NoteSt
  /-- F0 to F11 (R30). -/
  fcnt : List Nat
  nrec : Tab NoteFail
  nfail : Nat
  /-- WOVF, IO, DZ, OF, UF, NX: bits 2 to 7 of FLAGS (R51). -/
  sticky : Nat
  /-- Q0 to Q6 (R52). -/
  queues : List (List QSlot)
  split : Tab SplitEntry
  nextRegion : Nat
  /-- The next name for a fragment: the model's own. -/
  nextFrag : Nat
  /-- The fragment in its trap handler (R215). -/
  hmode : Option Nat
  trapcnt : Nat
  /-- The fragment that executed the last EXIT, kept for R34: its index and contents. -/
  exited : Option (Nat × Frag)
  /-- SO clock (R239). -/
  pts : Nat
  /-- Its name, given at its start and never used again: the model's own. -/
  uid : Nat
  /-- Killed: to be retired at the next issue boundary (R220). -/
  killed : Bool
  /-- The code of a program trap that found no handler: the launch becomes FAULTED (R215). -/
  trapKill : Option Nat
  /-- A save is requested: when, and the order number of the request (R305, R306). -/
  saveReq : Option Nat
  /-- Its save has begun, 1 as a halt, 0 after a safe point (R306). -/
  grace : Option Nat
  /-- The state it was saved in (R219). -/
  savedFrom : GState
  /-- When it was placed or last restored (R305). -/
  placedAt : Nat
  /-- The locks it owns: object, and where it lies (R203). -/
  locks : List (Nat × Option Nat × Nat)
  /-- What its last save kept: the live mask, and whether it was a halt (R36, R311). -/
  liveMask : Nat
  halted : Bool
  /-- CLOCK when it completed, its tiles' contents (R310), and reserved queue entries outside the live mask, whose completion only
  counts their flag down (R313). -/
  tsave : Nat
  kept : List Tile
  orphans : List QSlot
  /-- Its image does not yet show what has happened to it since its save, for a line of it must wait at its home (R232, R320). -/
  behind : Bool := false
  deriving DecidableEq, Repr

/-! ### Memory -/

/-- One access of a lane after splitting (R146): `off` is where its bytes lie in the lane's data; `pa` and `ord` are known
once its page is translated, `team` is the team whose scratchpad it reaches, at byte `pa` (none: out of range, R155,
R156); a store's bytes, or those a load or atomic has got, stand in `data`. `sent`: it has been asked for. -/
structure Acc where
  lane : Nat
  va : Nat
  n : Nat
  off : Nat
  pa : Nat
  ord : Nat
  team : Option Nat
  data : List Byte
  sent : Bool
  done : Bool
  /-- An access to a scratchpad that has been noticed (`sent`): the regions whose chunks it awaits, and those of which a WBIND of its group
  must take effect first, as masks (R165, R248, R270). -/
  await : Nat := 0
  hold : Nat := 0
  /-- Of an atomic: its bytes have been found free of poison, so that no lane is performed before that is known of all (R300, R371). -/
  clean : Bool := false
  deriving DecidableEq, Repr

/-- A table walk under way (R294): the table read next, its level, whether it is a G64 table, and the VA. -/
structure Walk where
  va : Nat
  table : Nat
  lvl : Nat
  g64 : Bool
  deriving DecidableEq, Repr

/-- A leaf as the TLBs hold it (R293, R295): partition, page start, log2 of the size, the entry, its level, and where it
lies. -/
structure Leaf where
  part : Nat
  vbase : Nat
  bits : Nat
  raw : Nat
  lvl : Nat
  pte : Nat
  /-- The sixteen entries of a merged leaf, of which it keeps the D bits (R296); none for a plain one. -/
  merged : List Nat
  deriving DecidableEq, Repr

/-- The kinds of a group's operations in flight (R150). -/
inductive OpKind where
  | load | store | atomic | prefetch
  | sload | sstore | satomic
  /-- FENCE and FENCEX (R162, R163). -/
  | fence
  | cwb
  /-- The stores of an MDRAIN (R185). -/
  | drain
  /-- CINV behind a fence (R162, R164). -/
  | cinv
  /-- WUNBIND of a region (R166). -/
  | wunbind (region : Nat)
  deriving DecidableEq, Repr

/-- How far an operation has come. -/
inductive Stage where
  /-- Pages are still to be translated (R149). -/
  | translate
  /-- Stopped at a fault event (R300). -/
  | faulted (event : Nat)
  /-- Translated and not yet begun. -/
  | ready
  /-- Its accesses are being performed. -/
  | active
  /-- Every access is performed; the reply has still to be written (loads and atomics). -/
  | performed
  deriving DecidableEq, Repr

/-- An operation of a group in flight (R30, R149, R150). -/
structure Op where
  kind : OpKind
  gid : Nat
  uid : Nat
  frag : Nat
  part : Nat
  cls : Nat
  hmode : Bool
  flag : Option Nat
  /-- Destination: its first register key, and the lanes written; `uni` where it is uniform. -/
  dest : Option Nat
  lanes : LaneMask
  uni : Bool
  size : Nat
  sx : Bool
  nt : Bool
  order : Nat
  scope : Nat
  /-- Fences: UO, and the paths "from" and "to" (R162, R163). -/
  uo : Bool
  src : List Nat
  dst : List Nat
  acc : List Acc
  /-- Atomics: AOP, TYPE, operand and comparand by lane (R158). -/
  aop : Nat
  ty : Nat
  data : Tab Nat
  cmp : Tab Nat
  /-- Tag words by lane (R160). -/
  tags : Tab Nat
  stage : Stage
  /-- Pages still to be translated, the walk under way, pages found (page, PA, page kind), pages that fault: code,
  level, entry (R300). -/
  pages : List Nat
  walk : Option Walk
  found : List (Nat × Nat × Nat)
  bad : List (Nat × Nat × Nat × Nat)
  /-- Combine-buffer entries and postings of the operation not yet acknowledged (R153), and lines awaited. -/
  waits : Nat
  /-- Clock of issue. -/
  born : Nat
  /-- Address of word 0 of its instruction, and the format words (R312). -/
  pc : Nat
  iw : List Word
  /-- Its group's launch, by key, and its group's SO clock once the group has retired (R239). -/
  launch : Nat
  pts : Nat
  deriving DecidableEq, Repr

/-- A combine-buffer entry (R153): the bytes by offset, the stores they belong to, the groups they belong to (by name), the groups of drains
that wrote bytes of it and the mask of those bytes (R185, R264), whose
line on an SO page it is and that group's SO clock, whether its page is UO, when its first byte entered, whether its posting has been asked for,
and the GID of the group whose byte came first, 0 for an agent without one. -/
structure CbEnt where
  line : Nat
  so : Option Nat
  uo : Bool
  bytes : Tab Byte
  ops : List Nat
  gids : List Nat
  part : Nat
  cls : Nat
  pts : Nat
  first : Nat
  want : Bool
  drains : List Nat := []
  dmask : Nat := 0
  gid : Nat := 0
  deriving DecidableEq, Repr

/-- A near-cache copy of a device line (R232, R239): bytes, grant stamp, SO timestamps, whether a UO load brought it, so that the directory
does not track it (R240). -/
structure NearLine where
  data : List Byte
  stamp : Nat
  wts : Nat
  rts : Nat
  uo : Bool
  /-- When it was last used; 0 for a line placed as least recently used (R152). -/
  used : Nat
  deriving DecidableEq, Repr

/-- A request of a near cache outstanding at a home (R23, R232): the operations attached, those attached after a probe was
recorded, those that need a request of their own after this one, the probes recorded, and whether a UO load asked. -/
structure NearReq where
  ops : List Nat
  late : List Nat
  again : List Nat
  probes : List Nat
  uo : Bool
  /-- A fence with UO has passed since it was sent: no later access attaches, and its line is not kept (R240). -/
  closed : Bool := false
  /-- The operations for which it was sent: a line that its home does not grant serves them alone (R235, R320). -/
  asked : List Nat := []
  /-- Group slot and CGEN of the operations that a save has taken from it (R308). -/
  old : List (Nat × Nat) := []
  deriving DecidableEq, Repr

/-- A 64-byte sector of host memory in a near cache (R324): 1 S, 2 E, 3 M, the bytes, and whether the upgrade notice of
its first write is not yet recorded; `want` is what is asked of the host: 0 nothing, 1 RdShared, 2 RdOwn; with the
operations and postings that wait; `poison`: the host gave its bytes as poisoned (R327). -/
structure Sector where
  st : Nat
  data : List Byte
  notice : Bool
  want : Nat
  ops : List Nat
  posts : List Nat
  poison : Bool := false
  /-- Group slot and CGEN of the operations that a save has taken from it (R308). -/
  old : List (Nat × Nat) := []
  /-- Groups, by name, whose engines wait for it. -/
  engs : List Nat := []
  /-- When it was last used, as of a near line (R152). -/
  used : Nat := 0
  deriving DecidableEq, Repr

/-- A sector in state I. -/
def Sector.empty : Sector := { st := 0, data := [], notice := false, want := 0, ops := [], posts := [] }

/-- A host access that waits at a home (R323): a read, a request for a copy (own or shared), or a write of some bytes of a line
(R318). -/
inductive HostReq where
  | read (pa n : Nat)
  | copy (line half : Nat) (own : Bool)
  | write (line : Nat) (bytes : Tab Byte)
  deriving DecidableEq, Repr

/-- What one flit of the Separator carries between chiplets in this model (R21, R153, R231, R237). `part` and `cls` are
the partition and class of the source (R288). -/
inductive Msg where
  /-- A near cache asks for a line, of which loads read `halves` (a bit for each 64 bytes); `so` is the group whose SO load asks and its clock (R239). -/
  | loadReq (line halves : Nat) (so : Option (Nat × Nat)) (uo : Bool) (part cls : Nat)
  /-- The home's answer: bytes, sequence number, SO timestamps; `so` is the group and the timestamp its SO load takes;
  `keep`: it is a grant, and the near cache may hold the line (R320, R323). -/
  | grant (line : Nat) (data : List Byte) (seq wts rts : Nat) (so : Option (Nat × Nat)) (uo keep poison : Bool)
  /-- A posted partial line, under the SO clock of its group (R153, R239). -/
  | posting (id line : Nat) (bytes : Tab Byte) (so : Option (Nat × Nat)) (uo : Bool) (part cls : Nat)
  /-- The acknowledgement: the line's new sequence number, its global slice number and the SO timestamp. -/
  | postAck (id seq slice ts : Nat)
  /-- A probe stamped with a sequence number, and its answer (R231). -/
  | probe (line seq : Nat)
  | probeAck (line seq : Nat)
  /-- An atomic's lanes on one line (R237): operation, accesses by index, and the SO clock of its group. -/
  | atomReq (op line : Nat) (idx : List Nat) (so : Option (Nat × Nat)) (part cls : Nat)
  /-- The old values and tag words of accesses. -/
  | atomReply (op : Nat) (idx : List Nat) (old : List (List Byte)) (tags : List Nat) (ts : Nat) (poison : Bool)
  /-- A note packet (R197) and its answer: the cause, 0 for an acknowledgement (R198). -/
  | note (op : Nat)
  | noteAck (op : Nat) (cause : Nat)
  /-- A host access held at a home: it never travels. -/
  | host (r : HostReq)
  /-- FLUSH of a page, the chiplet's answer, and its near cache's acknowledgement (R321). -/
  | flush (page : Nat)
  | flushDone (page : Nat)
  | flushInv (page : Nat)
  /-- A Churn engine asks another for a granule of a job's second range, and gets its bytes (R251). -/
  | granReq (job k : Nat)
  | granData (job k : Nat) (data : List Byte)
  deriving DecidableEq, Repr

/-- A line of device memory at its home: sequence number and directory (R160, R231), SO timestamps (R239), the bytes
written since the line was poisoned, one bit each (R371), the set and way (set × 16 + way) in which its slice caches it
(R285), whether the cached copy is dirty (R286), what the host may hold of each half: 0 HOST-I, 1 HOST-S, 2 HOST-A (R320), the
halves whose back-invalidate snoop is outstanding (`snpData`: those that are BISnpData; `passed`: those whose BISnpData has been
answered for a load that waits), the flip: 0 none, 1 FLUSHING, 2 flushed, 3 RECALLING, 4 recalled (R321,
R322), whether a DRAM read is under way and since which cc (R288), the way mask at the lookup of each chiplet's load that waits for it (R286), and the requests
that wait here, with their chiplets. -/
structure HomeLine where
  seq : Nat
  wts : Nat
  rts : Nat
  holders : Nat
  poison : Option Nat
  cached : Option Nat
  dirty : Bool
  host0 : Nat
  host1 : Nat
  snoop : Nat
  snpData : Nat := 0
  passed : Nat := 0
  flip : Nat
  dram : Bool
  dramAt : Nat := 0
  ways : Tab Nat := []
  held : List (Nat × Msg)
  deriving DecidableEq, Repr

/-- A home line never used (log 4). -/
def HomeLine.empty : HomeLine :=
  { seq := 0, wts := 0, rts := 0, holders := 0, poison := none, cached := none, dirty := false, host0 := 0, host1 := 0
    snoop := 0, flip := 0, dram := false, held := [] }

/-- Probes of one application not all answered (R231): `left` counts them and those of earlier applications of the line; what is
sent, to which chiplet, when they are; the engine's job whose write it was; or the group whose object operation, and whether its page is UO
(R148, R202). -/
structure HomeWait where
  line : Nat
  seq : Nat
  left : Nat
  reply : Option (Nat × Msg)
  job : Option Nat
  src : Option (Nat × Bool) := none
  deriving DecidableEq, Repr

/-- The Timetable (R287): staged owners (0x20, free, where not listed) and budgets (0), the running table, the commit that
waits for the round boundary, TT_STAT[0], the slot and the round. -/
structure Timetable where
  slots : Tab Nat
  budgets : Tab Nat
  runSlots : Tab Nat
  runBudgets : Tab Nat
  next : Option (Tab Nat × Tab Nat)
  failed : Bool
  slot : Nat
  round : Nat
  deriving DecidableEq, Repr

/-- The Timetable after reset (the running table: log 8). -/
def Timetable.empty : Timetable :=
  { slots := [], budgets := [], runSlots := [], runBudgets := [], next := none, failed := false, slot := 0, round := 0 }

/-- A home slice (R239, R286, R288): mts, the way masks by partition (0xFFFF where not listed), those about to change,
partitions whose cleaning runs, bytes counted against class budgets in this slot, and whether the slot's owner has had its first
request in it (R288). -/
structure Slice where
  mts : Nat
  masks : Tab Nat
  nextMasks : Tab Nat
  cleaning : List Nat
  used : Tab Nat
  owned : Bool := false
  deriving DecidableEq, Repr

/-- A slice after reset (mts: log 4). -/
def Slice.empty : Slice := { mts := 0, masks := [], nextMasks := [], cleaning := [], used := [] }

/-- A posting sent by a core (R153): its entry, kept until its acknowledgement; `near`: it is the result of an atomic executed in
the near cache, whose copy already has it (R159); `job`: the engine's job whose write it is (R324). -/
structure Posting where
  core : Nat
  ent : CbEnt
  near : Bool := false
  job : Option Nat := none
  deriving DecidableEq, Repr

/-- A flit in a sender's replay buffer (R347): pair sequence number, the message it is of, whether it is the last of it (log 27); how far its
latest copy has come: 0 waiting at the source to be sent again, 1 under way, 2 at the receiver; what the receiver did with it: 0 nothing yet,
1 received and held for an earlier one, 2 delivered; and the port over which it came, whose credit it holds while it is held (R352). -/
structure Flit where
  seq : Nat
  msg : Msg
  last : Bool := true
  hop : Nat
  got : Nat := 0
  port : Nat := 0
  deriving DecidableEq, Repr

/-- A flit of the pair from `src` to `dst` by its pair sequence number. -/
structure FlitRef where
  src : Nat
  dst : Nat
  seq : Nat
  deriving DecidableEq, Repr

/-- A directed pair of the Separator (R347 to R352): its SEP_ROUTE fields, the messages that wait at the sender with the cc of their coming
(R288), the one that is being sent with the flits left of it, the replay buffer, the messages delivered and not yet taken with the cc of their
coming, credits, credits owed, and the switch-over that waits. Its colours form a link, which carries flits of the pair and flits relayed:
`out` are flits that wait for the link in order, relayed or sent again, `wire` those under way on it, with the colour that carries each (the
secondary: true), and `turn` says that the sender's own flits go next (R352). -/
structure Pair where
  mode : Nat
  via : Nat
  preset : Nat
  pvia : Nat
  lostp : Bool
  losts : Bool
  use : Bool
  switching : Bool
  /-- Mode and VIA a write asked for while SWITCHING was 1; losses reported meanwhile (R350). -/
  nextMode : Option (Nat × Nat)
  relost : Bool
  queue : List (Nat × Msg)
  part : Option (Nat × Msg × Nat) := none
  sent : List Flit
  seq : Nat
  inbox : List (Nat × Msg)
  credits : Nat
  owed : Nat
  out : List FlitRef := []
  wire : List (FlitRef × Bool) := []
  turn : Bool := false
  /-- Consecutive CRC failures on the primary and on the secondary colour (R348). -/
  fails : Nat
  fails2 : Nat
  /-- Where the running switch-over leads (MODE, VIA, USE), and when it began (R351). -/
  target : Option (Nat × Nat × Bool)
  since : Nat
  /-- Colours whose loss is reported and not yet known at the source, and colours that the host cleared and that are to be
  retested (R348). -/
  lossRep : List Nat
  retest : List Nat
  deriving DecidableEq, Repr

/-- A pair after reset (R349). -/
def Pair.empty : Pair :=
  { mode := 0, via := 0, preset := 1, pvia := 0, lostp := false, losts := false, use := false, switching := false,
    nextMode := none, relost := false, queue := [], sent := [], seq := 0, inbox := [], credits := 64, owed := 0,
    fails := 0, fails2 := 0, target := none, since := 0, lossRep := [], retest := [] }

/-- An Attendance entry (R254): the waiter, KIND, SCOPE, STATE (1 WAITING, 2 POLLING, 3 HOLDING), the holder and whether it
is known or a launch, OBJ; and what the unit keeps beside it: where the object lies (a physical address, or a byte of a
team's scratchpad), the value waited to change, the registration stamp (R259), and the page kind. -/
structure AttEnt where
  gid : Nat
  uid : Nat
  part : Nat
  frag : Nat
  saved : Bool
  kind : Nat
  scope : Nat
  st : Nat
  hk : Bool
  hl : Bool
  holder : Nat
  obj : Nat
  place : Option (Option Nat × Nat)
  cmp : Nat
  stamp : Nat
  /-- The page kind of the object (R233). -/
  ord : Nat := 0
  deriving DecidableEq, Repr

/-- A deadlocked set that a unit's probes have found (R259 to R262): the stamps of its WAITING entries, the stamp of the entry
whose wait will be withdrawn, the number of edges, whether a second pass has confirmed it, and of its report the SEQ, the
address (0 if it was not written) and the name of its stores. -/
structure Scan where
  stamps : List Nat
  victim : Nat
  edges : Nat
  confirmed : Bool
  seq : Nat
  va : Nat
  job : Nat
  deriving DecidableEq, Repr

/-- A compute chiplet (R11, R17, R295). -/
structure Chip where
  near : Tab NearLine
  reqs : Tab NearReq
  /-- Host sectors by PA div 64 (R324). -/
  host : Tab Sector
  /-- Attendance entries that are not FREE, by index, and the overflow count (R254, R263). -/
  att : Tab AttEnt
  attOvf : Nat
  /-- Writes dropped for its entries (R264). -/
  attDrops : Nat := 0
  /-- What its probes have found (R259). -/
  scan : Option Scan
  /-- Leaves of the L2 TLB, newest first. -/
  tlb : List Leaf
  /-- The walk cache (R342): partition, level, the VA bits above that level, the entry; newest first. -/
  walks : List (Nat × Nat × Nat × Nat)
  /-- Power-gated (R327). -/
  gated : Bool
  deriving DecidableEq, Repr

/-- A compute chiplet with empty caches. -/
def Chip.empty : Chip :=
  { near := [], reqs := [], host := [], att := [], attOvf := 0, scan := none, tlb := [], walks := [], gated := false }

/-- Who stopped at a fault event (R300). -/
inductive Agent where
  | op (id : Nat)
  | fetch (gid frag : Nat)
  | launchBlock (gid frag : Nat)
  /-- A group at a memory instruction that is translated before its alignment is checked (R152). -/
  | access (gid frag : Nat)
  /-- A group at a DBRK (R218). -/
  | debug (gid frag : Nat)
  | object (gid frag : Nat)
  | matrix (core job : Nat)
  | window (team region : Nat)
  | churn (job : Nat)
  | coll (job : Nat)
  deriving DecidableEq, Repr

/-- A fault event (R300, R303): its partition, its agent, its entries by SEQ with whether each is resumed or recorded. -/
structure FaultEvent where
  part : Nat
  agent : Agent
  seqs : Tab Bool
  deriving DecidableEq, Repr

/-- A fault event whose entries are all resumed (R303): its partition, its agent, the group where the agent is a group, its SEQs. -/
structure PastEvent where
  part : Nat
  agent : Agent
  uid : Option Nat
  seqs : List Nat
  deriving DecidableEq, Repr

/-- A WBIND that waits for the end of the region's copy, or a WWARM held behind one (R165, R270): its group and core × 128 + slot,
its place in issue order, the descriptor (none: WWARM). -/
structure Bind where
  uid : Nat
  gid : Nat
  job : Nat
  desc : Option (List Nat)
  deriving DecidableEq, Repr

/-- An entry of a region table (R247) with its chunk bitmap, and of its copy: the group that started it, its name, the
fault event it is parked on, the WBINDs and WWARMs that wait for its end, oldest first (R165, R270), the slice set joined. -/
structure Window where
  state : Nat
  flt : Bool
  sn : Nat
  sm : Nat
  offset : Nat
  bytes : Nat
  rowlen : Nat
  stride : Nat
  src : Nat
  chunks : Nat
  starter : Nat
  uid : Nat
  job : Nat
  event : Option Nat
  /-- Chunks whose page faulted: they stay absent until the copy is resumed (R248). -/
  stopped : List Nat
  held : List Bind
  /-- Cycle in which a WBIND last took effect here (R270). -/
  bound : Nat
  deriving DecidableEq, Repr

/-- A FREE region. -/
def Window.free : Window :=
  { state := 0, flt := false, sn := 0, sm := 0, offset := 0, bytes := 0, rowlen := 0, stride := 0, src := 0, chunks := 0
    starter := 0, uid := 0, job := 0, event := none, stopped := [], held := [], bound := 0 }

/-- A slice set (R250): its count, its descriptor words, its members by team in the order in which they joined, and the member
indices whose shares the first of them fetches as well. -/
structure SliceSet where
  n : Nat
  desc : List Nat
  teams : List Nat
  members : List Nat
  deriving DecidableEq, Repr

/-- A team (R245, R275): launch, core, identifiers, the cohort's name and its member index, how many teams its cohort has,
its scratchpad and the words of it that are poisoned (R371), its region table, and its groups that have not retired. -/
structure Team where
  launch : Nat
  part : Nat
  core : Nat
  cohort : Nat
  member : Nat
  teams : Nat
  /-- Where its block starts in the core's scratchpad. -/
  base : Nat
  size : Nat
  pad : Memory
  poison : List Nat
  regions : Tab Window
  alive : Nat
  /-- Arrivals of the current phase of each scratchpad barrier: its offset and the group's name (R256). -/
  arrivals : List (Nat × Nat)
  deriving DecidableEq, Repr

/-- A core (R18). -/
structure Core where
  /-- Cycle until which each sub-core's vector datapath is occupied (R39). -/
  busy : Tab Nat
  /-- Cycle in which each sub-core last issued an instruction (R38). -/
  last : Tab Nat
  /-- Register words that hold an error, by row and lane as one number (R61): true where two bits are wrong. Rows 0-6143
  are the vector rows (sub-core × 768 + row), row 6144 + slot × 384 + n is Sn of a slot. -/
  bad : Tab Bool
  /-- The corrected-error count (R61). -/
  corrected : Nat
  /-- Cycle of the scrubber's last sweep over the words with errors (R62). -/
  swept : Nat
  /-- L1 lines (R20), by line number. -/
  l1 : Tab (List Byte)
  /-- The combine buffer, oldest entry first (R153). -/
  cb : List CbEnt
  /-- Leaves of the TLB, newest first (R295). -/
  tlb : List Leaf
  /-- The 32 physical tiles that are not clear and free (R172). -/
  tiles : Tab Tile
  /-- The note buffer: notes by name, in arrival order (R266, R267). -/
  notes : List Nat
  deriving DecidableEq, Repr

/-- An empty core. -/
def Core.empty : Core :=
  { busy := [], last := [], bad := [], corrected := 0, swept := 0, l1 := [], cb := [], tlb := [], tiles := [], notes := [] }

/-- A matrix job (R174, R307): KIND as in a job record (1 MMA, 2 MLDACC, 3 MDRAINQ, 4 MDRAIN, 5 MSTAT, 6 MRPROG, 7 MZERO);
its group and team; the tile's name and the physical tile (none while its group is saved); SHAPE or format; queue, half, destination
register; flag; the format block or stride as captured (R175); addresses; rows applied or written; whether its turn has
read the tile, and what it read (R185); the fault event it is stopped at. -/
structure MJob where
  kind : Nat
  gid : Nat
  uid : Nat
  part : Nat
  cls : Nat
  launch : Nat
  team : Nat
  hmode : Bool
  name : Nat
  tile : Option Nat
  shape : Nat
  queue : Nat
  half : Bool
  dest : Nat
  flag : Option Nat
  fb : List Nat
  a : Nat
  b : Nat
  row : Nat
  begun : Bool
  kept : Tab Nat
  keptMode : Nat
  event : Option Nat
  /-- B's columns with their scale bytes, once fetched (R180). -/
  cols : Option (List Byte) := none
  /-- Scratchpad lines (offset, length) that it has touched, each with the regions whose chunks it awaits and those of which a WBIND of its
  group must take effect first, as masks: a later binding does not hold it (R165, R270). -/
  seen : List ((Nat × Nat) × Nat × Nat) := []
  deriving DecidableEq, Repr

/-- A Churn job (R169, R170): kind 0 fill, 1 copy, 2 compare, 3 reduce; the granules of its first range done; the granules of its
second range asked of another engine, and those got, by number; the lowest difference found; the bytes of the first range read, by
granule; its SO clock (R251); the fault event it is parked at. -/
structure Churn where
  kind : Nat
  gid : Nat
  uid : Nat
  part : Nat
  cls : Nat
  launch : Nat
  hmode : Bool
  a : Nat
  b : Nat
  count : Nat
  word : Nat
  ty : Nat
  op : Nat
  done : List Nat
  asked : List Nat
  got : Tab (List Byte)
  diff : Option Nat
  vals : Tab (List Byte)
  pts : Nat
  event : Option Nat
  deriving DecidableEq, Repr

/-- A note on its way (R197, R198): the sender, its flag, the pass, index, W64, REL, uniform or vector, the lanes and the
values by lane (low and high word), where it stands: 0 held by REL or behind one that is, 1 sent, 2 in the target core's
note buffer, 3 held at the sending chiplet for a full buffer (R267), 4 applied and not yet answered; and its place in
arrival order. -/
structure Note where
  gid : Nat
  uid : Nat
  part : Nat
  flag : Option Nat
  pass : DWord
  index : Nat
  w64 : Bool
  rel : Bool
  uniform : Bool
  lanes : LaneMask
  vals : List DWord
  stage : Nat
  /-- Address of word 0 of its instruction, and the format words (R312). -/
  pc : Nat
  iw : List Word
  deriving DecidableEq, Repr

/-- A LAUNCH that waits for quota, or a JOIN that waits for its child (R209, R210): which, the group and fragment, the
block's address or the child's key among launches. -/
structure Work where
  join : Bool
  gid : Nat
  uid : Nat
  frag : Nat
  part : Nat
  arg : Nat
  /-- Quota has returned to a LAUNCH.w, and its fragment is to issue it again (R210). -/
  go : Bool
  deriving DecidableEq, Repr

/-- A collective job at this device (R211, R358): its descriptor, the communicator's sequence number it took, the
contributions that have come, by rank, and the pieces of those that have come in part; whether it has told the others that it accepted every
contribution, and the ranks that have told so (R357); the status it must end with, and the fault event it is parked at. -/
structure Coll where
  kind : Nat
  gid : Nat
  uid : Nat
  part : Nat
  cls : Nat
  launch : Nat
  hmode : Bool
  src : Nat
  dst : Nat
  count : Nat
  ty : Nat
  op : Nat
  comm : Nat
  seq : Nat
  topv : Nat
  sent : Bool
  got : Tab (List Byte)
  pieces : Tab (List Byte) := []
  told : Bool := false
  oks : List Nat := []
  status : Option Nat
  event : Option Nat
  deriving DecidableEq, Repr

/-- A tapped event (R337): source, partition (none: the event belongs to no partition), and E0 to E7. -/
structure PrEvent where
  src : Nat
  part : Option Nat
  e : List Word
  deriving DecidableEq, Repr

/-- An attached program (R329, R330, R332). -/
structure PrAtt where
  part : Nat
  slot : Nat
  src : Nat
  armed : Bool
  /-- Matching events counted (R333). -/
  count : Nat
  samp : Nat
  seeds : List Word
  code : List Word
  /-- Scratch size in words, and its words (zero where not written). -/
  size : Nat
  scratch : Tab Word
  /-- A SNAP copy is still being written (R340). -/
  snapBusy : Bool
  /-- Events that were in the FIFO before it was attached, and are not for it (R332). -/
  skip : Nat
  /-- Detached while an invocation runs, which finishes (R332). -/
  leaving : Bool
  deriving DecidableEq, Repr

/-- A running invocation (R333, R334): the attachment, the next instruction, W0 to W15, the event, and the Timetable round to
which its cost is charged. -/
structure PrRun where
  att : Nat
  pc : Nat
  w : Tab Word
  ev : PrEvent
  round : Nat
  deriving DecidableEq, Repr

/-- A store of EMIT or SNAP waiting in a store buffer (R336): its partition, address and bytes, and for a SNAP the
attachment whose copy it is. -/
structure PrStore where
  part : Nat
  pa : Nat
  data : List Byte
  snap : Option Nat
  deriving DecidableEq, Repr

/-- A Proctor (R329). Attachments are keyed by partition × 16 + slot. -/
structure Proctor where
  fifo : List PrEvent
  atts : Tab PrAtt
  /-- Budget used in this round by partition (R334). -/
  used : Tab Nat
  /-- The event being handled, and the attachments it has still to run (R333). -/
  cur : Option (PrEvent × List Nat)
  run : Option PrRun
  stores : List PrStore
  deriving DecidableEq, Repr

/-- A Proctor with nothing attached. -/
def Proctor.empty : Proctor := { fifo := [], atts := [], used := [], cur := none, run := none, stores := [] }

/-- A Journal entry with its block copy (R359). `state`: 0 FREE, 1 ACCEPTED, 2 STARTED, 3 COMPLETED, 4 ABORTED; `fin` is
END; `origin` is true for LAUNCH. -/
structure JEntry where
  jseq : Nat
  state : Nat
  replay : Bool
  origin : Bool
  code : Nat
  fin : Nat
  ver : Nat
  subseq : Nat
  parent : Nat
  block : Nat
  tstart : Nat
  tend : Nat
  runs : Nat
  blk : List Byte
  /-- The grants of the acceptance, which a replay keeps (R279): the model's own beside the layout of R359. -/
  grant : Nat
  deriving DecidableEq, Repr

/-- A copy of a Journal entry in a mirror, with its CHECK (R359, R361). -/
structure JCopy where
  entry : JEntry
  check : Nat
  deriving DecidableEq, Repr

/-- A launch that has not ended (R273, R279, R284), by Journal sequence number × 32 + partition: its block's fields, its
grants, the next team or cohort to place, how many teams are placed, the groups that live, whether it has started, the
end it has come to and its code (R360), when it last placed or retired a group (R364). -/
structure Launch where
  part : Nat
  jseq : Nat
  parent : Nat
  /-- The launches it descends from, nearest first, by JSEQ (R210). -/
  ancestors : List Nat
  code : Nat
  params : Nat
  trap : Nat
  vregs : Nat
  team : Nat
  tiles : Nat
  prio : Nat
  cls : Nat
  replay : Bool
  cohort : Nat
  grid : Nat
  scratch : Nat
  dbgen : Bool
  fsvc : Bool
  next : Nat
  live : Nat
  started : Bool
  fin : Nat
  fcode : Nat
  moved : Nat
  /-- Cycles since `moved` while all of its groups were saved, which the watchdog does not count (R364). -/
  savedFor : Nat
  deriving DecidableEq, Repr

/-- An allow-list entry (R278, R279). -/
structure Allow where
  base : Nat
  lim : Nat
  grant : Nat
  deriving DecidableEq, Repr

/-- An unused entry. -/
def Allow.empty : Allow := { base := 0, lim := 0, grant := 0 }

/-- The front end of a partition (R278, R279, R282, R291, R304, R331, R362). -/
structure Fe where
  /-- FE_CTL EN and ERR, FE_CORES, FE_HCOLOUR, FE_WAYIDX, FE_RINGVA, FE_ALLOWIDX and the allow list (R278, R279). -/
  en : Bool
  err : Bool
  cores : Nat
  hcolour : Nat
  wayidx : Nat
  ringva : Nat
  allowidx : Nat
  allow : Tab Allow
  /-- FE_SUBMIT_LO, FE_SUBMIT_STAT (R282), and commits held during a partition reset (R364): pointer and SEQ. -/
  submitLo : Nat
  last : Nat
  status : Nat
  submits : List (Nat × Nat)
  /-- The placement pointer (R276), and cores without room that compaction could help (R277). -/
  pointer : Nat
  /-- The number of the partition key that the random source drew (R195), and the next cycle-report SEQ (R262). -/
  key : Nat
  cycleSeq : Nat
  /-- FE_CTXPA, FE_SLICE, FE_PREEMPT_STAT (R304), and the saved groups in the order of their saves (R305). -/
  ctxpa : Nat
  slice : Nat
  preemptBad : Bool
  saveOrder : List Nat
  restores : List Nat
  /-- FE_PRPROG, FE_PRSTAT, FE_PRBUDGET, FE_PRSKIP low and high halves, FE_PRDROP, FE_PROUT, FE_PROUTTAIL, FE_PROUTHEAD,
  FE_PRSNAP, FE_PRIRQ (R331). -/
  prprog : Nat
  prstat : Nat
  prbudget : Nat
  prskip : Nat
  prdropped : Nat
  prdrop : Nat
  prout : Nat
  prouttail : Nat
  prouthead : Nat
  prsnap : Nat
  prirq : Nat
  /-- When the Proctor interrupt was last raised: those of one cc merge (R340, log 87). -/
  prirqAt : Option Nat
  /-- FE_PRBUDGET as it stood at the start of the Timetable round (R334). -/
  prround : Nat
  /-- FE_PTROOT, FE_PAWIN, FE_FQPA, FE_FQTAIL, FE_FQHEAD, FE_FRSTAT, FE_TLBINV_VA, FE_TLBINV_STAT (R291). -/
  ptroot : Nat
  pawin : Nat
  fqpa : Nat
  fqtail : Nat
  fqhead : Nat
  frstat : Nat
  tlbinvVa : Nat
  tlbinvBusy : Bool
  /-- The address and extent of the invalidation under way, and the operations and engine jobs that it waits for (R298). -/
  tlbinvAt : Nat
  tlbinvExt : Nat
  tlbinvOps : List Nat
  /-- The last SEQ taken (R301), and entries waiting to be written into a full queue (R302). -/
  faultSeq : Nat
  fqWaiting : List (List Byte)
  /-- The name of the entry written last, while its probes are not all answered (R301). -/
  fqJob : Option Nat
  /-- FE_RSTAT, FE_WDCTL, FE_JNLHEAD, FE_JNLTAIL, FE_JNLIDX (R362). -/
  rst : Bool
  rcause : Nat
  resets : Nat
  wdctl : Bool
  jnlhead : Nat
  jnltail : Nat
  jnlidx : Nat
  /-- The Journal: entries held by JSEQ, VER by index, the two mirrors by index, which of them are in service, and the
  entries whose latest change is not yet durable (R359 to R361). -/
  jnl : Tab JEntry
  vers : Tab Nat
  mir0 : Tab JCopy
  mir1 : Tab JCopy
  serve0 : Bool
  serve1 : Bool
  notDurable : List Nat
  /-- The entries as a host reads them: each as its latest durable change left it (R360). -/
  shown : Tab JEntry
  /-- Recovery after a device reset has still to run, at the first EN (R365, R367). -/
  recover : Bool
  deriving DecidableEq, Repr

/-- A front end after reset. -/
def Fe.empty : Fe :=
  { en := false, err := false, cores := 0, hcolour := 0, wayidx := 0, ringva := 0, allowidx := 0, allow := []
    submitLo := 0, last := 0, status := 0, submits := [], pointer := 0, key := 0, cycleSeq := 0
    ctxpa := 0, slice := 0, preemptBad := false, saveOrder := [], restores := []
    prprog := 0, prstat := 0, prbudget := 0, prskip := 0, prdropped := 0, prdrop := 0, prout := 0, prouttail := 0
    prouthead := 0, prsnap := 0, prirq := 0, prirqAt := none, prround := 0
    ptroot := 0, pawin := 0, fqpa := 0, fqtail := 0, fqhead := 0, frstat := 0, tlbinvVa := 0, tlbinvBusy := false
    tlbinvAt := 0, tlbinvExt := 0, tlbinvOps := [], faultSeq := 0, fqWaiting := [], fqJob := none
    rst := false, rcause := 0, resets := 0, wdctl := true, jnlhead := 1, jnltail := 1, jnlidx := 0
    jnl := [], vers := [], mir0 := [], mir1 := [], serve0 := true, serve1 := true, notDurable := [], shown := []
    recover := false }

/-- A virtual function's mailbox and map entry (R280, R281). -/
structure Vf where
  map : Nat
  fifo : List Nat
  dropped : Nat
  deriving DecidableEq, Repr

/-- A virtual function after reset. -/
def Vf.empty : Vf := { map := 0, fifo := [], dropped := 0 }

/-- A flip under way (R321, R322): its page, whether it goes to host bias, and the compute chiplets whose FLUSHDONE and
whose invalidation acknowledgement have reached each memory chiplet (chiplet × 16 + memory chiplet). -/
structure Flip where
  page : Nat
  toHost : Bool
  done : List Nat
  inv : List Nat
  deriving DecidableEq, Repr

/-- The host port (R319, R239, R324). -/
structure HostPort where
  sobase : Nat
  solim : Nat
  biaspa : Nat
  result : Nat
  ign : Bool
  flips : Nat
  poisonCnt : Nat
  poisonPa : Nat
  pts : Nat
  flip : Option Flip
  /-- Host lines with a filter entry (R324), least recently used first, and sectors lost with a chiplet (R327). -/
  filter : List Nat
  lost : List Nat
  deriving DecidableEq, Repr

/-- The host port after reset (the clock: log 4). -/
def HostPort.empty : HostPort :=
  { sobase := 0, solim := 0, biaspa := 0, result := 0, ign := false, flips := 0, poisonCnt := 0, poisonPa := 0, pts := 0
    flip := none, filter := [], lost := [] }

/-- An Ednan port (R354, R355): state 0 DOWN, 1 TRAIN, 2 HOLD, 3 RUN; EN; retrains; the last retrain's duration; the
partner, and whether it has had one; flits given to it that wait, its replay buffer, the link sequence numbers of the next flit that it sends and
of the next that it takes (R353); flits received and not yet taken; whether it has entered HOLD since the latest TOPV commit. -/
structure EdPort where
  st : Nat
  en : Bool
  retrains : Nat
  dur : Nat
  partner : Nat
  known : Bool
  queue : List Packet
  sent : List Packet := []
  lseq : Nat := 0
  rseq : Nat := 0
  inq : List Packet
  owes : Bool := false
  deriving DecidableEq, Repr

/-- A port after reset. -/
def EdPort.empty : EdPort := { st := 0, en := true, retrains := 0, dur := 0, partner := 0, known := false, queue := [], inq := [] }

/-- A communicator (R358): CM_CFG, CM_SEQ, its ranks' devices, the packets that came before the COLL they belong to, and the sequence numbers of the
collectives that ended here with a mismatch. -/
structure Comm where
  cfg : Nat
  seq : Nat
  ranks : Tab Nat
  early : List Packet
  diff : List Nat := []
  deriving DecidableEq, Repr

/-- A communicator never configured. -/
def Comm.empty : Comm := { cfg := 0, seq := 0, ranks := [], early := [] }

/-- The Ednan fabric and the collective engines (R355, R358). -/
structure Ednan where
  ports : Tab EdPort
  devid : Nat
  rtidx : Nat
  active : Tab Nat
  staged : Tab Nat
  topvStage : Nat
  topvErr : Bool
  stale : Nat
  cmIdx : Nat
  cmMapidx : Nat
  cmErr : Bool
  comms : Tab Comm
  deriving DecidableEq, Repr

/-- The fabric after reset. -/
def Ednan.empty : Ednan :=
  { ports := [], devid := 0, rtidx := 0, active := [], staged := [], topvStage := 0, topvErr := false, stale := 0
    cmIdx := 0, cmMapidx := 0, cmErr := false, comms := [] }

/-- A verified firmware image (R372): its SHA-512 digest and its security version. -/
structure FwImage where
  digest : Nat
  version : Nat
  deriving DecidableEq, Repr

/-- The management controller (R376). `nonceNow` is the nonce of the attestation under way (R374). -/
structure Mgmt where
  bootstat : Nat
  errlog : Nat
  pwrcap : Nat
  power : Nat
  nonce : Nat
  nonceNow : Nat
  attBusy : Bool
  attDone : Bool
  attbuf : List Byte
  /-- Every waveguide plane has trained (R367). -/
  trained : Bool
  /-- Compute chiplets that have failed, and memory chiplets whose mirrors have (R366). -/
  failed : List Nat
  /-- The images that run, verified, and the fused minimum of each image's security version (R372). -/
  images : List FwImage
  fuses : Tab Nat
  /-- Cycle in which the power limit or the junction limit was last reached (R375). -/
  limitAt : Nat
  deriving DecidableEq, Repr

/-- The management controller after reset. -/
def Mgmt.empty : Mgmt :=
  { bootstat := 0, errlog := 0, pwrcap := 2600, power := 0, nonce := 0, nonceNow := 0, attBusy := false
    attDone := false, attbuf := [], trained := false, failed := [], images := [], fuses := []
    limitAt := 0 }

/-- What the device has sent to the host and no other state shows. -/
inductive Out where
  /-- Interrupts: fault (R301), Proctor (R340), mailbox (R280), with the unit. -/
  | irq (kind unit : Nat)
  /-- The answer to a host read or request: the bytes, whether caching is granted (0 none, 1 shared, 2 owned), poison. -/
  | data (pa : Nat) (bytes : List Byte) (grant : Nat) (poison : Bool)
  /-- A snoop's answer: whether a copy was found, data if the sector was modified, and poison (R326, R327). -/
  | snoop (line half : Nat) (hit : Bool) (bytes : Option (List Byte)) (poison : Bool)
  /-- A device error is logged: a pair of the Separator is DOWN, by source and destination port (R350). -/
  | deviceError (i j : Nat)
  /-- A pointer taken from a mailbox (R280). -/
  | mailbox (vf ptr : Nat)
  deriving DecidableEq, Repr

/-- What takes its step next (the model's own: R38 and 95_what_each_step_holds.md leave the order of the device's steps
open, log 2). -/
inductive Action where
  /-- The fragment issues its next instruction, or enters its clause. -/
  | issue (core slot frag : Nat)
  /-- A step of the device or the host. -/
  | event (i : Instr)
  /-- A Proctor executes the next instruction of its invocation. -/
  | proctor (port : Nat)
  /-- CLOCK advances. -/
  | wait (cycles : Nat)
  /-- A register word gets one or two wrong bits (R61): core, row, lane. -/
  | softError (core row lane : Nat) (double : Bool)
  deriving DecidableEq, Repr

/-- The state of the device. -/
structure State where
  /-- CLOCK: cycles since device reset (R50). -/
  clock : Nat
  /-- The model's own: what takes its step next. -/
  agenda : List Action
  /-- The model's own: the fragment that issues, as group key (core × 128 + slot) and split-table index. -/
  cur : Option (Nat × Nat)
  /-- The model's own: the Proctor whose instruction executes, by port. -/
  curPr : Option Nat
  /-- The model's own: names of operations. -/
  nextOp : Nat
  /-- The model's own: how many free values have been used (log 10). -/
  freeCtr : Nat
  /-- TOPV: the current topology version (R50). -/
  topv : Nat
  /-- Groups by core × 128 + slot (R219). -/
  groups : Tab Group
  cores : Tab Core
  /-- Device memory, and host memory from PA 2^51 (R290). -/
  mem : Memory
  /-- Home lines by line number (R230, R231). -/
  hlines : Tab HomeLine
  /-- Applications whose probes are not all answered (R231). -/
  hwaits : List HomeWait
  /-- Postings sent and not yet acknowledged, by name (R153). -/
  postings : Tab Posting
  /-- Operations of groups in flight, by name. -/
  ops : Tab Op
  chips : Tab Chip
  /-- Home slices by global slice number (R15), and what is counted at the memory port of chiplet MCn at 1,280 + n (R288, log 81). -/
  slices : Tab Slice
  tt : Timetable
  /-- 4 KiB pages of device memory in host bias (R320). -/
  bias : List Nat
  /-- Teams by name, and open slice sets by cohort × 64 + region. -/
  teams : Tab Team
  sliceSets : Tab SliceSet
  /-- Directed pairs of the Separator, by 34 × i + j (R13, R347). -/
  pairs : Tab Pair
  /-- Fault events not yet resumed, by name (R300). -/
  events : Tab FaultEvent
  /-- Fault events that are resumed, while a partition's 4,096 most recent SEQs name them (R303). -/
  past : List PastEvent
  /-- Launches that have not ended, by JSEQ × 32 + partition. -/
  launches : Tab Launch
  proctors : Tab Proctor
  fes : Tab Fe
  /-- Matrix jobs, Churn jobs, notes, waiting LAUNCHes and JOINs, collective jobs, by name. -/
  mjobs : Tab MJob
  churns : Tab Churn
  notes : Tab Note
  works : Tab Work
  colls : Tab Coll
  /-- GEN and CGEN of each group slot (R195, R308), by core × 128 + slot. -/
  gens : Tab Nat
  cgens : Tab Nat
  /-- Leaves of the micro-TLBs (core × 4 + engine) and of the engine TLBs (1024 + port) (R295). -/
  etlbs : Tab (List Leaf)
  /-- Virtual functions (R280, R281). -/
  vfs : Tab Vf
  hp : HostPort
  ed : Ednan
  mg : Mgmt
  /-- What has been sent to the host (the model's own). -/
  outs : List Out
  deriving DecidableEq, Repr

/-- Why the machine stops. -/
inductive Fault where
  /-- Raised by every program instruction when `cur` names no live fragment, and by every Proctor instruction when `curPr`
  names no Proctor with a running invocation. No run of `step` from reset raises it; a claim about
  `exec` alone can meet it. Safe: the device has no such situation. -/
  | noIssuer
  deriving DecidableEq, Repr

/-- Why the model gives no meaning. -/
inductive Refusal where
  /-- Raised by an arm of `exec` that has no meaning yet. Safe: nothing can be proved of such a step. -/
  | notModelled (mnemonic : String)
  deriving DecidableEq, Repr

/-- The state right after device reset. -/
def State.reset : State where
  clock := 0
  agenda := []
  cur := none
  curPr := none
  nextOp := 0
  freeCtr := 0
  topv := 0
  groups := []
  cores := []
  mem := []
  hlines := []
  hwaits := []
  postings := []
  ops := []
  chips := []
  slices := []
  tt := Timetable.empty
  bias := []
  teams := []
  sliceSets := []
  pairs := []
  events := []
  past := []
  launches := []
  proctors := []
  fes := []
  mjobs := []
  churns := []
  notes := []
  works := []
  colls := []
  gens := []
  cgens := []
  etlbs := []
  vfs := []
  hp := HostPort.empty
  ed := Ednan.empty
  mg := Mgmt.empty
  outs := []

end Sys2Proof.Machine
end

