-- ==== Sys2Proof/Machine/Operands.lean ====
section
/-! DEFINITION. Operand selectors (R55), their values (R46 to R57, R377), what each kind of operand admits (R48, R112,
R130, R135) and the operand checks in the order of R60. -/

namespace Sys2Proof.Machine

/-- Operand types (R72, R112). -/
inductive OpTy where
  | i32 | n32 | i64 | n64 | f32 | f64 | f16x2 | bf16x2
  deriving DecidableEq, Repr

/-- Whether an operand of the type is an even-aligned pair (R48, R112). -/
def OpTy.wide : OpTy → Bool
  | .i64 => true
  | .n64 => true
  | .f64 => true
  | _ => false

/-- The type width in bits. -/
def OpTy.w (t : OpTy) : Nat := if t.wide then 64 else 32

/-- Integer type codes (R72): 0 I32, 1 N32, 2 I64, 3 N64. -/
def intTy (n : Nat) : OpTy :=
  match n with
  | 0 => .i32
  | 1 => .n32
  | 2 => .i64
  | _ => .n64

/-- Float type codes (R72): 0 F32, 1 F64, 2 F16x2, 3 BF16x2. -/
def fltTy (n : Nat) : OpTy :=
  match n with
  | 0 => .f32
  | 1 => .f64
  | 2 => .f16x2
  | _ => .bf16x2

/-- What a selector names (R55). `imm` is the immediate of a short form, already extended to 32 bits. -/
inductive Sel where
  | v (n : Nat)
  | s (n : Nat)
  | const (c : Nat)
  | latch (n : Nat)
  | exec | flags | laneid | gslot | teamid | cohid | core | clock | prio | topv | cfcnt
  | null
  | q (n : Nat)
  | lit
  | imm (x : Word)
  | reserved
  deriving DecidableEq, Repr

/-- The sel10 map (R55). -/
def sel10 (x : BitVec 10) : Sel :=
  let n := x.toNat
  if n ≤ 127 then .v n
  else if n ≤ 511 then .s (n - 128)
  else if n ≤ 543 then .const (n - 512)
  else if 800 ≤ n && n ≤ 815 then .q (n - 800)
  else match n with
    | 768 => .latch 0
    | 769 => .latch 1
    | 770 => .latch 2
    | 771 => .exec
    | 772 => .flags
    | 773 => .laneid
    | 774 => .gslot
    | 775 => .teamid
    | 776 => .cohid
    | 777 => .core
    | 778 => .clock
    | 779 => .prio
    | 780 => .topv
    | 781 => .cfcnt
    | 1022 => .null
    | 1023 => .lit
    | _ => .reserved

/-- The sel8 map (R55). -/
def sel8 (x : BitVec 8) : Sel :=
  let n := x.toNat
  if n ≤ 127 then .v n
  else if n ≤ 191 then .s (n - 128)
  else if n ≤ 223 then .const (n - 192)
  else if 232 ≤ n && n ≤ 247 then .q (n - 232)
  else match n with
    | 224 => .latch 0
    | 225 => .latch 1
    | 226 => .latch 2
    | 227 => .exec
    | 228 => .flags
    | 229 => .laneid
    | 230 => .null
    | _ => .reserved

/-- The usel9 map (R55). -/
def usel9 (x : BitVec 9) : Sel :=
  let n := x.toNat
  if n ≤ 383 then .s n
  else if n ≤ 415 then .const (n - 384)
  else match n with
    | 416 => .exec
    | 417 => .flags
    | 418 => .null
    | _ => .reserved

/-- An arithmetic instruction with its selectors resolved: the common view of the long form and its short forms (R66). -/
structure AluI where
  d : Sel
  a : Sel
  b : Sel
  c : Sel
  m : Nat
  hold : Nat
  fs : Bool
  lit : Option Word
  sp : Option Word
  /-- Words it occupies, literal and live-mask words included (R64). -/
  len : Nat
  deriving DecidableEq, Repr

/-- Words of a tail: literal and live-mask (R64). -/
def tailLen (lit sp : Option Word) : Nat := bitOf lit.isSome + bitOf sp.isSome

/-- The view of a long instruction (R67). -/
def lgView (f : Lg) : AluI :=
  { d := sel10 f.d, a := sel10 f.a, b := sel10 f.b, c := sel10 f.c, m := f.mod.toNat, hold := f.hold.toNat, fs := f.fs,
    lit := f.lit, sp := f.sp, len := 2 + tailLen f.lit f.sp }

/-- The view of a VS3 word as its long form (R66): type I32 or F32, no modifier, no HOLD. -/
def vs3View (f : Vs3) : AluI :=
  { d := sel8 f.d, a := sel8 f.a, b := sel8 f.b, c := .null, m := 0, hold := 0, fs := false, lit := none, sp := f.sp,
    len := 1 + tailLen none f.sp }

/-- VFMAC: VFMA D, A, B, D (R66). -/
def macView (f : Vs3) : AluI := { vs3View f with c := sel8 f.d }

/-- The view of a VS2I word: B is simm8 sign-extended (R66). -/
def vs2iView (f : Vs2i) : AluI :=
  { d := sel8 f.d, a := sel8 f.a, b := .imm (f.imm.signExtend 32), c := .null, m := 0, hold := 0, fs := false,
    lit := none, sp := f.sp, len := 1 + tailLen none f.sp }

/-- The view of a US word: B is simm6 sign-extended (R66). -/
def usView (f : Us) : AluI :=
  { d := usel9 f.d, a := usel9 f.a, b := .imm (f.imm.signExtend 32), c := .null, m := 0, hold := 0, fs := false,
    lit := none, sp := f.sp, len := 1 + tailLen none f.sp }

/-- The view of a USI word: A is simm15 sign-extended (R66). -/
def usiView (f : Usi) : AluI :=
  { d := usel9 f.d, a := .imm (f.imm.signExtend 32), b := .null, c := .null, m := 0, hold := 0, fs := false,
    lit := none, sp := f.sp, len := 1 + tailLen none f.sp }

/-- The issuing fragment: group key, split-table index, and their records. -/
structure Ctx where
  gid : Nat
  fi : Nat
  g : Group
  f : Frag
  deriving DecidableEq, Repr

/-- The core of a group key (R12). -/
def coreOf (gid : Nat) : Nat := gid / 128

/-- The slot of a group key. -/
def slotOf (gid : Nat) : Nat := gid % 128

/-- The compute chiplet of a core (R12). -/
def chipOfCore (core : Nat) : Nat := core / 8

/-- Key of a register: V n is n, S n is 128 + n, as sel10 numbers them (R55). -/
def keyV (n : Nat) : Nat := n

/-- Key of an S register. -/
def keyS (n : Nat) : Nat := 128 + n

/-- The rows of a V register (R46); a register never written reads as zero (R47). -/
def Group.vrow (g : Group) (n : Nat) : List Word := Tab.getD g.v n []

/-- One lane of a V register. -/
def Group.vlane (g : Group) (n l : Nat) : Word := nth (g.vrow n) l 0

/-- An S register. -/
def Group.sreg (g : Group) (n : Nat) : Word := Tab.getD g.s n 0

/-- An S pair (R46). -/
def Group.spair (g : Group) (n : Nat) : DWord := pairOf (g.sreg n) (g.sreg (n + 1))

/-- FLAGS as a fragment reads it (R51). -/
def flagsValue (g : Group) (f : Frag) : Nat := bitOf f.scc + 2 * bitOf f.carry + g.sticky

/-- The float patterns of the inline constants 24 to 31 (R57): exponent offset and sign. -/
def constFloat (t : FpFmt) (c : Nat) : Nat :=
  let k := c - 24
  (t.bias - 1 + k / 2) * 2 ^ t.mb + (if k % 2 = 1 then t.signW else 0)

/-- The value of an inline constant in an operand of a type (R57). -/
def constValue (t : OpTy) (c : Nat) : Nat :=
  if c ≤ 16 then c
  else if c ≤ 23 then wrap t.w (16 - (c : Int))
  else match t with
    | .f16x2 => constFloat f16 c * (1 + 2 ^ 16)
    | .bf16x2 => constFloat bf16 c * (1 + 2 ^ 16)
    | t => if t.wide then constFloat f64 c else constFloat f32 c

/-- A 32-bit literal, or a 32-bit latch, in an operand of a type (R56, R377). -/
def widenWord (t : OpTy) (x : Word) : Nat :=
  match t with
  | .i64 => (x.signExtend 64).toNat
  | .n64 => x.toNat
  | .f64 => x.toNat * 2 ^ 32
  | _ => x.toNat

/-- A latch's value in a lane, read at a type (R41, R130, R377). -/
def latchValue (t : OpTy) (x : Latch) (l : Nat) : Nat :=
  let y := nth x.vals (if x.uniform then 0 else l) 0
  if t.wide && !x.wide then widenWord t (loHalf y) else y.toNat % 2 ^ t.w

/-- The words of a queue's head entry (R52). -/
def queueHead (g : Group) (n : Nat) : List Word :=
  match (nth g.queues n []).head? with
  | some q => q.val.getD []
  | none => []

/-- A special register as a number (R50). -/
def specialValue (s : State) (x : Ctx) : Sel → Nat
  | .exec => x.f.exec.toNat
  | .flags => flagsValue x.g x.f
  | .gslot => slotOf x.gid
  | .teamid => x.g.teamid.toNat
  | .cohid => x.g.cohid.toNat
  | .core => coreOf x.gid
  | .clock => s.clock % 2 ^ 64
  | .prio => x.g.eprio % 16 + x.g.bprio % 16 * 16
  | .topv => s.topv % 2 ^ 16
  | .cfcnt =>
    ((List.range 12).foldl (fun acc n => if nth x.g.fcnt n 0 = 0 then acc else acc + 2 ^ n) 0) +
      (x.g.fcnt.foldl (· + ·) 0) * 2 ^ 12
  | _ => 0

/-- The value of a source in lane `l`, read at a type (R46 to R57, R377). A 32-bit special register or entry of Q0 to Q3 read at 64 bits is
zero-extended, and an entry of Q4 to Q6 read at 32 bits gives its low half (DESIGN CHOICE, log 76). -/
def readSel (s : State) (x : Ctx) (lit : Option Word) (t : OpTy) (sel : Sel) (l : Nat) : Nat :=
  match sel with
  | .v n => if t.wide then (pairOf (x.g.vlane n l) (x.g.vlane (n + 1) l)).toNat else (x.g.vlane n l).toNat
  | .s n => if t.wide then (x.g.spair n).toNat else (x.g.sreg n).toNat
  | .const c => constValue t c
  | .latch n =>
    match Tab.get? x.f.latches n with
    | some y => latchValue t y l
    | none => 0
  | .laneid => l
  | .null => 0
  | .q n => if n ≤ 3 then (nth (queueHead x.g n) l 0).toNat
            else (pairOf (nth (queueHead x.g n) 0 0) (nth (queueHead x.g n) 1 0)).toNat % 2 ^ t.w
  | .lit => widenWord t (lit.getD 0)
  | .imm y => y.toNat
  | .reserved => 0
  | y => specialValue s x y % 2 ^ t.w

/-- The fields an operand stands in. -/
inductive Fld where
  | d | a | b | c
  deriving DecidableEq, Repr

/-- What an operand of an entry may be and how it is used. -/
inductive Kind where
  /-- A vector-class source of a type (R49, R112). -/
  | src (t : OpTy)
  /-- A uniform source of a type (R130, R135). -/
  | uni (t : OpTy)
  /-- An even S register, read as a pair; `null` where NULL is also allowed. -/
  | spair (null : Bool)
  /-- An S register, read at 32 bits. -/
  | sreg
  /-- An even S register named and not read, or read by the entry itself. -/
  | sbase (align : Nat)
  /-- A V register number that is not read (R119). -/
  | vbase (wide : Bool)
  /-- A vector destination (R48, R112); `rd` where its old value is a source. -/
  | dstV (t : OpTy) (rd : Bool)
  /-- A uniform destination of UALU (R130); `rd` where its old value is a source. -/
  | dstU (t : OpTy) (rd : Bool)
  /-- A uniform destination pair of an instruction of a 32-bit type (SLEA, R133), which may not be EXEC (R50). -/
  | dstP
  /-- An S destination, a pair where `wide`; `null` where NULL is allowed. -/
  | dstS (wide null : Bool)
  /-- A V or S destination or NULL (VRED, R136). -/
  | dstVS (t : OpTy)
  deriving DecidableEq, Repr

/-- Whether a kind is read as a source, which HOLD may capture (R72). -/
def Kind.isSource : Kind → Bool
  | .src _ => true
  | .uni _ => true
  | .spair _ => true
  | .sreg => true
  | _ => false

/-- The type at which a kind is read. -/
def Kind.ty : Kind → OpTy
  | .src t => t
  | .uni t => t
  | .spair _ => .n64
  | .sreg => .n32
  | .sbase _ => .n32
  | .vbase wide => if wide then .n64 else .n32
  | .dstV t _ => t
  | .dstU t _ => t
  | .dstP => .n64
  | .dstS wide _ => if wide then .n64 else .n32
  | .dstVS t => t

/-- Whether a kind is uniform: a latch captured by it holds one value (R130, R135). -/
def Kind.isUniform : Kind → Bool
  | .src _ => false
  | .dstV _ _ => false
  | .vbase _ => false
  | _ => true

/-- Registers `n` and, for a pair, `n + 1`. -/
def span (wide : Bool) (n : Nat) : List Nat := if wide then [n, n + 1] else [n]

/-- What an operand asks of the checks of R60. -/
structure Use where
  /-- It takes ILLOPND. -/
  bad : Bool
  /-- V registers it names, tested against VCOUNT. -/
  vs : List Nat
  /-- Register keys it reads, and writes. -/
  rd : List Nat
  wr : List Nat
  latches : List Nat
  qs : List Nat
  /-- How many literal selectors. -/
  lits : Nat
  deriving DecidableEq, Repr

/-- Nothing asked. -/
def Use.none : Use := { bad := false, vs := [], rd := [], wr := [], latches := [], qs := [], lits := 0 }

/-- An operand that takes ILLOPND. -/
def Use.illegal : Use := { Use.none with bad := true }

/-- Both. -/
def Use.and (x y : Use) : Use :=
  { bad := x.bad || y.bad, vs := x.vs ++ y.vs, rd := x.rd ++ y.rd, wr := x.wr ++ y.wr,
    latches := x.latches ++ y.latches, qs := x.qs ++ y.qs, lits := x.lits + y.lits }

/-- A source selector of a type; `uniform` where only uniform operands are allowed. -/
def useSrc (uniform : Bool) (t : OpTy) : Sel → Use
  | .v n => if uniform || (t.wide && n % 2 == 1) then Use.illegal
            else { Use.none with vs := span t.wide n, rd := (span t.wide n).map keyV }
  | .s n => if t.wide && n % 2 == 1 then Use.illegal else { Use.none with rd := (span t.wide n).map keyS }
  | .latch n => { Use.none with latches := [n] }
  | .laneid => if uniform then Use.illegal else Use.none
  | .q n => if 7 ≤ n || (uniform && n ≤ 3) then Use.illegal else { Use.none with qs := [n] }
  | .lit => { Use.none with lits := 1 }
  | .reserved => Use.illegal
  | _ => Use.none

/-- What an operand of a kind asks (R48, R50, R52, R55, R112, R130, R135). -/
def useOf (k : Kind) (sel : Sel) : Use :=
  match k with
  | .src t => useSrc false t sel
  | .uni t => useSrc true t sel
  | .spair null => match sel with
    | .s n => if n % 2 == 1 then Use.illegal else { Use.none with rd := [keyS n, keyS (n + 1)] }
    | .null => if null then Use.none else Use.illegal
    | _ => Use.illegal
  | .sreg => match sel with
    | .s n => { Use.none with rd := [keyS n] }
    | _ => Use.illegal
  | .sbase align => match sel with
    | .s n => if n % align = 0 then Use.none else Use.illegal
    | _ => Use.illegal
  | .vbase wide => match sel with
    | .v n => if wide && n % 2 == 1 then Use.illegal else { Use.none with vs := span wide n }
    | _ => Use.illegal
  | .dstV t rd => match sel with
    | .v n => if t.wide && n % 2 == 1 then Use.illegal
              else { Use.none with vs := span t.wide n, wr := (span t.wide n).map keyV,
                                   rd := if rd then (span t.wide n).map keyV else [] }
    | .null => Use.none
    | _ => Use.illegal
  | .dstU t rd => match sel with
    | .s n => if t.wide && n % 2 == 1 then Use.illegal
              else { Use.none with wr := (span t.wide n).map keyS, rd := if rd then (span t.wide n).map keyS else [] }
    | .exec => if t.wide then Use.none else Use.illegal
    | .flags => Use.none
    | .null => Use.none
    | _ => Use.illegal
  | .dstP => match sel with
    | .s n => if n % 2 == 1 then Use.illegal else { Use.none with wr := [keyS n, keyS (n + 1)] }
    | .flags => Use.none
    | .null => Use.none
    | _ => Use.illegal
  | .dstS wide null => match sel with
    | .s n => if wide && n % 2 == 1 then Use.illegal else { Use.none with wr := (span wide n).map keyS }
    | .null => if null then Use.none else Use.illegal
    | _ => Use.illegal
  | .dstVS t => match sel with
    | .v n => if t.wide && n % 2 == 1 then Use.illegal
              else { Use.none with vs := span t.wide n, wr := (span t.wide n).map keyV }
    | .s n => if t.wide && n % 2 == 1 then Use.illegal else { Use.none with wr := (span t.wide n).map keyS }
    | .null => Use.none
    | _ => Use.illegal

/-- The selector in a field. -/
def AluI.fld (i : AluI) : Fld → Sel
  | .d => i.d
  | .a => i.a
  | .b => i.b
  | .c => i.c

/-- The operands of an entry: field and kind. -/
abbrev Opnds := List (Fld × Kind)

/-- The source field HOLD captures (R41). -/
def holdFld (hold : Nat) : Option Fld :=
  match hold with
  | 0 => none
  | 1 => some .a
  | 2 => some .b
  | _ => some .c

/-- HOLD names a field that the entry reads as a source, or nothing (R72). -/
def holdOk (os : Opnds) (hold : Nat) : Bool :=
  match holdFld hold with
  | none => true
  | some x => os.any fun o => o.1 == x && o.2.isSource

/-- All that the operands of an instruction ask. -/
def usesOf (i : AluI) (os : Opnds) : Use :=
  let u := os.foldl (fun acc o => Use.and acc (useOf o.2 (i.fld o.1))) Use.none
  if holdOk os i.hold then u else { u with bad := true }

/-- The V register or S register number of a key, and the INFO1 of its file (R218). -/
def keyNumber (k : Nat) : Nat := if k < 128 then k else k - 128

/-- The row number under which a register word's errors are kept (R61). -/
def regRow (gid : Nat) (g : Group) (key : Nat) : Nat :=
  if key < 128 then g.subcore * 768 + g.row0 + key else 6144 + slotOf gid * 384 + (key - 128)

/-- The same for the issuing fragment's group. -/
def rowOf (x : Ctx) (key : Nat) : Nat := regRow x.gid x.g key

/-- The lanes of a register that an instruction reads: its active lanes, or the one word of a uniform register (R61). The same words are checked for a
cross-lane read, whatever lanes it selects (DESIGN CHOICE, log 97). -/
def readLanes (x : Ctx) (key : Nat) : List Nat := if key < 128 then lanesOf x.f.exec else [0]

/-- The key of a register word among a core's errors. -/
def badKey (row lane : Nat) : Nat := row * 64 + lane

/-- Keys of words with an error that reading `rd` meets, each once. -/
def badWords (c : Core) (x : Ctx) (rd : List Nat) (double : Bool) : List (Nat × Nat) :=
  rd.eraseDups.flatMap fun k => (readLanes x k).filterMap fun l =>
    if Tab.get? c.bad (badKey (rowOf x k) l) = some double then some (k, badKey (rowOf x k) l) else none

/-- What the checks decide. -/
inductive Gate where
  /-- A precise trap: code, INFO0, INFO1 (R218). -/
  | trap (code info0 info1 : Nat)
  | park (why : Await)
  /-- A corrected single-bit error: the instruction is replayed in the next cycle (R45). -/
  | replay (words : List Nat)
  | go
  deriving DecidableEq, Repr

/-- The least element of a non-empty list. -/
def minOf : List Nat → Nat
  | [] => 0
  | [a] => a
  | a :: t => min a (minOf t)

/-- A latch may be read: it was captured, by this fragment, within the last two instructions, with no safe point since
(R41). A capturing instruction that is itself a safe point ends its own window (DEDUCED, log 12). -/
def latchOk (f : Frag) (n : Nat) : Bool :=
  match Tab.get? f.latches n with
  | some x => x.stamp < f.count + 1 && f.count + 1 ≤ x.stamp + 2 && f.lastSp < x.stamp
  | none => false

/-- A queue has an arrived entry at its head (R53). -/
def queueReady (g : Group) (n : Nat) : Bool :=
  match (nth g.queues n []).head? with
  | some q => q.val.isSome
  | none => false

/-- Parking for a queue, a pending register or an armed empty note register (R42, R53): step 4 of R60. -/
def parkFor (x : Ctx) (u : Use) : Option Await :=
  match u.qs.find? fun n => !queueReady x.g n with
  | some n => some (.queue n)
  | none =>
    let p := (u.rd ++ u.wr).filter fun k => (Tab.get? x.g.pend k).isSome
    if !p.isEmpty then some (.pend p)
    else
      let e := u.rd.filter fun k => Tab.get? x.g.note k = some .empty
      if !e.isEmpty then some (.note e) else none

/-- What errors of the words read decide (R45, R61): `two` are the words with two wrong bits, `one` those with one. -/
def errGate (two one : List (Nat × Nat)) : Gate :=
  match two with
  | (k, _) :: _ => .trap 0x11 (keyNumber k) 0
  | [] => if one.isEmpty then .go else .replay (one.map (·.2))

/-- The operand conditions in the order of R60. -/
def operandGate (s : State) (x : Ctx) (u : Use) : Gate :=
  if u.bad || 2 ≤ u.lits then .trap 0x02 0 0
  else
    let above := u.vs.filter fun n => x.g.vcount ≤ n
    if !above.isEmpty then .trap 0x05 (minOf above) 0
    else if u.latches.any fun n => !latchOk x.f n then .trap 0x06 0 0
    else match parkFor x u with
      | some w => .park w
      | none =>
        let c := Tab.getD s.cores (coreOf x.gid) Core.empty
        errGate (badWords c x u.rd true) (badWords c x u.rd false)

/-- The operands' values are there, words with one wrong bit among them (R61). -/
def Gate.reads : Gate → Bool
  | .go => true
  | .replay _ => true
  | _ => false

/-- The conditions of an instruction one of whose register numbers or ranges is computed from an operand (R60, R119, R194): `v` is what
that operand asks, and `bad` the trap of a computed number out of range. Once the operand can be read, the trap comes before the others
are waited for or read; a word of it with one wrong bit is corrected first, and the instruction is replayed (R61). -/
def computedGate (s : State) (x : Ctx) (u v : Use) (bad : Option Gate) : Gate :=
  let g := operandGate s x u
  match bad with
  | none => g
  | some b =>
    let first := match operandGate s x v with
      | .go => b
      | .replay ws => .replay ws
      | _ => g
    match g with
    | .trap code _ _ => if code = 0x02 || code = 0x05 then g else first
    | _ => first

end Sys2Proof.Machine
end

