-- ==== Sys2Proof/Machine/Flags.lean ====
section
/-! DEFINITION. Integer fitting and the flag computations: wrapping and saturation (R87, R117), carry and borrow (R133),
conditions (R132, R142), and the sticky bits of a vector instruction (R113). -/

namespace Sys2Proof.Machine

/-- Whether an integer type is signed (R116). -/
def OpTy.signed : OpTy → Bool
  | .i32 => true
  | .i64 => true
  | _ => false

/-- ext(x): a pattern read as an integer of the type (R116). -/
def ext (t : OpTy) (x : Nat) : Int := if t.signed then sgn t.w x else (x % 2 ^ t.w : Nat)

/-- The least value of an integer type (R87). -/
def tyLo (t : OpTy) : Int := if t.signed then -((2 ^ (t.w - 1) : Nat) : Int) else 0

/-- The greatest value of an integer type (R87). -/
def tyHi (t : OpTy) : Int := if t.signed then ((2 ^ (t.w - 1) : Nat) : Int) - 1 else ((2 ^ t.w : Nat) : Int) - 1

/-- fit(v) of R117: clamped to the type's range with SAT, wrapped without. -/
def fit (t : OpTy) (sat : Bool) (v : Int) : Nat :=
  wrap t.w (if sat then min (max v (tyLo t)) (tyHi t) else v)

/-- CARRY of SADD: the carry out of the sum of the unsigned patterns (R133). -/
def carryAdd (t : OpTy) (a b : Nat) : Bool := 2 ^ t.w ≤ a % 2 ^ t.w + b % 2 ^ t.w

/-- CARRY of SSUB: 1 if a < b as unsigned patterns (R133). -/
def carrySub (t : OpTy) (a b : Nat) : Bool := a % 2 ^ t.w < b % 2 ^ t.w

/-- An integer condition (R132, R142): 0 EQ, 1 NE, 2 LT, 3 LE, 4 GT, 5 GE. -/
def intCond (t : OpTy) (cond a b : Nat) : Bool :=
  let x := ext t a
  let y := ext t b
  match cond with
  | 0 => decide (x = y)
  | 1 => decide (x ≠ y)
  | 2 => decide (x < y)
  | 3 => decide (x ≤ y)
  | 4 => decide (y < x)
  | _ => decide (y ≤ x)

/-- The OR of the sticky bits that the active lanes raise (R113). -/
def stickyOf (m : LaneMask) (h : Nat → Nat) : Nat := (lanesOf m).foldl (fun acc l => acc ||| h l) 0

end Sys2Proof.Machine
end

