-- ==== Sys2Proof/Machine/Ops.lean ====
section
/-! DEFINITION. The named operations that instructions share: the issuing fragment, register writes, flags, parking,
advancing to the next instruction, taking a trap and returning from one, and tapping an event for the Proctors. -/

namespace Sys2Proof.Machine

/-! ### Groups and fragments -/

/-- Change a group. -/
def State.modGroup (s : State) (gid : Nat) (f : Group → Group) : State :=
  { s with groups := Tab.upd s.groups gid f }

/-- The fragment at an index of a group's split table. -/
def Group.frag? (g : Group) (fi : Nat) : Option Frag :=
  match Tab.get? g.split fi with
  | some (.frag f) => some f
  | _ => none

/-- Change a fragment of a group. -/
def Group.modFrag (g : Group) (fi : Nat) (h : Frag → Frag) : Group :=
  match Tab.get? g.split fi with
  | some (.frag f) => { g with split := Tab.set g.split fi (.frag (h f)) }
  | _ => g

/-- Change a fragment. -/
def State.modFrag (s : State) (gid fi : Nat) (h : Frag → Frag) : State :=
  s.modGroup gid fun g => g.modFrag fi h

/-- The fragments of a group, with their indices. -/
def Group.frags (g : Group) : List (Nat × Frag) :=
  g.split.filterMap fun e => match e.2 with
    | .frag f => some (e.1, f)
    | .region _ => none

/-- The fragment of a group with a name, wherever its entry stands (R222, R254). -/
def Group.namedFrag (g : Group) (id : Nat) : Option (Nat × Frag) := g.frags.find? fun e => e.2.id == id

/-- The fragment with the lowest split-table index of a list; a spilled one counts with the index that its entry had (R222). -/
def lowestHome (l : List (Nat × Frag)) : Option (Nat × Frag) :=
  l.foldl (fun b e => match b with
    | none => some e
    | some d => if e.2.home < d.2.home then some e else some d) none

/-- A region of a group by its name. -/
def Group.region? (g : Group) (id : Nat) : Option (Nat × Region) :=
  (g.split.filterMap fun e => match e.2 with
    | .region r => if r.id = id then some (e.1, r) else none
    | .frag _ => none).head?

/-- The group lives: it holds a slot and is not saved. -/
def Group.live (g : Group) : Bool :=
  match g.state with
  | .saved => false
  | .retiring => false
  | .retired => false
  | _ => true

/-- The issuing fragment of a state. -/
def State.issuer (s : State) : Option Ctx :=
  match s.cur with
  | none => none
  | some (gid, fi) =>
    match Tab.get? s.groups gid with
    | none => none
    | some g =>
      if g.live then
        match g.frag? fi with
        | some f => some { gid := gid, fi := fi, g := g, f := f }
        | none => none
      else none

/-- Run a meaning for the issuing fragment. -/
def withIssuer (s : State) (k : Ctx → State) : Host.Outcome State Fault Refusal :=
  match s.issuer with
  | some x => .next (k x)
  | none => .fault .noIssuer

/-- The core of a state. -/
def State.core (s : State) (c : Nat) : Core := Tab.getD s.cores c Core.empty

/-- Change a core. -/
def State.modCore (s : State) (c : Nat) (f : Core → Core) : State :=
  { s with cores := Tab.set s.cores c (f (s.core c)) }

/-- A front end of a state. -/
def State.fe (s : State) (n : Nat) : Fe := Tab.getD s.fes n Fe.empty

/-- Change a front end. -/
def State.modFe (s : State) (n : Nat) (f : Fe → Fe) : State := { s with fes := Tab.set s.fes n (f (s.fe n)) }

/-- A group identifier, GID (R200). -/
def gidOf (gid : Nat) : Nat := gid + 1

/-! ### Proctor taps -/

/-- A Proctor of a state. -/
def State.proctor (s : State) (p : Nat) : Proctor := Tab.getD s.proctors p Proctor.empty

/-- Whether an attachment could match an event (R333): its source, and its partition or an event of none. -/
def couldMatch (ev : PrEvent) (a : PrAtt) : Bool :=
  !a.leaving && a.src == ev.src && (match ev.part with | some p => a.part == p | none => true)

/-- A dropped event would have matched the attachment, if it had been the next one (R333, R335). -/
def wouldMatch (ev : PrEvent) (a : PrAtt) : Bool := couldMatch ev a && a.armed && (a.count + 1) % 2 ^ 32 % 2 ^ a.samp == 0

/-- Put an event into a Proctor's FIFO, or count it as dropped (R333, R335). -/
def tapEvent (s : State) (port : Nat) (ev : PrEvent) : State :=
  let p := s.proctor port
  let m := List.filter (fun a : Nat × PrAtt => couldMatch ev a.2) p.atts
  if m.isEmpty then s
  else if p.fifo.length < 64 then
    { s with proctors := Tab.set s.proctors port { p with fifo := p.fifo ++ [ev] } }
  else
    let parts := match ev.part with
      | some q => [q]
      | none => ((m.filter fun (a : Nat × PrAtt) => wouldMatch ev a.2).map fun (a : Nat × PrAtt) => a.2.part).eraseDups
    parts.foldl (fun t q => t.modFe q fun f => { f with prdrop := (f.prdrop + 1) % 2 ^ 32 }) s

/-- An event of R337 at a Separator port: source, partition, E0 to E5. -/
def tap (s : State) (port src : Nat) (part : Option Nat) (e : List Nat) : State :=
  let e6 := port % 64 + src % 64 * 2 ^ 8 + (match part with | some p => p % 32 * 2 ^ 16 | none => 2 ^ 21)
  let fields := (List.range 6).map (fun i => BitVec.ofNat 32 (nth e i 0)) ++
    [BitVec.ofNat 32 e6, BitVec.ofNat 32 s.clock]
  tapEvent s port { src := src, part := part, e := fields }

/-- Change a group's state, with the event of source 12 (R219, R337). -/
def setGState (s : State) (gid : Nat) (st : GState) : State :=
  match Tab.get? s.groups gid with
  | none => s
  | some g =>
    if g.state = st then s
    else
      let t := s.modGroup gid fun g => { g with state := st }
      tap t (chipOfCore (coreOf gid)) 12 (some g.part) [gidOf gid, g.state.code, st.code]

/-! ### Registers and flags -/

/-- Write the lanes of `m` of a V register; the other lanes keep their value (R113). A register with no lane written is
left as it is. -/
def Group.writeV (g : Group) (n : Nat) (m : LaneMask) (h : Nat → Word) : Group :=
  if m = 0 then g
  else { g with
    v := Tab.set g.v n ((List.range 64).map fun l => if inMask m l then h l else g.vlane n l)
    note := Tab.del g.note n }

/-- Write an S register; an armed register is disarmed (R42, R196). -/
def Group.writeS (g : Group) (n : Nat) (x : Word) : Group :=
  { g with s := Tab.set g.s n x, note := Tab.del g.note (keyS n) }

/-- Write an S pair (R46). -/
def Group.writeSPair (g : Group) (n : Nat) (x : DWord) : Group := (g.writeS n (loHalf x)).writeS (n + 1) (hiHalf x)

/-- The register words written carry fresh check bits: their errors are gone (R61). -/
def clearWords (s : State) (gid : Nat) (g : Group) (key : Nat) (lanes : List Nat) : State :=
  let c := s.core (coreOf gid)
  if c.bad.isEmpty then s
  else s.modCore (coreOf gid) fun c =>
    { c with bad := lanes.foldl (fun b l => Tab.del b (badKey (regRow gid g key) l)) c.bad }

/-- The same for the issuing fragment's group. -/
def clearBad (s : State) (x : Ctx) (key : Nat) (lanes : List Nat) : State := clearWords s x.gid x.g key lanes

/-- The same for whole uniform registers. -/
def clearKeys (s : State) (gid : Nat) (g : Group) (keys : List Nat) : State :=
  keys.foldl (fun t k => clearWords t gid g k [0]) s

/-- A vector destination of a type (R48, R112): a V register or pair in the lanes of `m`; NULL discards. -/
def writeVec (s : State) (x : Ctx) (d : Sel) (wide : Bool) (m : LaneMask) (r : Nat → Nat) : State :=
  match d with
  | .v n =>
    let s1 := clearBad (s.modGroup x.gid fun g => g.writeV n m fun l => BitVec.ofNat 32 (r l)) x (keyV n) (lanesOf m)
    if wide then
      clearBad (s1.modGroup x.gid fun g => g.writeV (n + 1) m fun l => BitVec.ofNat 32 (r l / 2 ^ 32)) x (keyV (n + 1))
        (lanesOf m)
    else s1
  | _ => s

/-- An S register or pair (R46). -/
def writeScalar (s : State) (x : Ctx) (n : Nat) (wide : Bool) (r : Nat) : State :=
  let s1 := clearBad (s.modGroup x.gid fun g => g.writeS n (BitVec.ofNat 32 r)) x (keyS n) [0]
  if wide then
    clearBad (s1.modGroup x.gid fun g => g.writeS (n + 1) (BitVec.ofNat 32 (r / 2 ^ 32))) x (keyS (n + 1)) [0]
  else s1

/-- FLAGS[7:0] written from a value (R50, R51). -/
def writeFlags (s : State) (x : Ctx) (r : Nat) : State :=
  let s1 := s.modGroup x.gid fun g => { g with sticky := r % 256 - r % 4 }
  s1.modFrag x.gid x.fi fun f => { f with scc := bitAt r 0, carry := bitAt r 1 }

/-- A uniform destination (R130, R50): EXEC is ANDed with the members, FLAGS takes the low byte, NULL discards. -/
def writeUni (s : State) (x : Ctx) (d : Sel) (wide : Bool) (r : Nat) : State :=
  match d with
  | .s n => writeScalar s x n wide r
  | .exec => s.modFrag x.gid x.fi fun f => { f with exec := BitVec.ofNat 64 r &&& f.members }
  | .flags => writeFlags s x r
  | _ => s

/-- Set sticky bits of FLAGS by OR (R51, R92). -/
def orSticky (s : State) (gid bits : Nat) : State :=
  s.modGroup gid fun g => { g with sticky := g.sticky ||| bits }

/-- Set the fragment's SCC. -/
def setScc (s : State) (x : Ctx) (b : Bool) : State := s.modFrag x.gid x.fi fun f => { f with scc := b }

/-- Set the fragment's CARRY. -/
def setCarry (s : State) (x : Ctx) (b : Bool) : State := s.modFrag x.gid x.fi fun f => { f with carry := b }

/-- WOVF: FLAGS bit 2 (R51). -/
def fWOVF : Nat := 4

/-! ### Parking -/

/-- The fragment holds an entry of its core's waiting table (R43, R44). -/
def Frag.tabled (f : Frag) : Bool := match f.cond with
  | .parked _ t _ => t
  | _ => false

/-- Entries of a core's waiting table in use (R18, R43): a group at EXIT holds one for the fragment that executed it (R34). -/
def waitingUsed (s : State) (core : Nat) : Nat :=
  s.groups.foldl (fun n e =>
    if coreOf e.1 = core then
      n + ((e.2.frags.map (·.2) ++ (e.2.exited.map (·.2)).toList).filter Frag.tabled).length
    else n) 0

/-- The condition of a fragment that parks now: it takes an entry of the waiting table if one is free (R43, R44). -/
def parkCond (s : State) (gid : Nat) (why : Await) : Cond := .parked why (waitingUsed s (coreOf gid) < 256) s.clock

/-- A fragment parks (R43, R44). -/
def park (s : State) (x : Ctx) (why : Await) : State :=
  let t := s.modFrag x.gid x.fi fun f => { f with cond := parkCond s x.gid why }
  match why.cause with
  | some cause => tap t (chipOfCore (coreOf x.gid)) 3 (some x.g.part) [gidOf x.gid, cause]
  | none => t

/-! ### Advancing -/

/-- Words in the clause a fragment is in (R26). -/
def Frag.wcnt (f : Frag) : Nat := f.words.length

/-- Whether an instruction of `len` words is the last of its clause (R27, R29). -/
def Frag.isLast (f : Frag) (len : Nat) : Bool := f.wcnt < f.idx + len

/-- The address of word 0 of the instruction at the fragment's index (R75). -/
def Frag.pc0 (f : Frag) : Nat := f.pc + 4 * f.idx

/-- The header of the next clause: the fall-through (R27, R190). -/
def Frag.fallThrough (f : Frag) : Nat := (f.pc + 4 * (1 + f.wcnt)) % 2 ^ 64

/-- The members of a fragment join the arrived mask of its region, and it waits there (R223). -/
def arrive (g : Group) (fi : Nat) (f : Frag) (ri : Nat) (r : Region) : Group :=
  { g with
    split := Tab.set (Tab.set g.split fi (.frag { f with cond := .atRpc })) ri
      (.region { r with arrived := r.arrived ||| f.members }) }

/-- Fuse a region whose arrived mask equals its expected mask (R224). The fragments that arrived are those that wait at
it; the lowest index of them holds the fused fragment. -/
def fuse (g : Group) (clock ri : Nat) (r : Region) : Group × Option Nat :=
  let here := g.frags.filter fun e => e.2.cond == .atRpc && e.2.region == some r.id
  match lowestHome here with
  | none => ({ g with split := Tab.del g.split ri }, none)
  | some (fi, f) =>
    let split := here.foldl (fun t (e : Nat × Frag) => Tab.del t e.1) g.split
    let ff : Frag := { f with
      pc := r.rpc, hdr := 0, words := [], idx := 0, members := r.arrived, exec := r.arrived, scc := false,
      carry := false, depth := r.depth - 1, region := r.outer, cond := .ready, since := clock, yielded := false,
      latches := [], resume := none }
    let handler := match g.hmode with
      | some h => if here.any fun e => e.1 == h then some fi else g.hmode
      | none => none
    ({ g with split := Tab.set (Tab.del split ri) fi (.frag ff), hmode := handler }, some fi)

/-- A fragment whose next PC is the rpc of its innermost region arrives there, and the region fuses when it is complete;
the fused fragment in turn may stand at the rpc of the next region out (R223, R224; DEDUCED, log 13). The fuel covers
the 64 levels of R191. -/
def settleAt : Nat → Group → Nat → Nat → Group
  | 0, g, _, _ => g
  | n + 1, g, clock, fi =>
    match g.frag? fi with
    | none => g
    | some f =>
      match f.region with
      | none => g
      | some rid =>
        match g.region? rid with
        | none => g
        | some (ri, r) =>
          if r.rpc = f.pc then
            let g2 := arrive g fi f ri r
            let r2 := { r with arrived := r.arrived ||| f.members }
            if r2.arrived = r.expected then
              match fuse g2 clock ri r2 with
              | (g3, some k) => settleAt n g3 clock k
              | (g3, none) => g3
            else g2
          else g

/-- A fragment goes to the clause header at `pc` (R190, R223). -/
def gotoIn (g : Group) (clock fi pc : Nat) : Group :=
  settleAt 66 (g.modFrag fi fun f => { f with pc := pc, hdr := 0, words := [], idx := 0, resume := none }) clock fi

/-- What every issued instruction leaves behind in its fragment: the instruction count, the last safe point, the time of
issue, readiness (R35, R41, R228). -/
def issued (f : Frag) (clock : Nat) (sp : Bool) : Frag :=
  { f with count := f.count + 1, lastSp := if sp then f.count + 1 else f.lastSp, since := clock, cond := .ready,
           yielded := false }

/-- An instruction of `len` words is the last of a clause with YLD: its fragment is placed last for its next selection (R38, R228). -/
def yieldsAfter (f : Frag) (len : Nat) : Bool := f.isLast len && bitAt f.hdr.toNat 27

/-- The first instruction of a group makes it RUNNING (R219). -/
def startRunning (s : State) (gid : Nat) : State :=
  match Tab.get? s.groups gid with
  | some g => match g.state with
    | .placed => setGState s gid .running
    | .parked => setGState s gid .running
    | _ => s
  | none => s

/-- The instruction has issued; go on at the next one, or at the fall-through after the last of the clause, where a clause
with YLD places the fragment last (R38). -/
def advance (s : State) (x : Ctx) (len : Nat) (sp : Bool) : State :=
  let s1 := startRunning s x.gid
  s1.modGroup x.gid fun g =>
    let g1 := g.modFrag x.fi fun f => issued f s.clock sp
    if x.f.isLast len then
      gotoIn (g1.modFrag x.fi fun f => { f with yielded := bitAt x.f.hdr.toNat 27 }) s.clock x.fi x.f.fallThrough
    else g1.modFrag x.fi fun f => { f with idx := x.f.idx + len }

/-- The instruction has issued and goes to another clause header (R190). -/
def branchTo (s : State) (x : Ctx) (sp : Bool) (pc : Nat) : State :=
  let s1 := startRunning s x.gid
  s1.modGroup x.gid fun g =>
    gotoIn (g.modFrag x.fi fun f => { issued f s.clock sp with yielded := bitAt x.f.hdr.toNat 27 }) s.clock x.fi
      (pc % 2 ^ 64)

/-- An instruction has issued and waits at its place for an event that ends it (R219, R254): its group runs before it parks. -/
def parkIssued (s : State) (x : Ctx) (why : Await) : State := park (startRunning s x.gid) x why

/-! ### Traps -/

/-- The format words of the instruction at a fragment's index (R63, R64): IW0 to IW2 of a trap record. -/
def formatWords (f : Frag) : List Word :=
  if f.idx = 0 then []
  else match f.words.drop (f.idx - 1) with
    | [] => []
    | w :: r =>
      let n := match majorFmt (flag w 30) (majorOf w).toNat with
        | some .lg => 2
        | some .lm => 2
        | some .lx => 2
        | some .lb => 2
        | some .la => 3
        | _ => 1
      (w :: r).take n

/-- Write consecutive S registers from `n` upward. -/
def Group.writeSs (g : Group) : Nat → List Word → Group
  | _, [] => g
  | n, w :: t => Group.writeSs (g.writeS n w) (n + 1) t

/-- The sixteen words of the trap record (R216). -/
def trapRecord (f : Frag) (tpc rpc ridx code : Nat) (async : Bool) (info0 info1 : Nat) (scc : Bool) (iw : List Word) :
    List Word :=
  let d (v : Nat) : List Word := [BitVec.ofNat 32 v, BitVec.ofNat 32 (v / 2 ^ 32)]
  d tpc ++ d rpc ++ [BitVec.ofNat 32 (ridx % 16 + code * 16 + bitOf async * 2 ^ 12), 0] ++ d f.exec.toNat ++ d info0 ++
    d info1 ++ [nth iw 0 0, nth iw 1 0, nth iw 2 0] ++ [BitVec.ofNat 32 (bitOf scc + 2 * bitOf f.carry)]

/-- A program trap without a handler, or in one, kills the group and makes the launch FAULTED (R215, R220). -/
def killByTrap (s : State) (gid code : Nat) : State :=
  s.modGroup gid fun g => { g with killed := true, trapKill := some code }

/-- Take a program trap (R215): write the record of R216 to S368-S383, count it, enter the handler with EXEC kept; or kill
the group. The record is written at once also where a load into one of these registers is outstanding, whose data then
comes over it (R42 speaks of instructions that write; DESIGN CHOICE, log 75). -/
def takeTrapAt (s : State) (gid fi : Nat) (f : Frag) (tpc rpc ridx code : Nat) (async : Bool) (info0 info1 : Nat)
    (scc : Bool) (iw : List Word) : State :=
  match Tab.get? s.groups gid with
  | none => s
  | some g =>
    if g.trapVa = 0 || g.hmode.isSome then killByTrap s gid code
    else
      (clearKeys s gid g ((List.range 16).map fun i => keyS (368 + i))).modGroup gid fun g =>
        let g1 := g.writeSs 368 (trapRecord f tpc rpc ridx code async info0 info1 scc iw)
        ({ g1 with trapcnt := g1.trapcnt + 1, hmode := some fi }).modFrag fi fun f =>
          { f with pc := g.trapVa, hdr := 0, words := [], idx := 0, resume := none, cond := .ready, since := s.clock }

/-- A precise trap that resumes at the trapping instruction itself (R218, "Same"). At a clause entry the header is both
TPC and RPC, RIDX is 0 and the instruction words are zero (R28, R216). -/
def takeTrap (s : State) (x : Ctx) (code info0 info1 : Nat) : State :=
  takeTrapAt s x.gid x.fi x.f x.f.pc0 x.f.pc x.f.idx code false info0 info1 x.f.scc (formatWords x.f)

/-- Where the record of a trap resumes at the next instruction (R218, "Next"): the header and the word. -/
def nextPlace (f : Frag) (len : Nat) : Nat × Nat :=
  if f.isLast len then (f.fallThrough, 0) else (f.pc, f.idx + len)

/-- A precise trap that resumes after the trapping instruction (R218, "Next"). -/
def takeTrapNext (s : State) (x : Ctx) (len code info0 info1 : Nat) : State :=
  let p := nextPlace x.f len
  takeTrapAt s x.gid x.fi x.f x.f.pc0 p.1 p.2 code false info0 info1 x.f.scc (formatWords x.f)

/-- Return from a trap (R217): EXEC, SCC and CARRY come back from the record, handler mode ends, and the fragment goes to
RPC, to resume at word RIDX. A misaligned RPC takes ALIGN after handler mode has ended. -/
def trapReturn (s : State) (x : Ctx) (len : Nat) (sp : Bool) : State :=
  let g := x.g
  let rpc := (g.spair 370).toNat
  let w := (g.sreg 372).toNat
  let ridx := w % 16
  let c := (g.sreg 383).toNat
  let f1 : Frag := { issued x.f s.clock sp with
    exec := g.spair 374 &&& x.f.members, scc := bitAt c 0, carry := bitAt c 1, pc := rpc, hdr := 0, words := [],
    idx := 0, resume := if ridx = 0 then none else some ridx, yielded := yieldsAfter x.f len }
  let s1 := (startRunning s x.gid).modGroup x.gid fun g => { g with hmode := none, split := Tab.set g.split x.fi (.frag f1) }
  if rpc % 4 ≠ 0 then takeTrapAt s1 x.gid x.fi f1 rpc rpc 0 0x07 false rpc 0 f1.scc []
  else if ridx = 0 then s1.modGroup x.gid fun g => gotoIn g s.clock x.fi rpc
  else s1

/-- Correct register words of a core (R61): for each the count advances, and the event of source 15 is raised (R337). -/
def correctWords (s : State) (core : Nat) (part : Option Nat) (ws : List Nat) : State :=
  ws.foldl (fun t w =>
    let t1 := t.modCore core fun c => { c with bad := Tab.del c.bad w, corrected := c.corrected + 1 }
    tap t1 (chipOfCore core) 15 part [core, 0, (t1.core core).corrected]) s

/-- A fragment does not issue: what a gate decided (R60, R75). -/
def stopAt (s : State) (x : Ctx) : Gate → State
  | .trap code i0 i1 => takeTrap s x code i0 i1
  | .park why => park s x why
  | .replay ws => correctWords s (coreOf x.gid) (some x.g.part) ws
  | .go => s

end Sys2Proof.Machine
end

