-- ==== Sys2Proof/Machine/Issue.lean ====
section
/-! DEFINITION. How an arithmetic instruction issues (R75, R113, R131): the checks, what reading the sources does (HOLD
capture, queue pops, first use of a note register), the datapath's beats (R39, R40, R114), the effect, the next
instruction. -/

namespace Sys2Proof.Machine

/-- The kind of a field in an operand list. -/
def kindOf (os : Opnds) (x : Fld) : Option Kind :=
  match os.find? fun o => o.1 == x with
  | some o => some o.2
  | none => none

/-- The value of a field in a lane; 0 for a field the entry does not use. A uniform operand has one value, that of lane 0 of a latch
captured by a vector instruction (R135). -/
def opVal (s : State) (x : Ctx) (i : AluI) (os : Opnds) (fld : Fld) (l : Nat) : Nat :=
  match kindOf os fld with
  | some k => readSel s x i.lit k.ty (i.fld fld) (if k.isUniform then 0 else l)
  | none => 0

/-- The latch that HOLD captures (R41): the source's value at the width read. -/
def captured (s : State) (x : Ctx) (i : AluI) (os : Opnds) : Option (Nat × Latch) :=
  match holdFld i.hold with
  | none => none
  | some fld =>
    match kindOf os fld with
    | none => none
    | some k =>
      some (i.hold - 1,
        { vals := if k.isUniform then [BitVec.ofNat 64 (opVal s x i os fld 0)]
                  else (List.range 64).map fun l => BitVec.ofNat 64 (opVal s x i os fld l)
          wide := k.ty.wide
          uniform := k.isUniform
          stamp := x.f.count + 1 })

/-- Remove the head entries of the queues named (R53). -/
def popQueues (g : Group) (qs : List Nat) : Group :=
  { g with queues := qs.eraseDups.foldl (fun q n => updNth q n List.tail) g.queues }

/-- Whether a register read is in its first use after a note filled it (R196). -/
def usesFull (g : Group) (rd : List Nat) : Bool := rd.any fun k => Tab.get? g.note k == some .full

/-- Read registers that were FULL become ORD (R196). -/
def useNotes (g : Group) (rd : List Nat) : Group :=
  { g with note := rd.foldl (fun t k => if Tab.get? t k == some .full then Tab.del t k else t) g.note }

/-- The core's L1 is invalidated (R20). -/
def invalidateL1 (s : State) (core : Nat) : State :=
  if (s.core core).l1.isEmpty then s else s.modCore core fun c => { c with l1 := [] }

/-- What reading the sources of an instruction leaves behind: queue pops (R53), first uses, each an acquire at scope dev
(R196, R199), and the HOLD capture (R41). -/
def readSources (s : State) (x : Ctx) (i : AluI) (os : Opnds) : State :=
  let u := usesOf i os
  let s1 := if usesFull x.g u.rd then invalidateL1 s (coreOf x.gid) else s
  let s2 := s1.modGroup x.gid fun g => useNotes (popQueues g u.qs) u.rd
  match captured s x i os with
  | none => s2
  | some (n, y) => s2.modFrag x.gid x.fi fun f => { f with latches := Tab.set f.latches n y }

/-- Issue an instruction with the operand checks of R60; `ok` are the checks of step 4 of R75. -/
def runAlu (s : State) (i : AluI) (ok : Bool) (os : Opnds) (k : Ctx → State → State) :
    Host.Outcome State Fault Refusal :=
  withIssuer s fun x =>
    if ok then
      match operandGate s x (usesOf i os) with
      | .go => advance (k x (readSources s x i os)) x i.len i.sp.isSome
      | g => stopAt s x g
    else takeTrap s x 0x01 0 0

/-- V registers that an instruction reads, each once. -/
def vectorReads (i : AluI) (os : Opnds) : List Nat := ((usesOf i os).rd.filter (· < 128)).eraseDups

/-- Extra beats for sources in one bank (R40): register n lies in bank n mod 4. -/
def bankBeats (regs : List Nat) : Nat := regs.length - ((regs.map (· % 4)).eraseDups).length

/-- Occupy the sub-core's vector datapath (R39). -/
def occupy (s : State) (x : Ctx) (beats : Nat) : State :=
  s.modCore (coreOf x.gid) fun c => { c with busy := Tab.set c.busy x.g.subcore (s.clock + beats) }

/-- Beats of a VEC instruction (R39): `slow` for VXFN and the divisions. -/
def baseBeats (slow : Bool) (t : OpTy) : Nat := (if slow then 16 else 4) * (if t.wide then 2 else 1)

/-- A vector instruction (R113): `lane` gives the result and the sticky bits of a lane from the operand values and the
lane's index; `wide` says whether the destination is a pair. -/
def runVec (s : State) (i : AluI) (ok : Bool) (os : Opnds) (slow : Bool) (t : OpTy) (wide : Bool)
    (lane : (Fld → Nat) → Nat → Nat × Nat) : Host.Outcome State Fault Refusal :=
  runAlu s i ok os fun x s1 =>
    let r := fun l => lane (fun fld => opVal s x i os fld l) l
    let s2 := occupy s1 x (baseBeats slow t + bankBeats (vectorReads i os))
    orSticky (writeVec s2 x i.d wide x.f.exec fun l => (r l).1) x.gid (stickyOf x.f.exec fun l => (r l).2)

/-- A uniform instruction (R130, R131): the effect gives the result, the sticky bits, and SCC and CARRY where the entry
writes them; D is written last. -/
def runUni (s : State) (i : AluI) (ok : Bool) (os : Opnds) (wide : Bool)
    (eff : Ctx → (Fld → Nat) → Nat × Nat × Option Bool × Option Bool) : Host.Outcome State Fault Refusal :=
  runAlu s i ok os fun x s1 =>
    let r := eff x fun fld => opVal s x i os fld 0
    let s2 := match r.2.2.1 with
      | some b => setScc s1 x b
      | none => s1
    let s3 := match r.2.2.2 with
      | some b => setCarry s2 x b
      | none => s2
    writeUni (orSticky s3 x.gid r.2.1) x i.d wide r.1

/-- The step 4 checks of a long LG instruction (R75). -/
def lgOk (maj minor : Nat) (f : Lg) : Bool := (Enc.lg (BitVec.ofNat 6 maj) (BitVec.ofNat 8 minor) f).fieldsOk

end Sys2Proof.Machine
end

