-- ==== Sys2Proof/Config.lean ====
section
/-! DEFINITION. What the manual leaves open and the machine goes on: free values. Each is a constant with no body, so
nothing can be proved about the value it takes; the assumption log names each (log 10). -/

namespace Sys2Proof.Config

/-- Which result inside its error bound a transcendental gives (R127, R129), by minor, type and input pattern. -/
opaque xfnFree : Nat → Nat → Nat → Nat

/-- The TAG function of a register pass (R195), by the pass's bits [63:19], the launch and the partition key. -/
opaque tagHash : Nat → Nat → Nat → Nat

/-- The n-th partition key the device's random source draws (R195). -/
opaque partitionKey : Nat → Nat

/-- Bytes of an attestation report (R374), by what it holds and byte index: the layout is not stated. -/
opaque attestReport : List Nat → Nat → Byte

/-- The SHA-512 digest of a message (R2, R372, R374); the manual names the function and does not spell it out. -/
opaque sha512 : List Byte → Nat

/-- Bytes of the RSA-4096 signature of a digest by the device identity key (R374), which never leaves EC0. -/
opaque identitySign : Nat → Nat → Byte

/-- How many firmware images the device requires (R372). -/
opaque fwImages : Nat

/-- The SHA-512 digest that an image carries (R372), by a counter and the image. -/
opaque fwDigest : Nat → Nat → Nat

/-- By how much a verified image's security version exceeds its fused minimum (R372), by a counter and the image. -/
opaque fwAbove : Nat → Nat → Nat

/-- By how much a verified image raises its fused minimum (R372), at most up to its own version. -/
opaque fuseRaise : Nat → Nat → Nat

/-- What verifying the firmware after a device reset that no host write started comes to (R372, R376): the failing image and the cause, 0
for none. -/
opaque bootResult : Nat → Nat × Nat

/-- The junction limit in °C (R375). -/
opaque junctionLimit : Nat

/-- The stepping in MG_ID (R376). -/
opaque stepping : Nat

/-- Which way of a set gives way to a line that its slice must allocate (R285), by a counter. -/
opaque victimWay : Nat → Nat

/-- Whether a byte of device memory lies in a region that firmware declares persistent across device resets (R25). -/
opaque persistent : Nat → Bool

/-- By how many MMA jobs a core's job queue exceeds sixteen (R181 states no size). -/
opaque jobQueue : Nat

/-- A free word: the n-th value that the manual does not state. -/
opaque freeWord : Nat → Nat

/-- How many cycles, below 64, an atomic that discards its old value is held back in its chiplet's sequencer (R237), by its name. -/
opaque holdAtomic : Nat → Nat

end Sys2Proof.Config
end

