-- ==== Sys2Proof/Machine/Line.lean ====
section
/-! DEFINITION. Homes (R15), the physical map (R290), class budgets and the order of requests at a port (R288), messages between chiplets and
how they leave as flits (R347, R352), and what every write does at the home of its
line: the slice cache (R285, R286), registered objects (R264), SO timestamps (R239), back-invalidate snoops (R320), sequence
numbers, probes and merging (R231, R232). -/

namespace Sys2Proof.Machine

/-! ### Homes and lines -/

/-- The memory chiplet that homes a physical address (R15). -/
def homeMc (pa : Nat) : Nat := bitsAt pa 8 4 ^^^ bitsAt pa 12 4 ^^^ bitsAt pa 16 4 ^^^ bitsAt pa 20 4

/-- The slice of its memory chiplet that homes a physical address (R15). -/
def homeSlice (pa : Nat) : Nat := (bitsAt pa 12 40 * 2 + bitsAt pa 7 1) % 80

/-- The global slice number (R15). -/
def globalSlice (pa : Nat) : Nat := homeMc pa * 80 + homeSlice pa

/-- The line of an address. -/
def lineOf (pa : Nat) : Nat := pa / 128

/-- The Separator port of a compute chiplet (R13). -/
def portCC (c : Nat) : Nat := c

/-- The Separator port of a memory chiplet (R13). -/
def portMC (m : Nat) : Nat := 16 + m

/-- The key of a directed pair. -/
def pairKey (i j : Nat) : Nat := 34 * i + j

/-- Where host memory begins in the physical map (R290). -/
def hostBase : Nat := 2 ^ 51

/-- Whether a physical address is device memory (R290). -/
def isDevice (pa : Nat) : Bool := pa < 2 ^ 40

/-- Whether a physical address is host memory (R290). -/
def isHost (pa : Nat) : Bool := hostBase ≤ pa && pa < 2 ^ 52

/-- Device memory that a partition may reach: the GiB window of FE_PAWIN (R290, R291). -/
def deviceAllowed (f : Fe) (pa : Nat) : Bool :=
  isDevice pa && bitsAt f.pawin 0 10 ≤ pa / 2 ^ 30 && pa / 2 ^ 30 ≤ bitsAt f.pawin 16 10

/-- Any memory that a partition may reach (R290). -/
def paAllowed (f : Fe) (pa : Nat) : Bool :=
  deviceAllowed f pa || (isHost pa && pa - hostBase < bitsAt f.pawin 32 32 * 2 ^ 30)

/-! ### Messages -/

/-- A pair of a state. -/
def State.pair (s : State) (i j : Nat) : Pair := Tab.getD s.pairs (pairKey i j) Pair.empty

/-- Change a pair. -/
def State.modPair (s : State) (i j : Nat) (f : Pair → Pair) : State :=
  { s with pairs := Tab.set s.pairs (pairKey i j) (f (s.pair i j)) }

/-- A home slice of a state. -/
def State.slice (s : State) (k : Nat) : Slice := Tab.getD s.slices k Slice.empty

/-- Change a home slice. -/
def State.modSlice (s : State) (k : Nat) (f : Slice → Slice) : State :=
  { s with slices := Tab.set s.slices k (f (s.slice k)) }

/-! ### Class budgets -/

/-- The partition that owns the running slot of the Timetable (R287). -/
def slotOwner (s : State) : Nat := Tab.getD s.tt.runSlots s.tt.slot 0x20

/-- Whether a port or slice accepts a request of a class in this slot (R288): the first request of the slot's owner is served before any
budget test; a budget of 0 is no limit. Slices are numbered as in `State.slices`. -/
def budgetOk (s : State) (slice part cls : Nat) : Bool :=
  let b := Tab.getD s.tt.runBudgets cls 0 % 2 ^ 32
  b == 0 || Tab.getD (s.slice slice).used cls 0 < b || (slotOwner s == part && !(s.slice slice).owned)

/-- Count a request against its class budget (R288). -/
def budgetUse (s : State) (slice part cls n : Nat) : State :=
  if Tab.getD s.tt.runBudgets cls 0 % 2 ^ 32 = 0 then s
  else s.modSlice slice fun x => { x with
    used := Tab.set x.used cls (Tab.getD x.used cls 0 + n), owned := x.owned || slotOwner s == part }

/-- The memory port of a chiplet among `State.slices` (R288, log 81). -/
def memPort (mc : Nat) : Nat := 1280 + mc

/-- A group by its name, with its key. -/
def groupBy (s : State) (uid : Nat) : Option (Nat × Group) := s.groups.find? fun e => e.2.uid == uid

/-- A class budget refuses a request (R288, R337); `gid` is the GID of its source, 0 where there is none. -/
def refuseBudget (s : State) (mc slice cls part gid : Nat) : State := tap s (portMC mc) 2 (some part) [slice, cls, gid]

/-- The GID of a group by its lasting name, 0 where it has gone (R200). -/
def uidGid (s : State) (uid : Nat) : Nat := match groupBy s uid with
  | some (gid, _) => gidOf gid
  | none => 0

/-- The relay of Separator port k among `State.slices` (R350, log 81). -/
def sepPort (k : Nat) : Nat := 1296 + k

/-! ### Requests at a port -/

/-- The first least element of a list by a pair of numbers. -/
def leastBy {α : Type} (key : α → Nat × Nat) (l : List α) : Option α :=
  l.foldl (fun b e => match b with
    | none => some e
    | some d => if (key e).1 < (key d).1 || ((key e).1 == (key d).1 && (key e).2 < (key d).2) then some e else some d) none

/-- Partition and class of a request (R288). -/
def reqOf : Msg → Option (Nat × Nat)
  | .loadReq _ _ _ _ part cls => some (part, cls)
  | .posting _ _ _ _ _ part cls => some (part, cls)
  | .atomReq _ _ _ _ part cls => some (part, cls)
  | _ => none

/-- A message `m` in front of message `q` does not hold it up (R288): each partition has a queue of its own, and answers to probes wait for no
request. -/
def lets (q m : Msg) : Bool :=
  match reqOf m, reqOf q with
  | some a, some b => a.1 != b.1
  | some _, none => match q with
    | .probeAck _ _ => true
    | _ => false
  | none, _ => false

/-- The messages of a queue that nothing in front of them holds up: their places, when they came, themselves. -/
def openMsgs (box : List (Nat × Msg)) : List (Nat × Nat × Msg) :=
  (box.zipIdx.filter fun e => (box.take e.2).all fun m => lets e.1.2 m.2).map fun e => (e.2, e.1)

/-- The rank of a message at a port (R288): requests of the slot's owner first, with what is no request, then by class. -/
def msgRank (s : State) (m : Msg) : Nat := match reqOf m with
  | some r => if slotOwner s = r.1 then 0 else 1 + r.2
  | none => 0

/-! ### Flits -/

/-- Bytes that a message carries. -/
def msgBytes : Msg → Nat
  | .grant _ data _ _ _ _ _ _ _ => data.length
  | .posting _ _ bytes _ _ _ _ => bytes.length
  | .atomReq _ _ idx _ _ _ => 16 * idx.length
  | .atomReply _ idx _ _ _ _ => 8 * idx.length
  | .granData _ _ data => data.length
  | _ => 0

/-- The flits of a message: its bytes in pieces of 64, one where it has none (R347, log 27). -/
def flitsOf (m : Msg) : Nat := max 1 ((msgBytes m + 63) / 64)

/-- Messages of a pair of which no last flit has been sent. -/
def Pair.unsent (p : Pair) : List Msg := (p.part.toList.map fun e => e.2.1) ++ p.queue.map (·.2)

/-- The port to which the flits of a pair go first: its relay in RELAY, else its receiver (R349). -/
def Pair.first (p : Pair) (j : Nat) : Nat := if p.mode = 2 then p.via else j

/-- Flits of a relayed pair that hold a place of its relay's buffer, taken when they are sent there. -/
def Pair.relayed (p : Pair) : Nat := (p.sent.filter fun f => f.hop == 1).length

/-- The relay buffer of a port takes a further flit of a pair (R352): 16 are reserved for each pair relayed through it, and
the rest of 1,024 is shared. -/
def relayRoom (s : State) (k : Nat) (p : Pair) : Bool :=
  let ps := s.pairs.filter fun e => e.2.mode == 2 && e.2.via == k
  let shared := ps.foldl (fun n e => n + (e.2.relayed - 16)) 0
  p.relayed < 16 || shared < 1024 - 16 * ps.length

/-- A pair may send a new flit: no switch-over runs, it is not DOWN, no flit waits to be sent again, its replay buffer has room (R351, R352),
and in RELAY its relay has. -/
def maySend (s : State) (p : Pair) : Bool :=
  !p.switching && p.mode != 3 && p.sent.length < 256 && p.sent.all (·.hop != 0) && (p.mode != 2 || relayRoom s p.via p)

/-- A relay's class budget accepts a request (R288, R350). -/
def relayFits (s : State) (p : Pair) (m : Msg) : Bool := match reqOf m with
  | some (part, cls) => p.mode != 2 || budgetOk s (sepPort p.via) part cls
  | none => true

/-- A pair with the message of which it sends the next flit: the one begun, else the first by the rank of its slot and its age (R288). -/
def Pair.begun (s : State) (p : Pair) : Option Pair :=
  match p.part with
  | some _ => some p
  | none => (leastBy (fun e => (msgRank s e.2.2, e.2.1)) ((openMsgs p.queue).filter fun e => relayFits s p e.2.2)).map fun e =>
      { p with queue := p.queue.eraseIdx e.1, part := some (e.2.1, e.2.2, flitsOf e.2.2) }

/-- The rank of the message that a pair has begun. -/
def Pair.partRank (s : State) (p : Pair) : Nat × Nat := match p.part with
  | some (since, m, _) => (msgRank s m, since)
  | none => (0, 0)

/-- Of the pairs of port `a` whose flits go first to port `b`, the one that sends a new flit next, with its message begun (R288). -/
def nextOwn (s : State) (a b : Nat) : Option (Nat × Pair) :=
  leastBy (fun e => e.2.partRank s) ((Tab.keys s.pairs).filterMap fun k =>
    let p := s.pair a (k % 34)
    if k / 34 = a && p.first (k % 34) = b && maySend s p then (p.begun s).map fun q => (k % 34, q) else none)

/-- The colour of a link that carries a flit, the secondary: true (R348, R349): in HALF the one that USE names; where both carry, they take
flits in turn (DESIGN CHOICE, log 88). -/
def Pair.carrier (l : Pair) (seq : Nat) : Bool := if l.mode = 1 then l.use else seq % 2 == 1

/-- A flit goes on a link: it takes a credit of it (R352). -/
def onWire (s : State) (a b : Nat) (r : FlitRef) : State :=
  s.modPair a b fun l => { l with credits := l.credits - 1, wire := l.wire ++ [(r, l.carrier r.seq)] }

/-- Set a flit of a pair by its sequence number. -/
def Pair.setFlit (p : Pair) (seq : Nat) (f : Flit → Flit) : Pair :=
  { p with sent := p.sent.map fun x => if x.seq = seq then f x else x }

/-- A new flit of the pair from `a` to `j`, whose message is begun in `q`, goes on the link to `b`; the relay counts a request when its first
flit goes there (R350). -/
def sendNew (s : State) (a b j : Nat) (q : Pair) : State :=
  match q.part with
  | none => s
  | some (since, m, n) =>
    let s1 := s.modPair a j fun _ => { q with
      sent := q.sent ++ [{ seq := q.seq, msg := m, last := n ≤ 1, hop := 1 }], seq := (q.seq + 1) % 2 ^ 16
      part := if n ≤ 1 then none else some (since, m, n - 1) }
    let s2 := match reqOf m with
      | some (part, cls) => if q.mode = 2 && n = flitsOf m then budgetUse s1 (sepPort b) part cls (64 * n) else s1
      | none => s1
    onWire (s2.modPair a b fun l => { l with turn := false }) a b ⟨a, j, q.seq⟩

/-- A flit that waits for a link may go on it: the relay at its end has room for it, where it is one that it has no place of yet (R352). -/
def outReady (s : State) (a b : Nat) (r : FlitRef) : Bool :=
  let p := s.pair r.src r.dst
  r.src != a || r.dst == b || (p.sent.all fun f => f.seq != r.seq || f.hop != 0) || relayRoom s b p

/-- A flit that waits for a link, relayed or to be sent again, goes on it. -/
def sendOut (s : State) (a b : Nat) (r : FlitRef) : State :=
  onWire ((s.modPair a b fun l => { l with out := l.out.erase r, turn := true }).modPair r.src r.dst fun p =>
    p.setFlit r.seq fun f => { f with hop := 1 }) a b r

/-- Send what can be sent on a link: it carries flits in FULL and HALF while no switch-over of it runs, each takes a credit, and the flits that
wait for it in order take turns with new ones of its sender (R350 to R352). The fuel is its credits. -/
def pumpGo : Nat → State → Nat → Nat → State
  | 0, s, _, _ => s
  | n + 1, s, a, b =>
    let l := s.pair a b
    if l.switching || 2 ≤ l.mode then s
    else match l.out.find? (outReady s a b), nextOwn s a b with
      | none, none => s
      | none, some (j, q) => pumpGo n (sendNew s a b j q) a b
      | some r, none => pumpGo n (sendOut s a b r) a b
      | some r, some (j, q) => pumpGo n (if l.turn then sendNew s a b j q else sendOut s a b r) a b

/-- Send what can be sent on a link. -/
def pump (s : State) (a b : Nat) : State := pumpGo (s.pair a b).credits s a b

/-- Send what can be sent on every link. -/
def pumpAll (s : State) : State := s.pairs.foldl (fun t e => pump t (e.1 / 34) (e.1 % 34)) s

/-- Put a message on the pair from port i to port j. -/
def send (s : State) (i j : Nat) (m : Msg) : State :=
  pump (s.modPair i j fun p => { p with queue := p.queue ++ [(s.clock, m)] }) i ((s.pair i j).first j)

/-- Take the message at a place of a pair's receive buffer. -/
def takeInbox (s : State) (i j k : Nat) : State := s.modPair i j fun p => { p with inbox := p.inbox.eraseIdx k }

/-- Take the head of a pair's receive buffer. -/
def popInbox (s : State) (i j : Nat) : State := s.modPair i j fun p => { p with inbox := p.inbox.tail }

/-! ### Compute chiplets -/

/-- A compute chiplet of a state. -/
def State.chip (s : State) (c : Nat) : Chip := Tab.getD s.chips c Chip.empty

/-- Change a compute chiplet. -/
def State.modChip (s : State) (c : Nat) (f : Chip → Chip) : State :=
  { s with chips := Tab.set s.chips c (f (s.chip c)) }

/-! ### Writes at a home -/

/-- A home line of a state. -/
def State.hline (s : State) (line : Nat) : HomeLine := Tab.getD s.hlines line HomeLine.empty

/-- Change a home line. -/
def State.modHline (s : State) (line : Nat) (f : HomeLine → HomeLine) : State :=
  { s with hlines := Tab.set s.hlines line (f (s.hline line)) }

/-- The compute chiplets of a holder mask. -/
def holderList (m : Nat) : List Nat := (List.range 16).filter fun c => bitAt m c

/-- Probe every holder of a line with its sequence number; the directory then lists none (R231). -/
def probeHolders (s : State) (line : Nat) : State :=
  let h := s.hline line
  let s1 := s.modHline line fun h => { h with holders := 0 }
  (holderList h.holders).foldl (fun t c => send t (portMC (homeMc (line * 128))) (portCC c) (.probe line h.seq)) s1

/-- Lines that a range of addresses touches. -/
def linesOf (pa n : Nat) : List Nat :=
  if n = 0 then [] else (List.range (lineOf (pa + n - 1) - lineOf pa + 1)).map (· + lineOf pa)

/-- Bytes [lo, lo+n) of a line as a mask. -/
def byteMask (lo n : Nat) : Nat := (2 ^ n - 1) * 2 ^ lo

/-- The mask of the bytes of a partial line. -/
def maskOfBytes (bs : Tab Byte) : Nat := bs.foldl (fun m (e : Nat × Byte) => m ||| 2 ^ e.1) 0

/-- Bytes of a line have been written: once all of them have been since its error, it is poisoned no more (R371). -/
def HomeLine.written (h : HomeLine) (mask : Nat) : HomeLine :=
  match h.poison with
  | none => { h with dirty := true }
  | some w => { h with dirty := true, poison := if w ||| mask = 2 ^ 128 - 1 then none else some (w ||| mask) }

/-- Whether a line of device memory is poisoned (R371). -/
def poisoned (s : State) (pa : Nat) : Bool := isDevice pa && (s.hline (lineOf pa)).poison.isSome

/-- The bytes of a line at its home. -/
def lineBytes (s : State) (line : Nat) : List Byte := Memory.readN s.mem (line * 128) 128

/-! ### The slice cache -/

/-- The colours a partition allocates in (R278, R285): those set in FE_HCOLOUR, all eight where none is. -/
def colours (s : State) (part : Nat) : List Nat :=
  let m := (s.fe part).hcolour % 256
  if m = 0 then List.range 8 else (List.range 8).filter (bitAt m)

/-- The set that a line is allocated in (R285). -/
def setOf (s : State) (part pa : Nat) : Nat :=
  let q := (bitsAt pa 12 40 * 2 + bitsAt pa 7 1) / 80
  let cl := colours s part
  nth cl (q / 32 % cl.length) 0 * 32 + q % 32

/-- The ways that a mask allows (R286). -/
def waysOf (mask : Nat) : List Nat := (List.range 16).filter (bitAt mask)

/-- A partition's way mask at the slice of a line (R286). -/
def maskOfLine (s : State) (part line : Nat) : Nat := Tab.getD (s.slice (globalSlice (line * 128))).masks part 0xFFFF

/-- The line that a slice caches in a set and way. -/
def cachedIn (s : State) (slice place : Nat) : Option Nat :=
  (s.hlines.find? fun e => globalSlice (e.1 * 128) == slice && e.2.cached == some place).map (·.1)

/-- Evict a line from its slice: the slice's mts takes its lease (R239). -/
def evictLine (s : State) (slice line : Nat) : State :=
  let h := s.hline line
  (s.modSlice slice fun x => { x with mts := max x.mts h.rts }).modHline line fun h =>
    { h with cached := none, dirty := false }

/-- Allocate a line in its slice (R285): a free way that the mask allows, or the way of a line that is evicted. A line from
DRAM starts with wts and rts at mts (R239). With an empty mask nothing is allocated (R286). -/
def allocLine (s : State) (part line mask : Nat) : State :=
  let pa := line * 128
  let slice := globalSlice pa
  let set := setOf s part pa
  let ways := waysOf mask
  let stamp (t : State) (c : Option Nat) : State :=
    t.modHline line fun h => { h with cached := c, wts := (t.slice slice).mts, rts := (t.slice slice).mts, dirty := false }
  match ways.find? fun w => (cachedIn s slice (set * 16 + w)).isNone with
  | some w => stamp s (some (set * 16 + w))
  | none =>
    match ways with
    | [] => stamp s none
    | w0 :: _ =>
      let w := nth ways (Config.victimWay s.freeCtr % ways.length) w0
      let s1 := { s with freeCtr := s.freeCtr + 1 }
      let s2 := match cachedIn s1 slice (set * 16 + w) with
        | some v => evictLine s1 slice v
        | none => s1
      stamp s2 (some (set * 16 + w))

/-- A write or an atomic meets its line in the slice, allocating it if it must (R285, R286). -/
def touchLine (s : State) (part line : Nat) : State :=
  if (s.hline line).cached.isSome then s else allocLine s part line (maskOfLine s part line)

/-- A line that is not cached leaves its timestamps in the slice's mts (R239, R286). -/
def leaveLine (s : State) (line : Nat) : State :=
  if (s.hline line).cached.isSome then s
  else
    let h := s.hline line
    s.modSlice (globalSlice (line * 128)) fun x => { x with mts := max x.mts h.rts }

/-! ### Registered objects -/

/-- The bytes of an object: 16 for a barrier or lock (R201), 4 for a queue or flag word (R204). -/
def objectLen (kind : Nat) : Nat := if kind ≤ 1 then 16 else 4

/-- Whether an entry's barrier or lock object lies in a range of device memory or of a team's scratchpad. -/
def objectIn (e : AttEnt) (team : Option Nat) (pa n : Nat) : Bool :=
  e.kind ≤ 1 && (match e.place with
    | some (t, a) => t == team && pa < a + 16 && a < pa + n
    | none => false)

/-- The barrier or lock object with WAITING entries that a write would reach (R264). -/
def waitedObject (s : State) (team : Option Nat) (pa n : Nat) : Option AttEnt :=
  (s.chips.flatMap fun c => c.2.att.map (·.2)).find? fun e => e.st == 1 && objectIn e team pa n

/-- A write that stands frees the POLLING and HOLDING entries of the objects it reaches (R264). -/
def freeDeclared (s : State) (team : Option Nat) (pa n : Nat) : State :=
  if s.chips.any fun c => c.2.att.any fun e => e.2.st != 1 && objectIn e.2 team pa n then
    { s with chips := s.chips.map fun (c : Nat × Chip) =>
        (c.1, { c.2 with att := c.2.att.filter fun (e : Nat × AttEnt) => !(e.2.st != 1 && objectIn e.2 team pa n) }) }
  else s

/-- Runs of consecutive offsets of a partial line. -/
def freeWritten (s : State) (line : Nat) (bytes : Tab Byte) : State :=
  if s.chips.all fun c => c.2.att.isEmpty then s
  else bytes.foldl (fun t (b : Nat × Byte) => freeDeclared t none (line * 128 + b.1) 1) s

/-! ### SO timestamps -/

/-- so_load (R239): the line and the load's timestamp. -/
def soLoad (h : HomeLine) (pts : Nat) : HomeLine × Nat :=
  let ts := max pts h.wts
  ({ h with rts := max h.rts (ts + 64) }, ts)

/-- A line as a read meets it: one that its slice does not cache is refetched, with wts and rts at the slice's mts (R239). -/
def soLine (s : State) (line : Nat) : HomeLine :=
  let h := s.hline line
  if h.cached.isSome then h
  else
    let m := (s.slice (globalSlice (line * 128))).mts
    { h with wts := m, rts := m }

/-- so_load of a line at its home (R239): the timestamp taken. -/
def soLoadAt (s : State) (line pts : Nat) : State × Nat :=
  let r := soLoad (soLine s line) pts
  (leaveLine (s.modHline line fun _ => r.1) line, r.2)

/-- so_write (R239). -/
def soWrite (h : HomeLine) (pts : Nat) : HomeLine × Nat :=
  let ts := max (pts + 1) (h.rts + 1)
  ({ h with wts := ts, rts := ts }, ts)

/-! ### Gates -/

/-- The line's page is in host bias, for an access that meets it now (R320 to R323). -/
def lineHostBias (s : State) (line : Nat) : Bool :=
  match (s.hline line).flip with
  | 0 => s.bias.contains (line / 32)
  | 2 => true
  | 3 => true
  | _ => false

/-- What a device access that touches halves of a line meets at the home (R320 to R323). -/
inductive HomeGate where
  | go
  /-- It is held; these halves must be snooped first. -/
  | hold (snoop : Nat)
  deriving DecidableEq, Repr

/-- The halves of a line that the host may hold. -/
def hostHalves (h : HomeLine) : Nat := (if h.host0 = 0 then 0 else 1) + (if h.host1 = 0 then 0 else 2)

/-- Whether a device access may be served now; `pass` are halves whose BISnpData has been answered for it. -/
def homeGate (s : State) (line halves pass : Nat) : HomeGate :=
  let h := s.hline line
  if h.snoop &&& halves ≠ 0 then .hold 0
  else if lineHostBias s line then
    let need := halves &&& hostHalves h &&& (3 - pass)
    if need = 0 then .go else .hold need
  else .go

/-- Halves that a mask of written bytes touches. -/
def maskHalves (m : Nat) : Nat := (if m % 2 ^ 64 = 0 then 0 else 1) + (if m / 2 ^ 64 = 0 then 0 else 2)

/-- Ask the host for the halves of a line that `homeGate` names: BISnpData for a load (`data`), BISnpInv otherwise (R320). -/
def askSnoop (s : State) (line halves : Nat) (data : Bool) : State :=
  s.modHline line fun h => { h with
    snoop := h.snoop ||| halves
    snpData := if data then h.snpData ||| halves else h.snpData &&& (3 - halves) }

/-- The sequence numbers of grants of a line still on their way (R232). -/
def grantsOut (s : State) (line : Nat) : List Nat :=
  let ofMsg (m : Msg) : List Nat := match m with
    | .grant l _ seq _ _ _ _ _ _ => if l = line then [seq] else []
    | _ => []
  s.pairs.flatMap fun p => p.2.unsent.flatMap ofMsg ++ p.2.sent.flatMap (fun f => ofMsg f.msg) ++ p.2.inbox.flatMap fun q => ofMsg q.2

/-- Whether a line's sequence number may advance by `n` without running too far ahead of a grant or probe not yet
acknowledged (R232). -/
def seqRoom (s : State) (line n : Nat) : Bool :=
  let h := s.hline line
  let open_ := (s.hwaits.filter fun w => w.line == line).map (·.seq) ++ grantsOut s line
  open_.all fun q => (h.seq + n + 2 ^ 16 - q) % 2 ^ 16 < 2 ^ 15 - 1

/-- Probes of a line that are not answered: those of its latest application and of the ones before it (R231). -/
def probesOut (s : State) (line : Nat) : Nat :=
  match (s.hwaits.filter fun w => w.line == line).getLast? with
  | some w => w.left
  | none => 0

/-- Probe the holders after an application at a home; the reply leaves once these probes and every earlier one of the line are
answered, so that no near cache holds the old bytes; at once where there is none (R231). The directory lists the near caches that were
granted the line on an RC or SO page, whatever the page kind of this write (R233, R240). -/
def probeAndReply (s : State) (line : Nat) (reply : Option (Nat × Msg)) (job : Option Nat) (src : Option (Nat × Bool) := none) : State :=
  let h := s.hline line
  let n := (holderList h.holders).length + probesOut s line
  let s1 := probeHolders s line
  if n = 0 then
    match reply with
    | some (chip, m) => send s1 (portMC (homeMc (line * 128))) (portCC chip) m
    | none => s1
  else { s1 with hwaits := s1.hwaits ++ [{ line := line, seq := h.seq, left := n, reply := reply, job := job, src := src }] }

/-- Merge a partial line at its home (R231): the bytes, the sequence number, the SO timestamp, the probes. The answer's
second part is the timestamp. -/
def mergeLine (s : State) (part line : Nat) (bytes : Tab Byte) (pts : Option Nat) : State × Nat :=
  let s1 := touchLine s part line
  let s2 := { s1 with mem := bytes.foldl (fun m (b : Nat × Byte) => Memory.write m (line * 128 + b.1) b.2) s1.mem }
  let h := (s2.hline line).written (maskOfBytes bytes)
  let r := match pts with
    | some p => soWrite h p
    | none => (h, 0)
  let s3 := s2.modHline line fun _ => { r.1 with seq := (r.1.seq + 1) % 2 ^ 16 }
  (leaveLine (freeWritten s3 line bytes) line, r.2)

/-! ### Host sectors -/

/-- Change an operation. -/
def State.modOp (s : State) (id : Nat) (f : Op → Op) : State := { s with ops := Tab.upd s.ops id f }

/-- The unit in which an access is served: a 128-byte line of device memory, a 64-byte sector of host memory. -/
def unitOf (pa : Nat) : Nat := if isHost pa then pa / 64 else pa / 128

/-- Mark the accesses of an operation on a unit. -/
def markSent (s : State) (id u : Nat) (b : Bool) : State :=
  s.modOp id fun o => { o with
    acc := o.acc.map fun a => if !a.done && unitOf a.pa == u then { a with sent := b } else a }

/-- Change a host sector of a chiplet. -/
def modSector (s : State) (chip key : Nat) (f : Sector → Sector) : State :=
  s.modChip chip fun c => { c with host := Tab.set c.host key (f (Tab.getD c.host key Sector.empty)) }

/-- A host sector of a chiplet. -/
def sectorOf (s : State) (chip key : Nat) : Sector := Tab.getD (s.chip chip).host key Sector.empty

/-- Operations and engines that waited for a sector try again. -/
def releaseOps (s : State) (chip key : Nat) : State :=
  let ids := (sectorOf s chip key).ops
  ids.foldl (fun t id => markSent t id key false) (modSector s chip key fun y => { y with ops := [], old := [], engs := [] })

/-- A chiplet gives up a sector: one in M is written back to host memory (R324). -/
def evictSector (s : State) (chip key : Nat) : State :=
  let y := sectorOf s chip key
  let s1 := if y.st = 3 then { s with mem := Memory.writeN s.mem (key * 64) y.data } else s
  if y.st = 0 then s1
  else releaseOps (modSector s1 chip key fun y => { y with
    st := 0, data := [], notice := false, poison := false, want := if y.posts.isEmpty then 0 else 2 }) chip key

/-! ### Near-cache copies -/

/-- newer(a, b) of R232. -/
def newer (a b : Nat) : Bool :=
  let d := (a + 2 ^ 16 - b % 2 ^ 16) % 2 ^ 16
  1 ≤ d && d ≤ 2 ^ 15 - 1

/-- The result of an atomic executed in a chiplet's near cache is on its way to the home of a line (R159). -/
def nearBusy (s : State) (chip line : Nat) : Bool :=
  s.postings.any fun p => p.2.near && chipOfCore p.2.core == chip && p.2.ent.line == line

/-- Drop a line from a near cache. -/
def nearDrop (s : State) (chip line : Nat) : State :=
  if (Tab.get? (s.chip chip).near line).isSome then s.modChip chip fun c => { c with near := Tab.del c.near line } else s

/-- The 128-byte host lines of which a near cache holds a sector (R324). -/
def hostLines (c : Chip) : List Nat := ((c.host.filter fun y => decide (1 ≤ y.2.st)).map fun y => y.1 / 2).eraseDups

/-- The lines that a near cache holds, of the 393,216 in its 48 MiB (R11, R324). -/
def nearCount (c : Chip) : Nat := c.near.length + (hostLines c).length

/-- Lines of a near cache that may give way, with their last use: whether it is a host line, and its number. A host line with a write
under way stays. -/
def nearOld (c : Chip) : List (Bool × Nat × Nat) :=
  let half (l k : Nat) : Sector := Tab.getD c.host (2 * l + k) Sector.empty
  (c.near.map fun e => (false, e.1, e.2.used)) ++
    ((hostLines c).filter fun l => [half l 0, half l 1].all fun y => !y.notice && y.posts.isEmpty).map fun l =>
      (true, l, max (half l 0).used (half l 1).used)

/-- A near cache beyond its capacity gives up its least recently used line (R11, R324). -/
def nearTrim (s : State) (chip : Nat) : State :=
  let c := s.chip chip
  if nearCount c ≤ 393216 then s
  else match leastBy (fun e => (e.2.2, 0)) (nearOld c) with
    | some (false, l, _) => nearDrop s chip l
    | some (true, l, _) => evictSector (evictSector s chip (2 * l)) chip (2 * l + 1)
    | none => s

/-- Put a granted line into a near cache. A copy that is newer, or that an atomic has changed whose posting the home has not
acknowledged, stays: loads never go back in the coherence order (R230). -/
def nearPut (s : State) (chip line : Nat) (x : NearLine) : State :=
  let stays := match Tab.get? (s.chip chip).near line with
    | some l => newer l.stamp x.stamp || nearBusy s chip line
    | none => nearBusy s chip line
  if stays then s else nearTrim (s.modChip chip fun c => { c with near := Tab.set c.near line x }) chip

/-! ### The device's own stores -/

/-- Halves of the lines of a range that a device access reaches (R320). -/
def halvesIn (pa n line : Nat) : Nat :=
  let lo := max pa (line * 128) - line * 128
  let hi := min (pa + n) (line * 128 + 128) - line * 128
  maskHalves (byteMask lo (hi - lo))

/-- A read of the device itself must wait for these snoops (R320): the state in which they are asked for. -/
def readGate (s : State) (pa n : Nat) : Option State :=
  let r := ((linesOf pa n).filter fun l => isDevice (l * 128)).foldl (fun (st : State × Bool) l =>
    match homeGate st.1 l (halvesIn pa n l) (st.1.hline l).passed with
    | .go => st
    | .hold k => (askSnoop st.1 l k true, true)) (s, false)
  if r.2 then some r.1 else none

/-- A read that a BISnpData let pass has been served: the next one is snooped for anew (R320). -/
def readDone (s : State) (pa n : Nat) : State :=
  ((linesOf pa n).filter fun l => (s.hline l).passed != 0).foldl (fun t l =>
    t.modHline l fun h => { h with passed := h.passed &&& (3 - halvesIn pa n l) }) s

/-- A store of the device itself must wait: for snoops, or for room in a line's sequence numbers (R232, R320). -/
def writeGate (s : State) (pa n : Nat) : Option State :=
  let r := ((linesOf pa n).filter fun l => isDevice (l * 128)).foldl (fun (st : State × Bool) l =>
    match homeGate st.1 l (halvesIn pa n l) 0 with
    | .go => (st.1, st.2 || !seqRoom st.1 l 1)
    | .hold k => (askSnoop st.1 l k false, true)) (s, false)
  if r.2 then some r.1 else none

/-- Bytes that the device itself stores (fault entries, images): merged at the homes line by line, under a job's name (R231). -/
def deviceWrite (s : State) (part : Nat) (job : Option Nat) (pa : Nat) (bs : List Byte) : State :=
  (linesOf pa bs.length).foldl (fun t l =>
    let lo := max pa (l * 128)
    let here := (bs.drop (lo - pa)).take (min (pa + bs.length) (l * 128 + 128) - lo)
    let bytes : Tab Byte := (here.zip (List.range here.length)).map fun b => (lo - l * 128 + b.2, b.1)
    probeAndReply (mergeLine t part l bytes none).1 l none job) s

end Sys2Proof.Machine
end

