-- ==== Sys2Proof/Machine/Xlate.lean ====
section
/-! DEFINITION. Translation (R290, R292 to R297) and fault events (R299 to R303). -/

namespace Sys2Proof.Machine

/-! ### Translation -/

/-- The kinds of access that translation tells apart (R294). -/
inductive AccKind where
  | load | store | atomic | fetch
  deriving DecidableEq, Repr

/-- Whether an access needs W and sets D (R294). -/
def AccKind.writes : AccKind → Bool
  | .store => true
  | .atomic => true
  | _ => false

/-- A failed translation: code, level, the entry at which the walk stopped (R299, R301). -/
structure XFault where
  code : Nat
  lvl : Nat
  pte : Nat
  deriving DecidableEq, Repr

/-- Bits [63:57] each equal bit 56 (R290). -/
def canonical (va : Nat) : Bool := bitsAt va 56 8 == 0 || bitsAt va 56 8 == 255

/-- A translation that must wait, for a snoop or for room in a line's sequence numbers (R232, R320): no fault. -/
def XFault.wait : XFault := ⟨0, 0, 0⟩

/-- What one table read leads to. -/
inductive WalkOut where
  | more (w : Walk)
  | fail (f : XFault)
  | leaf (l : Leaf)
  deriving DecidableEq, Repr

/-- The VA bits by which the walk cache tags an entry of a level (R342). -/
def walkTag (va lvl : Nat) : Nat := bitsAt va (12 + 9 * (lvl - 1)) (57 - (12 + 9 * (lvl - 1)))

/-- The deepest entry of the walk cache that a walk can use (R342): its level and itself. -/
def walkHit (ws : List (Nat × Nat × Nat × Nat)) (part va : Nat) : Option (Nat × Nat) :=
  [3, 4, 5].findSome? fun lvl =>
    (ws.find? fun w => w.1 == part && w.2.1 == lvl && w.2.2.1 == walkTag va lvl).map fun w => (lvl, w.2.2.2)

/-- The checks before any table is read (R290, R294), and where the walk begins (R342). -/
def walkStart (f : Fe) (ws : List (Nat × Nat × Nat × Nat)) (part va : Nat) : WalkOut :=
  if !canonical va then .fail ⟨0x23, 0, 0⟩
  else match walkHit ws part va with
    | some (lvl, e) => .more { va := va, table := bitsAt e 12 40 * 4096, lvl := lvl - 1, g64 := false }
    | none =>
      if !bitAt f.ptroot 0 then .fail ⟨0x20, 5, 0⟩
      else
        let t := bitsAt f.ptroot 12 40 * 4096
        if deviceAllowed f t then .more { va := va, table := t, lvl := 5, g64 := false } else .fail ⟨0x26, 5, f.ptroot⟩

/-- A table entry of L5, L4 or L3 that passed its checks enters the walk cache (R342). -/
def enterWalk (c : Chip) (part : Nat) (w : Walk) (e : Nat) : Chip :=
  if w.lvl < 3 then c
  else
    let k := (part, w.lvl, walkTag w.va w.lvl, e)
    { c with walks := (k :: c.walks.filter fun y => !(y.1 == part && y.2.1 == w.lvl && y.2.2.1 == walkTag w.va w.lvl)).take 1024 }

/-- Must-be-zero bits of an entry (R293). -/
def pteReserved (e : Nat) : Bool := bitAt e 11 || bitsAt e 52 7 != 0

/-- The leaf that an entry makes. -/
def leafOf (part va e lvl bits pte : Nat) : Leaf :=
  { part := part, vbase := va / 2 ^ bits * 2 ^ bits, bits := bits, raw := e, lvl := lvl, pte := pte, merged := [] }

/-- Where a walk reads next (R292, R294). -/
def walkAddr (w : Walk) : Nat :=
  if w.g64 then w.table + 8 * bitsAt w.va 16 5 else w.table + 8 * bitsAt w.va (12 + 9 * (w.lvl - 1)) 9

/-- One table read of the walk (R294), given the entry read. -/
def walkEntry (f : Fe) (part : Nat) (w : Walk) (e : Nat) : WalkOut :=
  let a := walkAddr w
  if !bitAt e 0 then .fail ⟨0x20, w.lvl, e⟩
  else if w.g64 then
    if !bitAt e 1 || bitAt e 8 || pteReserved e || bitsAt e 12 4 != 0 then .fail ⟨0x22, 1, e⟩
    else .leaf (leafOf part w.va e 1 16 a)
  else if pteReserved e then .fail ⟨0x22, w.lvl, e⟩
  else if !bitAt e 1 then
    if w.lvl == 1 || (bitAt e 8 && w.lvl != 2) then .fail ⟨0x22, w.lvl, e⟩
    else
      let t := bitsAt e 12 40 * 4096
      if !deviceAllowed f t then .fail ⟨0x26, w.lvl, e⟩
      else .more { w with table := t, lvl := w.lvl - 1, g64 := bitAt e 8 }
  else if 2 < w.lvl || bitAt e 8 then .fail ⟨0x22, w.lvl, e⟩
  else if w.lvl == 2 && bitsAt e 12 9 != 0 then .fail ⟨0x22, 2, e⟩
  else .leaf (leafOf part w.va e w.lvl (if w.lvl == 2 then 21 else 12) a)

/-- The output address of a leaf for a VA (R294). -/
def leafPa (l : Leaf) (va : Nat) : Nat :=
  bitsAt l.raw 12 40 * 4096 / 2 ^ l.bits * 2 ^ l.bits + va % 2 ^ l.bits

/-- The page kind of a leaf: 0 RC, 1 SO, 2 UO (R233, R293). -/
def leafOrd (l : Leaf) : Nat := bitsAt l.raw 5 2

/-- The checks on a leaf, in the order of R294: the physical address and page kind. -/
def leafCheck (f : Fe) (l : Leaf) (va : Nat) (kind : AccKind) (hmode : Bool) : Except XFault (Nat × Nat) :=
  let e := l.raw
  let pa := leafPa l va
  if leafOrd l == 3 then .error ⟨0x24, l.lvl, e⟩
  else if bitAt e 4 && !hmode then .error ⟨0x21, l.lvl, e⟩
  else if kind.writes && !bitAt e 2 then .error ⟨0x21, l.lvl, e⟩
  else if kind == .fetch && !bitAt e 3 then .error ⟨0x21, l.lvl, e⟩
  else if !paAllowed f pa then .error ⟨0x26, l.lvl, e⟩
  else if isHost pa && leafOrd l != 0 then .error ⟨0x24, l.lvl, e⟩
  else .ok (pa, leafOrd l)

/-- The bits of a leaf that an access sets: A, and D for a store or an atomic (R297). -/
def adBits (kind : AccKind) : Nat := 2 ^ 9 + (if kind.writes then 2 ^ 10 else 0)

/-- Whether a leaf translates a VA for a partition. -/
def leafHits (part va : Nat) (l : Leaf) : Bool := l.part == part && va / 2 ^ l.bits * 2 ^ l.bits == l.vbase

/-- Who translates: partition, core and chiplet whose structures it uses, the engine whose TLB it uses in place of the core's,
handler mode (R294, R295); the group under whose SO clock its loads are made (R239), where they are a group's; and the class of its
accesses, where a budget meters them (R288). -/
structure Xer where
  part : Nat
  core : Option Nat
  chip : Option Nat
  eng : Option Nat
  hmode : Bool
  uid : Option Nat := none
  cls : Option Nat := none
  /-- The copy of a window, of no engine's TLB (R166). -/
  win : Bool := false
  deriving DecidableEq, Repr

/-- OR bits into a leaf at its home, applied as a dev-scope atomic is (R231, R297): the value it returns; none where it must wait
at the home (R232, R320). -/
def orLeaf (s : State) (part pte bits : Nat) : State × Option Nat :=
  match writeGate s pte 8 with
  | some t => (t, none)
  | none =>
    let e := ofBytes (Memory.readN s.mem pte 8)
    let bytes : Tab Byte := (toBytes 8 (e ||| bits)).zipIdx.map fun b => (pte % 128 + b.2, b.1)
    (probeAndReply (mergeLine s part (lineOf pte) bytes none).1 (lineOf pte) none none, some e)

/-- Bytes of a table that a walk reads, within one line, as a plain load at scope dev (R294): from the near-cache copy of the
requester's chiplet, else at the home, which counts the read against its class budget as any request (R288) and grants that near cache the line;
none where the home must first snoop the host (R320) or refuses it. A UO copy is not used: the directory does not keep it coherent (R240). -/
def walkRead (s : State) (x : Xer) (pa n : Nat) : State × Option (List Byte) :=
  let line := lineOf pa
  let copy := x.chip.bind fun c => (Tab.get? (s.chip c).near line).bind fun l => if l.uo then none else some l
  match copy with
  | some l => (s, some ((l.data.drop (pa % 128)).take n))
  | none =>
    match readGate s pa n with
    | some t => (t, none)
    | none =>
    let slice := globalSlice pa
    let cls := x.cls.getD 0
    if !budgetOk s slice x.part cls then (refuseBudget s (homeMc pa) slice cls x.part (x.uid.elim 0 (uidGid s)), none)
    else
      let s := budgetUse s slice x.part cls n
      let bs := Memory.readN s.mem pa n
      match x.chip with
      | none => (readDone s pa n, some bs)
      | some c =>
        let h := soLine s line
        if h.passed != 0 then (readDone s pa n, some bs)
        else if lineHostBias s line || h.flip = 1 || (Tab.get? (s.chip c).near line).isSome then (s, some bs)
        else
          let s1 := s.modHline line fun h => { h with holders := h.holders ||| 2 ^ c }
          (nearPut s1 c line { data := lineBytes s line, stamp := h.seq, wts := h.wts, rts := h.rts, uo := false,
                               used := s.clock + 1 }, some bs)

/-- Put a leaf at the front of a TLB. -/
def keepLeaf (ls : List Leaf) (l : Leaf) (n : Nat) : List Leaf :=
  (l :: ls.filter fun y => !(y.part == l.part && y.vbase == l.vbase && y.bits == l.bits)).take n

/-- The constituent of a merged leaf that translates a VA (R296). -/
def part16 (l : Leaf) (va : Nat) : Nat := (va - l.vbase) / 2 ^ (l.bits - 4) % 16

/-- The page's own leaf: of a merged one, the constituent that translates the VA (R296). -/
def plainOf (l : Leaf) (va : Nat) : Leaf :=
  match l.merged with
  | [] => l
  | es =>
    let k := part16 l va
    { l with vbase := l.vbase + k * 2 ^ (l.bits - 4), bits := l.bits - 4, raw := nth es k 0, pte := l.pte + 8 * k, merged := [] }

/-- A leaf whose own entry now reads `e`. -/
def withRaw (l : Leaf) (va e : Nat) : Leaf :=
  match l.merged with
  | [] => { l with raw := e }
  | es => { l with merged := es.set (part16 l va) e }

/-- Put a leaf into the agent's TLB and the L2 TLB of its chiplet, the newest first; only a core's TLB holds merged leaves (R295). -/
def fillTlb (s : State) (x : Xer) (l : Leaf) (va : Nat) : State :=
  let p := plainOf l va
  let s0 := match x.eng with
    | some e => { s with etlbs := Tab.set s.etlbs e (keepLeaf (Tab.getD s.etlbs e []) p 64) }
    | none => s
  let s1 := match x.eng, x.core with
    | none, some c => s0.modCore c fun y => { y with tlb := keepLeaf y.tlb l 256 }
    | _, _ => s0
  match x.chip with
  | some c => s1.modChip c fun y => { y with tlb := keepLeaf y.tlb p 16384 }
  | none => s1

/-- Leaves of other entries than one that caused a fault, or that is not valid. -/
def dropEntry (part pte : Nat) (ls : List Leaf) : List Leaf :=
  ls.filter fun y => !(y.part == part && (y.pte == pte || (!y.merged.isEmpty && y.pte / 128 == pte / 128)))

/-- No structure holds an entry that caused a fault (R295). -/
def dropLeaf (s : State) (l : Leaf) : State :=
  { s with
    cores := s.cores.map fun (c : Nat × Core) => (c.1, { c.2 with tlb := dropEntry l.part l.pte c.2.tlb })
    chips := s.chips.map fun (c : Nat × Chip) => (c.1, { c.2 with tlb := dropEntry l.part l.pte c.2.tlb })
    etlbs := s.etlbs.map fun (e : Nat × List Leaf) => (e.1, dropEntry l.part l.pte e.2) }

/-- The leaf that a TLB holds for a VA (R295). -/
def tlbFind (s : State) (x : Xer) (va : Nat) : Option Leaf :=
  let first := match x.eng, x.core with
    | some e, _ => (Tab.getD s.etlbs e []).find? (leafHits x.part va)
    | none, some c => (s.core c).tlb.find? (leafHits x.part va)
    | none, none => none
  match first with
  | some l => some l
  | none => x.chip.bind fun c => (s.chip c).tlb.find? (leafHits x.part va)

/-- A translated access: physical address and page kind, or the fault. -/
abbrev XRes := Except XFault (Nat × Nat)

/-- Set the bits that an access needs in a leaf's own entry: the value that the OR returned, `e` where none was needed (R297). -/
def setBits (s : State) (part : Nat) (p : Leaf) (bits : Nat) : State × Except XFault Nat :=
  if bits &&& p.raw = bits then (s, .ok p.raw)
  else if poisoned s p.pte then (s, .error ⟨0x25, p.lvl, 0⟩)
  else match orLeaf s part p.pte bits with
    | (t, none) => (t, .error XFault.wait)
    | (t, some e) => if bitAt e 0 then (t, .ok (e ||| bits)) else (t, .error ⟨0x20, p.lvl, e⟩)

/-- Use a leaf that a TLB holds: its checks, and A and D set at its home before it is used (R294, R297). A change of its entry takes
effect only through an invalidation (R298). -/
def useLeaf (s : State) (x : Xer) (l : Leaf) (va : Nat) (kind : AccKind) : State × XRes :=
  let p := plainOf l va
  match leafCheck (s.fe x.part) p va kind x.hmode with
  | .error e => (dropLeaf s p, .error e)
  | .ok r =>
    match setBits s x.part p (adBits kind) with
    | (t, .ok _) => (fillTlb t x (withRaw l va (p.raw ||| adBits kind)) va, .ok r)
    | (t, .error f) => (if f.code = 0 then t else dropLeaf t p, .error f)

/-- The leaf whose entry has come back with another value from the OR: the walk uses that one (R297). An entry that is no leaf any
more is walked again. -/
def reread (f : Fe) (l : Leaf) (va e : Nat) : Except XFault Leaf :=
  match walkEntry f l.part { va := va, table := 0, lvl := l.lvl, g64 := l.bits == 16 } e with
  | .leaf k => .ok { k with pte := l.pte }
  | .fail g => .error g
  | .more _ => .error XFault.wait

/-- Load a plain leaf that a walk has read (R294, R297). -/
def loadPlain (s : State) (x : Xer) (l : Leaf) (va : Nat) (kind : AccKind) : State × XRes :=
  match leafCheck (s.fe x.part) l va kind x.hmode with
  | .error e => (dropLeaf s l, .error e)
  | .ok _ =>
    match setBits s x.part l (adBits kind) with
    | (t, .error f) => (t, .error f)
    | (t, .ok e) => match reread (t.fe x.part) l va e with
      | .error f => (t, .error f)
      | .ok k => match leafCheck (t.fe x.part) k va kind x.hmode with
        | .error f => (dropLeaf t k, .error f)
        | .ok r => (fillTlb t x k va, .ok r)

/-- The sixteen entries of an aligned block merge (R296): valid leaves of one level with CH, alike but for A and D, whose output
addresses step by the leaf size from an aligned start. -/
def blockMerges (l : Leaf) (es : List Nat) : Bool :=
  let oa (e : Nat) : Nat := bitsAt e 12 40 * 4096
  let e0 := nth es 0 0
  (oa e0) % 2 ^ (l.bits + 4) = 0 && (es.zip (List.range 16)).all fun p =>
    bitAt p.1 0 && bitAt p.1 1 && !bitAt p.1 8 && bitAt p.1 7 && !pteReserved p.1 &&
    bitsAt p.1 0 9 == bitsAt e0 0 9 && oa p.1 == oa e0 + p.2 * 2 ^ l.bits

/-- Set A in the sixteen entries of a block (R296): their values, none where one must wait or has been taken away. -/
def setBlock (s : State) (part base : Nat) (es : List Nat) : State × Option (List Nat) :=
  es.zipIdx.foldl (fun (st : State × Option (List Nat)) e =>
    match st.2 with
    | none => st
    | some vs =>
      if bitAt e.1 9 then (st.1, some (vs ++ [e.1]))
      else match orLeaf st.1 part (base + 8 * e.2) (2 ^ 9) with
        | (t, some v) => (t, some (vs ++ [v ||| 2 ^ 9]))
        | (t, none) => (t, none)) (s, some [])

/-- The merged leaf of a block. -/
def mergedLeaf (l : Leaf) (va base : Nat) (es : List Nat) : Leaf :=
  { l with
    vbase := va / 2 ^ (l.bits + 4) * 2 ^ (l.bits + 4), bits := l.bits + 4, raw := nth es 0 0, pte := base, merged := es }

/-- Load a leaf that a walk has read: for a core's TLB merged where its block allows it, A set in all sixteen entries; otherwise the
leaf alone (R295, R296). -/
def loadLeaf (s : State) (x : Xer) (l : Leaf) (va : Nat) (kind : AccKind) : State × XRes :=
  if !bitAt l.raw 7 || l.bits == 16 || x.eng.isSome || x.core.isNone then loadPlain s x l va kind
  else
    let base := l.pte / 128 * 128
    match walkRead s x base 128 with
    | (t, none) => (t, .error XFault.wait)
    | (t, some bs) =>
      let es := (List.range 16).map fun k => ofBytes ((bs.drop (8 * k)).take 8)
      if !blockMerges l es then loadPlain t x l va kind
      else match leafCheck (t.fe x.part) l va kind x.hmode with
        | .error _ => loadPlain t x l va kind
        | .ok _ => match setBlock t x.part base es with
          | (u, some vs) =>
            if blockMerges l vs then useLeaf u x (mergedLeaf l va base vs) va kind else loadPlain u x l va kind
          | (u, none) => (u, .error XFault.wait)

/-- The table entry read leads on: it may enter the walk cache (R342). -/
def noteWalk (s : State) (x : Xer) (w : Walk) (e : Nat) (o : WalkOut) : State :=
  match o, x.chip with
  | .more _, some c => s.modChip c fun y => enterWalk y x.part w e
  | _, _ => s

/-- The walk cache that a translation uses. -/
def walksOf (s : State) (x : Xer) : List (Nat × Nat × Nat × Nat) :=
  match x.chip with
  | some c => (s.chip c).walks
  | none => []

/-- One table read of a walk (R294): what it leads to; none where it must wait (R320). -/
def walkOnce (s : State) (x : Xer) (w : Walk) : State × Option WalkOut :=
  if poisoned s (walkAddr w) then (s, some (.fail ⟨0x25, w.lvl, 0⟩))
  else match walkRead s x (walkAddr w) 8 with
    | (t, none) => (t, none)
    | (t, some bs) =>
      let e := ofBytes bs
      let o := walkEntry (t.fe x.part) x.part w e
      (noteWalk t x w e o, some o)

/-- A translation from a walk on, with fuel for the levels. -/
def walkGo : Nat → State → Xer → Nat → AccKind → WalkOut → State × XRes
  | 0, s, _, _, _, _ => (s, .error ⟨0x22, 1, 0⟩)
  | n + 1, s, x, va, kind, o =>
    match o with
    | .fail f => (s, .error f)
    | .leaf l => loadLeaf s x l va kind
    | .more w => match walkOnce s x w with
      | (t, some o) => walkGo n t x va kind o
      | (t, none) => (t, .error XFault.wait)

/-- A translation made in one step (R294): by fetches, engines, launch blocks and Attendance objects. -/
def translate (s : State) (x : Xer) (va : Nat) (kind : AccKind) : State × XRes :=
  if !canonical va then (s, .error ⟨0x23, 0, 0⟩)
  else match tlbFind s x va with
    | some l => useLeaf s x l va kind
    | none => walkGo 9 s x va kind (walkStart (s.fe x.part) (walksOf s x) x.part va)

/-- A fault found at the leaf of a page that is mapped, as for an object in host memory (R201, R299, R301); no structure keeps that
leaf (R295). -/
def leafFault (s : State) (x : Xer) (va : Nat) (kind : AccKind) (code : Nat) : State × XFault :=
  let t := (translate s x va kind).1
  match tlbFind t x va with
  | some l => let p := plainOf l va; (dropLeaf t p, ⟨code, p.lvl, p.raw⟩)
  | none => (t, ⟨code, 0, 0⟩)

/-! ### Fault events -/

/-- The 64 bytes of a fault-queue entry (R301). -/
structure FEntry where
  va : Nat
  pte : Nat
  code : Nat
  core : Nat
  slot : Nat
  lvl : Nat
  kind : Nat
  unit : Nat
  region : Nat
  launch : Nat
  lanes : Nat
  deriving DecidableEq, Repr

/-- The entry as stored (R301). -/
def fentryBytes (seq : Nat) (e : FEntry) : List Byte :=
  toBytes 8 seq ++ toBytes 8 e.va ++ toBytes 8 e.pte ++
  toBytes 8 (e.code % 256 + e.core % 128 * 2 ^ 8 + e.slot % 128 * 2 ^ 16 + e.lvl % 8 * 2 ^ 24 + e.kind % 16 * 2 ^ 32 +
    e.unit % 16 * 2 ^ 36 + e.region % 64 * 2 ^ 40) ++
  toBytes 4 e.launch ++ toBytes 8 e.lanes ++ toBytes 20 0

/-- The physical address a translation would find, changing nothing. -/
def peek (s : State) (x : Xer) (va : Nat) (kind : AccKind) : Option Nat :=
  match (translate s x va kind).2 with
  | .ok r => some r.1
  | .error _ => none

/-- An interrupt raised towards the host (R280, R301, R340). -/
def raiseSignal (s : State) (kind unit : Nat) : State := { s with outs := s.outs ++ [.irq kind unit] }

/-- The entry written last has been acknowledged: FE_FQTAIL advances, and the interrupt is raised (R301). -/
def fqDone (s : State) (part : Nat) : State :=
  match (s.fe part).fqJob with
  | none => s
  | some job =>
    if s.hwaits.any fun w => w.job == some job then s
    else raiseSignal (s.modFe part fun f => { f with fqJob := none, fqtail := (f.fqtail + 1) % 8192 }) 0 part

/-- Write waiting entries while the queue has room, one after the other, each a posted device store (R301, R302). Bytes that fall
outside the partition's window are not stored (R291, log 82). -/
def drainFaults : Nat → State → Nat → State
  | 0, s, _ => s
  | n + 1, s, part =>
    let f := s.fe part
    match f.fqWaiting with
    | [] => s
    | b :: r =>
      let pa := f.fqpa / 4096 * 4096 + 64 * (f.fqtail % 4096)
      if f.fqJob.isSome || (f.fqtail + 8192 - f.fqhead) % 8192 = 4096 then s
      else match writeGate s pa 64 with
        | some t => t
        | none =>
          let job := s.nextOp
          let s0 := { s with nextOp := job + 1 }
          let s1 := if deviceAllowed f pa then deviceWrite s0 part (some job) pa b else s0
          drainFaults n (fqDone (s1.modFe part fun f => { f with fqWaiting := r, fqJob := some job }) part) part

/-- Entries of every partition that may be written, or whose store has been acknowledged (R301, R302). -/
def drainQueues (s : State) : State :=
  s.fes.foldl (fun t e =>
    if e.2.fqJob.isSome || !e.2.fqWaiting.isEmpty then drainFaults e.2.fqWaiting.length (fqDone t e.1) e.1 else t) s

/-- A fault event (R300, R301): one entry and one SEQ for each faulting page in order, the Proctor's event, and the entries
written while the queue has room. The answer is the event's name. -/
def faultEvent (s : State) (part port : Nat) (agent : Agent) (es : List FEntry) : State × Nat :=
  let ev := s.nextOp
  let base := (s.fe part).faultSeq
  let seqs := (List.range es.length).map fun i => base + 1 + i
  let s1 := { s with
    nextOp := ev + 1
    events := Tab.set s.events ev { part := part, agent := agent, seqs := seqs.map fun q => (q, false) } }
  let s2 := s1.modFe part fun f => { f with
    faultSeq := base + es.length
    fqWaiting := f.fqWaiting ++ (seqs.zip es).map fun e => fentryBytes e.1 e.2 }
  let s3 := (seqs.zip es).foldl (fun t e =>
    tap t port 8 (some part) [e.1, e.2.code % 256 + e.2.lvl % 8 * 2 ^ 8 + e.2.kind % 16 * 2 ^ 12 + e.2.core % 128 * 2 ^ 16 +
      e.2.slot % 128 * 2 ^ 24, e.2.va, e.2.va / 2 ^ 32, e.2.launch]) s2
  (drainFaults es.length s3 part, ev)

/-- What a resume of a SEQ answers (R303): 0 resumed or recorded, 1 no such entry, 2 already resumed. -/
def resumeResult (s : State) (part seq : Nat) : Nat :=
  let f := s.fe part
  if seq = 0 || f.faultSeq < seq || seq + 4096 ≤ f.faultSeq then 1
  else match s.events.find? fun e => e.2.part == part && (Tab.get? e.2.seqs seq).isSome with
    | some e => if Tab.getD e.2.seqs seq false then 2 else 0
    | none =>
      let here (e : PastEvent) : Bool := match e.uid with
        | some u => s.groups.any fun g => g.2.uid == u && g.2.state != .retired
        | none => true
      if s.past.any fun e => e.part == part && e.seqs.contains seq && here e then 2 else 1

/-- Mark a SEQ resumed or recorded (R303). The agent retries once every entry of its event is marked. -/
def markResumed (s : State) (part seq : Nat) : State :=
  match s.events.find? fun e => e.2.part == part && (Tab.get? e.2.seqs seq).isSome with
  | some e => { s with events := Tab.set s.events e.1 { e.2 with seqs := Tab.set e.2.seqs seq true } }
  | none => s

/-- Every entry of an event is resumed. -/
def FaultEvent.allResumed (e : FaultEvent) : Bool := e.seqs.all fun q => q.2

/-- The group that an agent is, or whose operation it is. -/
def agentUid (s : State) (a : Agent) : Option Nat :=
  let of (gid : Nat) : Option Nat := (Tab.get? s.groups gid).map fun g => g.uid
  match a with
  | .op id => (Tab.get? s.ops id).map fun o => o.uid
  | .fetch gid _ => of gid
  | .launchBlock gid _ => of gid
  | .access gid _ => of gid
  | .debug gid _ => of gid
  | .object gid _ => of gid
  | _ => none

/-- An event is over: its SEQs count as resumed while its agent has not gone (R303). -/
def endEvent (s : State) (ev : Nat) (e : FaultEvent) : State :=
  let p : PastEvent := { part := e.part, agent := e.agent, uid := agentUid s e.agent, seqs := Tab.keys e.seqs }
  let recent (y : PastEvent) : Bool := y.part != e.part || y.seqs.any fun q => (s.fe e.part).faultSeq < q + 4096
  { s with events := Tab.del s.events ev, past := s.past.filter recent ++ [p] }

end Sys2Proof.Machine
end

