-- ==== Sys2Proof/Machine/Paths.lean ====
section
/-! DEFINITION. A core's side of global memory: the L1 (R20), the combine buffer and its postings (R153), the near cache
(R21, R23, R231, R232, R239), host sectors (R324, R325), and where each access of a load, store or atomic is served (R152,
R159, R234). -/

namespace Sys2Proof.Machine

/-! ### Operations and groups by name -/

/-- The operation changes no architectural state: a CPF (R154). -/
def OpKind.isPrefetch : OpKind → Bool
  | .prefetch => true
  | _ => false

/-- The SO clock of a group (R239); 0 if it is gone. -/
def ptsOf (s : State) (uid : Nat) : Nat :=
  match groupBy s uid with
  | some (_, g) => g.pts
  | none => s.ops.foldl (fun n e => if e.2.uid = uid then max n e.2.pts else n) 0

/-- A group's SO clock reaches a timestamp (R239); its lines that wait in a combine buffer keep it too. -/
def raisePts (s : State) (uid ts : Nat) : State :=
  let s1 := match groupBy s uid with
    | some (k, _) => s.modGroup k fun g => { g with pts := max g.pts ts }
    | none => { s with ops := s.ops.map fun (e : Nat × Op) =>
        if e.2.uid = uid then (e.1, { e.2 with pts := max e.2.pts ts }) else e }
  { s1 with cores := s1.cores.map fun (e : Nat × Core) =>
      if e.2.cb.any fun y => y.so == some uid then
        (e.1, { e.2 with cb := e.2.cb.map fun y => if y.so == some uid then { y with pts := max y.pts ts } else y })
      else e }

/-- Whether a unit is a host sector. -/
def isSector (u : Nat) : Bool := hostBase ≤ u * 64

/-- The first address of a unit. -/
def unitBase (u : Nat) : Nat := if isSector u then u * 64 else u * 128

/-- The bytes of a unit. -/
def unitLen (u : Nat) : Nat := if isSector u then 64 else 128

/-! ### L1 -/

/-- Put a line into a core's L1 of 2,048 lines (R18, R20); the lowest line number gives way (DESIGN CHOICE, log 60). -/
def l1Put (s : State) (core line : Nat) (data : List Byte) : State :=
  s.modCore core fun c =>
    let t := if c.l1.length < 2048 then c.l1 else c.l1.tail
    { c with l1 := Tab.set t line data }

/-- Drop a line from a core's L1. -/
def l1Drop (s : State) (core line : Nat) : State :=
  if (Tab.get? (s.core core).l1 line).isSome then s.modCore core fun c => { c with l1 := Tab.del c.l1 line } else s

/-- Bytes of a partial line laid over a line. -/
def overlay (data : List Byte) (bytes : Tab Byte) : List Byte :=
  bytes.foldl (fun d (e : Nat × Byte) => d.set e.1 e.2) data

/-- A store writes through the L1 copy of its line, if there is one (R20). -/
def l1Store (s : State) (core line : Nat) (bytes : Tab Byte) : State :=
  match Tab.get? (s.core core).l1 line with
  | some d => s.modCore core fun c => { c with l1 := Tab.set c.l1 line (overlay d bytes) }
  | none => s

/-! ### Postings -/

/-- A core has a posting of a line that is not acknowledged. -/
def unacked (s : State) (core line : Nat) : Bool := s.postings.any fun e => e.2.core == core && e.2.ent.line == line

/-- A chiplet has one. -/
def chipUnacked (s : State) (chip line : Nat) : Bool :=
  s.postings.any fun e => chipOfCore e.2.core == chip && e.2.ent.line == line

/-- An acknowledgement reaches the core: the stores concerned have one line less to wait for (R153). On a UO page no probe has
reached the chiplet's own near cache, whose copy is dropped, so that the group sees its store (R151, R240). -/
def completePosting (s : State) (id ts : Nat) : State :=
  match Tab.get? s.postings id with
  | none => s
  | some p =>
    let s1 := { s with postings := Tab.del s.postings id }
    let s2 := p.ent.ops.foldl (fun t o => t.modOp o fun o => { o with waits := o.waits - 1 })
      (if p.ent.uo then nearDrop s1 (chipOfCore p.core) p.ent.line else s1)
    match p.ent.so with
    | some u => raisePts s2 u ts
    | none => s2

/-- The chiplet, other than `chip`, that holds a sector in E or M (R324). -/
def sectorOwner (s : State) (chip key : Nat) : Option Nat :=
  (s.chips.find? fun e => e.1 != chip && decide (2 ≤ (Tab.getD e.2.host key Sector.empty).st)).map (·.1)

/-- EC0 moves a sector held in E or M from one chiplet to another, without the host (R324). -/
def moveSector (s : State) (a b key : Nat) : State :=
  let x := sectorOf s a key
  let s1 := modSector s a key fun y => { y with st := 0, data := [], notice := false, poison := false }
  nearTrim (modSector s1 b key fun y => { y with st := x.st, data := x.data, poison := x.poison, used := s.clock + 1 }) b

/-- Merge a posting into the sector it writes, held in M, and count it as written to host memory (R325). -/
def mergeSector (s : State) (chip key id : Nat) : State :=
  match Tab.get? s.postings id with
  | none => s
  | some p =>
    let lo := key % 2 * 64
    let bs : Tab Byte := p.ent.bytes.map fun (e : Nat × Byte) => (e.1 - lo, e.2)
    completePosting (modSector s chip key fun y => { y with data := overlay y.data bs }) id 0

/-- What waits for a sector at a chiplet goes on: EC0 moves the sector from a chiplet that holds it in E or M and whose upgrade notice is
not under way (R324); postings are merged in M, in E the first write sends the upgrade notice, and operations try again. -/
def sectorGo (s : State) (chip key : Nat) : State :=
  let s1 := if (sectorOf s chip key).want = 0 then s
    else match sectorOwner s chip key with
      | some c => if (sectorOf s c key).notice then s else moveSector s c chip key
      | none => s
  let y := sectorOf s1 chip key
  match y.st with
  | 3 => releaseOps (y.posts.foldl (fun t id => mergeSector t chip key id) (modSector s1 chip key fun y => { y with posts := [], want := 0 })) chip key
  | 2 => releaseOps (modSector s1 chip key fun y => { y with notice := y.notice || !y.posts.isEmpty, want := 0 }) chip key
  | _ => s1

/-- Ask for a sector: in I it is a miss of the near cache, one that attaches to an open request too (R324, R337). -/
def wantSector (s : State) (chip key part gid kind own : Nat) : State :=
  let y := sectorOf s chip key
  let s1 := if y.st = 0 then tap s chip 1 (some part) [bitsAt (key * 64) 7 32, gid, kind] else s
  modSector s1 chip key fun y => { y with want := max y.want own }

/-- A posting to a host sector: merged in M; in E it waits for the upgrade notice (R324); otherwise for ownership. -/
def hostPost (s : State) (chip key id : Nat) : State :=
  let s1 := modSector s chip key fun y => { y with posts := y.posts ++ [id] }
  if 2 ≤ (sectorOf s1 chip key).st then sectorGo s1 chip key
  else
    match Tab.get? s.postings id with
      | some p => sectorGo (wantSector s1 chip key p.ent.part p.ent.gid (if p.job.isSome then 3 else 1) 2) chip key
      | none => s1

/-- Send one partial line, already out of the combine buffer (R153); `near`: an atomic's result in the near cache (R159); `job`: an
engine's write to host memory (R324). -/
def postBytes (s : State) (core : Nat) (e : CbEnt) (near : Bool) (job : Option Nat := none) : State :=
  let id := s.nextOp
  let s1 := { s with nextOp := id + 1, postings := Tab.set s.postings id { core := core, ent := e, near := near, job := job } }
  if isDevice (e.line * 128) then
    let so := e.so.map fun u => (u, max e.pts (ptsOf s u))
    send s1 (portCC (chipOfCore core)) (portMC (homeMc (e.line * 128))) (.posting id e.line e.bytes so e.uo e.part e.cls)
  else
    let half := match e.bytes with
      | b :: _ => b.1 / 64
      | [] => 0
    hostPost s1 (chipOfCore core) (e.line * 2 + half) id

/-- Post an entry; a host line goes sector by sector. -/
def postEntry (s : State) (core : Nat) (e : CbEnt) (job : Option Nat := none) : State :=
  if isDevice (e.line * 128) then postBytes s core e false
  else
    let lo : Tab Byte := e.bytes.filter fun b => b.1 < 64
    let hi : Tab Byte := e.bytes.filter fun b => decide (64 ≤ b.1)
    if lo.isEmpty || hi.isEmpty then postBytes s core e false job
    else
      let s1 := e.ops.foldl (fun t o => t.modOp o fun o => { o with waits := o.waits + 1 }) s
      postBytes (postBytes s1 core { e with bytes := lo } false job) core { e with bytes := hi } false job

/-- An entry may be posted now: the postings of one group to SO lines go one after another (R239). -/
def mayPost (s : State) (e : CbEnt) : Bool :=
  match e.so with
  | none => true
  | some u => !(s.postings.any fun p => p.2.ent.so == some u)

/-- Post the entries of a core that are wanted and may go, oldest first; the fuel is the number of entries. -/
def postWanted : Nat → State → Nat → State
  | 0, s, _ => s
  | n + 1, s, core =>
    match (s.core core).cb.find? fun e => e.want && mayPost s e with
    | none => s
    | some e => postWanted n (postEntry (s.modCore core fun c => { c with cb := c.cb.erase e }) core e) core

/-- Ask for the posting of the entries that satisfy a test (R153). -/
def wantEntries (s : State) (core : Nat) (p : CbEnt → Bool) : State :=
  if (s.core core).cb.any fun e => p e && !e.want then
    s.modCore core fun c => { c with cb := c.cb.map fun e => if p e then { e with want := true } else e }
  else s

/-- An entry can be freed for another line (R153): its posting may go, its pair is not DOWN, and the class budget where it goes does
not refuse it (R288, R350). -/
def canFree (s : State) (core : Nat) (e : CbEnt) : Bool :=
  mayPost s e && (!isDevice (e.line * 128) ||
    ((s.pair (portCC (chipOfCore core)) (portMC (homeMc (e.line * 128)))).mode != 3 &&
      budgetOk s (globalSlice (e.line * 128)) e.part e.cls))

/-- All 64 entries are in use and none can be freed (R153). -/
def cbBlocked (s : State) (core : Nat) : Bool :=
  64 ≤ (s.core core).cb.length && !(s.core core).cb.any (canFree s core)

/-- Bytes of a line may enter the combine buffer: into its entry, or into a free or freed one (R153). -/
def cbTakes (s : State) (core line : Nat) (so : Option Nat) (uo : Bool) : Bool :=
  !cbBlocked s core || (s.core core).cb.any fun e => e.line == line && e.so == so && e.uo == uo

/-- Make room for a new entry: with all 64 in use the oldest that can be freed is posted at once (R153). -/
def cbRoom (s : State) (core : Nat) : State :=
  if (s.core core).cb.length < 64 then s
  else match (s.core core).cb.find? (canFree s core) with
    | none => s
    | some e => postEntry (s.modCore core fun c => { c with cb := c.cb.erase e }) core e

/-- Put bytes of a store into the combine buffer, which takes them (R153). `gids`: the group whose store on path P0 or P6 it is; `drains`:
the group whose drain it is (R183, R185); `gid`: that group's key. -/
def cbInsert (s : State) (core line : Nat) (bytes : Tab Byte) (so : Option Nat) (uo : Bool) (op : Option Nat)
    (gids : List Nat) (part cls gid : Nat) (drains : List Nat := []) : State :=
  let same (e : CbEnt) : Bool := e.line == line && e.so == so && e.uo == uo
  let addOp (e : CbEnt) : List Nat := match op with
    | some o => if e.ops.contains o then e.ops else e.ops ++ [o]
    | none => e.ops
  let merge (e : CbEnt) : CbEnt :=
    { e with bytes := bytes.foldl (fun t (b : Nat × Byte) => Tab.set t b.1 b.2) e.bytes, ops := addOp e,
             gids := e.gids ++ gids.filter fun g => !e.gids.contains g
             drains := e.drains ++ drains.filter fun g => !e.drains.contains g
             dmask := let m := maskOfBytes bytes
               if drains.isEmpty then e.dmask - (e.dmask &&& m) else e.dmask ||| m }
  let bump (t : State) (already : Bool) : State := match op with
    | some o => if already then t else t.modOp o fun o => { o with waits := o.waits + 1 }
    | none => t
  let s1 :=
    match (s.core core).cb.find? same with
    | some e =>
      bump (s.modCore core fun c => { c with cb := c.cb.map fun y => if same y then merge y else y })
        (match op with | some o => e.ops.contains o | none => true)
    | none =>
      let e : CbEnt := merge { line := line, so := so, uo := uo, bytes := [], ops := [], gids := [], part := part,
                               cls := cls, pts := 0, first := s.clock, want := false, gid := gidOf gid }
      bump ((cbRoom s core).modCore core fun c => { c with cb := c.cb ++ [e] }) false
  let s2 := if so.isNone then l1Store s1 core line bytes else s1
  postWanted 64 (wantEntries s2 core fun e => same e && e.bytes.length == 128) core

/-! ### Atomic operations -/

/-- The new value in memory (R158): old value, operand and comparand as patterns. -/
def atomNew (aop ty old d c : Nat) : Nat :=
  let w := if ty = 2 then 64 else 32
  let val (x : Nat) : Int := if ty = 1 then (x % 2 ^ w : Nat) else sgn w x
  match aop with
  | 0 => (old + d) % 2 ^ w
  | 1 => (old + 2 ^ w - d % 2 ^ w) % 2 ^ w
  | 2 => if val d < val old then d else old
  | 3 => if val old < val d then d else old
  | 4 => old &&& d
  | 5 => old ||| d
  | 6 => old ^^^ d
  | 7 => d
  | 8 => if old = c then d else old
  | 9 => if d ≤ old then 0 else old + 1
  | 10 => if old = 0 || d < old then d else old - 1
  | 11 => (fpAdd f32 .rne old d).1
  | 12 => (fpMinMax f32 false old d).1
  | _ => (fpMinMax f32 true old d).1

/-- The accesses of an operation on a range of addresses, performed on its bytes in lane order (R151): a load takes them, an
atomic changes them. The answers are the operation, the bytes and those that were written, by offset. -/
def runLanes (o : Op) (lo : Nat) (data : List Byte) : Op × List Byte × Tab Byte :=
  let step (st : List Acc × List Byte × Tab Byte) (a : Acc) : List Acc × List Byte × Tab Byte :=
    if !a.done && decide (lo ≤ a.pa) && a.pa < lo + data.length then
      let k := a.pa - lo
      let old := (st.2.1.drop k).take a.n
      let a2 := { a with data := old, sent := true, done := true }
      match o.kind with
      | .atomic =>
        let l := if o.uni then 0 else a.lane
        let new := toBytes a.n (atomNew o.aop o.ty (ofBytes old) (Tab.getD o.data l 0) (Tab.getD o.cmp l 0))
        let bs : Tab Byte := (List.range a.n).map fun i => (k + i, nth new i 0)
        (st.1 ++ [a2], overlay st.2.1 bs, bs.foldl (fun t (b : Nat × Byte) => Tab.set t b.1 b.2) st.2.2)
      | _ => (st.1 ++ [a2], st.2.1, st.2.2)
    else (st.1 ++ [a], st.2.1, st.2.2)
  let r := o.acc.foldl step ([], data, [])
  ({ o with acc := r.1 }, r.2.1, r.2.2)

/-! ### Near cache -/

/-- Where an atomic is executed (R159): 1 the L1, 2 the near cache or the host sector, 3 the home slice. One on an SO page is
executed at the home, since an SO access is never served by an L1 (DEDUCED, log 19). -/
def atomPlace (s : State) (o : Op) (a : Acc) : Nat :=
  if isHost a.pa then (if o.scope ≤ 1 then 1 else 2)
  else if a.ord = 1 || lineHostBias s (lineOf a.pa) || (s.hline (lineOf a.pa)).flip = 1 then 3
  else if o.scope ≤ 1 then 1
  else if o.scope = 2 then 2
  else 3

/-- At which level a load reads (R234): 1 the L1 and the combine buffer, 2 the near cache. -/
def loadLevel (o : Op) (a : Acc) : Nat :=
  if a.ord = 1 then 2
  else if o.order = 0 || o.scope ≤ 1 then 1
  else 2

/-- An sc load of scope dev or sys waits while probes of its line are unanswered: until then some near cache may still serve the bytes from
before the write that this one would return, and R236 has one order of all sc accesses (DEDUCED, log 20). -/
def scHeld (s : State) (o : Op) (line : Nat) : Bool :=
  o.order == 5 && decide (3 ≤ o.scope) && s.hwaits.any fun w => w.line == line

/-- The level of an access of an operation. -/
def accLevel (s : State) (o : Op) (a : Acc) : Nat :=
  match o.kind with
  | .atomic => atomPlace s o a
  | _ => loadLevel o a

/-- An access of an atomic that its home executes (R159). -/
def atHome (s : State) (o : Op) (a : Acc) : Bool := match o.kind with
  | .atomic => atomPlace s o a == 3
  | _ => false

/-- Accesses of an operation on a unit that are neither done nor asked for. -/
def openAccs (o : Op) (u : Nat) : List Acc := o.acc.filter fun a => !a.done && !a.sent && unitOf a.pa == u

/-- How many of `n` bytes stand in a core's combine buffer (R231). -/
def cbBytes (c : Core) (pa n : Nat) : Nat :=
  ((List.range n).filter fun i =>
    c.cb.any fun e => e.so.isNone && e.line == lineOf (pa + i) && (Tab.get? e.bytes ((pa + i) % 128)).isSome).length

/-- How many bytes of an access stand there. -/
def cbCount (c : Core) (a : Acc) : Nat := cbBytes c a.pa a.n

/-- The bytes of the combine buffer on a line, over `data`. -/
def cbOver (c : Core) (line : Nat) (data : List Byte) : List Byte :=
  c.cb.foldl (fun d e => if e.so.isNone && e.line == line then overlay d e.bytes else d) data

/-- The offset of a unit in its 128-byte line. -/
def unitOff (u : Nat) : Nat := unitBase u % 128

/-- Halves of a line that operations read (R320): a bit for each 64 bytes. -/
def halvesOf (s : State) (line : Nat) (ids : List Nat) : Nat :=
  ids.foldl (fun m id => match Tab.get? s.ops id with
    | some o => o.acc.foldl (fun m a => if lineOf a.pa == line && !a.done then m ||| 2 ^ (a.pa % 128 / 64) else m) m
    | none => m) 0

/-- An operation misses the near cache at an address: kind 0 load, 1 store, 2 atomic (R337). -/
def missed (s : State) (chip part gid kind pa : Nat) : State := tap s chip 1 (some part) [bitsAt pa 7 32, gidOf gid, kind]

/-- The kind of an operation's miss. -/
def missKind (o : Op) : Nat := match o.kind with
  | .atomic => 2
  | _ => 0

/-- The near cache asks the home for a line, for the operations `ids` (R21, R23). -/
def requestLine (s : State) (chip line : Nat) (ids : List Nat) : State :=
  match ids with
  | [] => s
  | id :: _ =>
    match Tab.get? s.ops id with
    | none => s
    | some o =>
      let ord := match o.acc.find? fun a => lineOf a.pa == line with
        | some a => a.ord
        | none => 0
      let so := if ord = 1 && !o.kind.isPrefetch then some (o.uid, ptsOf s o.uid) else none
      let s1 := s.modChip chip fun c => { c with
        reqs := Tab.set c.reqs line { ops := ids, late := [], again := [], probes := [], uo := ord == 2, asked := ids } }
      let s2 := missed s1 chip o.part o.gid (missKind o) (line * 128)
      send s2 (portCC chip) (portMC (homeMc (line * 128)))
        (.loadReq line (halvesOf s line ids) so (ord == 2) o.part o.cls)

/-- An operation needs a line that the near cache cannot serve: attach to an outstanding request (R23), or ask. One needs a request of its
own behind that of a UO load, whose copy the directory does not track, unless it is a UO load too (R233, R235); a UO load behind a FENCE
that has passed since the request was sent (R240). -/
def needLine (s : State) (chip line id : Nat) (uo : Bool) : State :=
  match Tab.get? (s.chip chip).reqs line with
  | none => requestLine s chip line [id]
  | some r =>
    let own := (r.uo && !uo) || (r.closed && uo)
    let r2 := if own then { r with again := r.again ++ [id] }
      else if r.probes.isEmpty then { r with ops := r.ops ++ [id] }
      else { r with late := r.late ++ [id] }
    let s1 := s.modChip chip fun c => { c with reqs := Tab.set c.reqs line r2 }
    match own, Tab.get? s.ops id with
    | false, some o => missed s1 chip o.part o.gid (missKind o) (line * 128)
    | _, _ => s1

/-! ### Performing accesses -/

/-- The bytes of a unit that an atomic touches are free of poison. -/
def markClean (o : Op) (u : Nat) : Op := match o.kind with
  | .atomic => { o with acc := o.acc.map fun a => if unitOf a.pa == u then { a with clean := true } else a }
  | _ => o

/-- No lane of an atomic is performed before the bytes of all are known to be free of poison (R300, R371): those that a home executes are
tested when it starts (`startOp`), the others once their bytes are there. -/
def mayPerform (s : State) (o : Op) : Bool := match o.kind with
  | .atomic => o.acc.all fun a => a.done || a.clean || atHome s o a
  | _ => true

/-- Perform an operation's accesses on a unit, given its bytes, at a level: 1 in the L1, 2 in the near cache. A new value is
posted as a byte-masked write (R159). -/
def performUnit (s : State) (id u level : Nat) (data : List Byte) : State :=
  match (Tab.get? s.ops id).map (markClean · u) with
  | none => s
  | some o =>
    if !mayPerform s o then s.modOp id fun _ => o
    else
    let core := coreOf o.gid
    let line := unitBase u / 128
    let r := runLanes o (unitBase u) data
    let s1 := s.modOp id fun _ => r.1
    if r.2.2.isEmpty then s1
    else
      let bytes : Tab Byte := r.2.2.map fun (b : Nat × Byte) => (b.1 + unitOff u, b.2)
      let uo := o.acc.any fun a => a.ord == 2 && unitOf a.pa == u
      if level = 1 then cbInsert s1 core line bytes none uo none [o.uid] o.part o.cls o.gid
      else if isSector u then modSector s1 (chipOfCore core) u fun y => { y with data := r.2.1 }
      else
        let s2 := s1.modChip (chipOfCore core) fun c =>
          { c with near := Tab.upd c.near line fun l => { l with data := r.2.1 } }
        postBytes (l1Drop s2 core line) core
          { line := line, so := none, uo := uo, bytes := bytes, ops := [], gids := [o.uid], part := o.part,
            cls := o.cls, pts := 0, first := s.clock, want := false, gid := gidOf o.gid } true

/-- After a load has its line, the L1 keeps it (R21), unless it is NT or may not be kept (`keep`); not while a posting of the core on
the line is not acknowledged. Otherwise no older copy stays in the L1. -/
def fillL1 (s : State) (o : Op) (line : Nat) (keep : Bool) (data : List Byte) : State :=
  let core := coreOf o.gid
  if keep && !o.nt && !unacked s core line && data.length == 128 then
    l1Put s core line (cbOver (s.core core) line data)
  else l1Drop s core line

/-- Serve the accesses of an operation on a unit from the near cache or the host sector, or ask for it (R21, R152, R324). While an
atomic's result is on its way from the near cache, no request for its line is made: the home would answer with older bytes
(R230). -/
def serveNear (s : State) (id u level : Nat) (o : Op) (a : Acc) : State :=
  let core := coreOf o.gid
  let chip := chipOfCore core
  let line := unitBase u / 128
  let atom := match o.kind with | .atomic => true | _ => false
  if isSector u then
    let y := sectorOf s chip u
    let await (t : State) : State := markSent (modSector t chip u fun y => { y with ops := y.ops ++ [id] }) id u true
    let used (t : State) : State := modSector t chip u fun y => { y with used := if o.nt then 0 else s.clock + 1 }
    if atom && level ≠ 1 then
      match y.st with
      | 3 => if y.poison then s else performUnit (used s) id u 2 y.data
      | 2 => await (modSector s chip u fun y => { y with notice := true })
      | _ => await (wantSector s chip u o.part (gidOf o.gid) 2 2)
    else if 1 ≤ y.st then (if y.poison then s else performUnit (used s) id u level y.data)
    else await (wantSector s chip u o.part (gidOf o.gid) (missKind o) 1)
  else
    let hit := match Tab.get? (s.chip chip).near line with
      | some l => if (!l.uo || a.ord == 2) && (a.ord ≠ 1 || ptsOf s o.uid ≤ l.rts) then some l else none
      | none => none
    match hit with
    | some l =>
      if !atom && a.ord ≠ 1 && scHeld s o line then s
      else
      let s1 := s.modChip chip fun c =>
        { c with near := Tab.set c.near line { l with used := if o.nt then 0 else s.clock + 1 } }
      let s2 := if a.ord = 1 && !o.kind.isPrefetch then raisePts s1 o.uid (max (ptsOf s o.uid) l.wts) else s1
      if atom then performUnit s2 id u level l.data else performUnit (fillL1 s2 o line (a.ord != 1) l.data) id u level l.data
    | none => if nearBusy s chip line then s else markSent (needLine s chip line id (a.ord == 2)) id u true

/-- The next lanes of an atomic that go to a home: consecutive lanes on one line, in lane order (R151, R237). -/
def nextRun (s : State) (o : Op) : Option (Nat × List Nat) :=
  match o.acc.zipIdx.dropWhile fun e => e.1.done || e.1.sent || !atHome s o e.1 with
  | [] => none
  | e :: r =>
    let u := unitOf e.1.pa
    some (u, e.2 :: (r.takeWhile fun y => !y.1.done && !y.1.sent && unitOf y.1.pa == u && atHome s o y.1).map (·.2))

/-- Lanes of an atomic are sent to their home (R237); the L1 keeps no copy of the line. -/
def sendAtomic (s : State) (id u : Nat) (idx : List Nat) (o : Op) : State :=
  let so := if o.acc.any fun a => unitOf a.pa == u && a.ord == 1 then some (o.uid, ptsOf s o.uid) else none
  let s1 := (l1Drop s (coreOf o.gid) u).modOp id fun o => { o with
    acc := o.acc.zipIdx.map fun e => if idx.contains e.2 then { e.1 with sent := true } else e.1 }
  send s1 (portCC (chipOfCore (coreOf o.gid))) (portMC (homeMc (u * 128))) (.atomReq id u idx so o.part o.cls)

/-- Two operations access a common line. -/
def sharesLine (a b : Op) : Bool := a.acc.any fun x => b.acc.any fun y => lineOf x.pa == lineOf y.pa

/-- An atomic may enter its chiplet's sequencer (R237): the group's earlier ones have; but one that returns its old value may go before
an earlier one to other lines that discards it. How long such a one is held back is free (log 10). -/
def seqTurn (s : State) (id : Nat) (o : Op) : Bool :=
  (o.dest.isSome || decide (o.born + Config.holdAtomic id % 64 ≤ s.clock)) &&
  s.ops.all fun e => !(e.1 < id && e.2.uid == o.uid && e.2.acc.any fun a => !a.sent && !a.done && atHome s e.2 a) ||
    (e.2.dest.isNone && o.dest.isSome && !sharesLine e.2 o)

/-- The fragment that issued an operation parks BACKPRESS while no combine-buffer entry can be freed for it (R153; log 106). -/
def parkIssuer (s : State) (o : Op) : State :=
  match groupBy s o.uid with
  | none => s
  | some (gid, g) => match g.namedFrag o.frag with
    | some (fi, f) => if f.cond == .ready then s.modFrag gid fi fun f => { f with cond := parkCond s gid (.back 0) } else s
    | none => s

/-- Try to perform, or to ask for, the accesses of an operation on a unit. What must wait stays as it is: for the core's own
bytes to be acknowledged, and for a chiplet's own results before a coh atomic (R151, R231). -/
def tryUnit (s : State) (id u : Nat) : State :=
  match Tab.get? s.ops id with
  | none => s
  | some o =>
    match (openAccs o u).filter fun a => !atHome s o a with
    | [] => s
    | a :: t =>
      let core := coreOf o.gid
      let line := unitBase u / 128
      let c := s.core core
      let level := accLevel s o a
      let atom := match o.kind with | .atomic => true | _ => false
      let accs := a :: t
      let inCb := accs.map (cbCount c)
      let full := (accs.zip inCb).all fun p => p.2 == p.1.n
      let none := inCb.all (· == 0)
      if level = 1 then
        if atom && !cbTakes s core line .none (a.ord == 2) then parkIssuer s o
        else match Tab.get? c.l1 line with
        | some d =>
          if atom && unacked s core line then s
          else performUnit s id u 1 ((cbOver c line d).drop (unitOff u) |>.take (unitLen u))
        | .none =>
          if full then performUnit s id u 1 ((cbOver c line (List.replicate 128 0)).drop (unitOff u) |>.take (unitLen u))
          else if !none then postWanted 64 (wantEntries s core fun e => e.line == line && e.so.isNone) core
          else if unacked s core line then s
          else serveNear s id u 1 o a
      else if !none then postWanted 64 (wantEntries s core fun e => e.line == line && e.so.isNone) core
      else if unacked s core line then s
      else if atom && level = 2 && !isSector u && chipUnacked s (chipOfCore core) line then s
      else serveNear s id u level o a

/-- Send what an atomic has for its homes, run by run, until one must wait for the core's own bytes (R151, R237). The fuel is the number
of its accesses. -/
def sendRuns : Nat → State → Nat → State
  | 0, s, _ => s
  | n + 1, s, id =>
    match Tab.get? s.ops id with
    | none => s
    | some o => match if mayPerform s o then nextRun s o else none with
      | none => s
      | some (u, idx) =>
        let core := coreOf o.gid
        let mine (e : CbEnt) : Bool := e.line == u && e.so.isNone
        if (s.core core).cb.any mine then postWanted 64 (wantEntries s core mine) core
        else if unacked s core u || !seqTurn s id o then s
        else sendRuns n (sendAtomic s id u idx o) id

/-- The units of an operation's accesses, in order. -/
def unitsOf (o : Op) : List Nat := (o.acc.map fun a => unitOf a.pa).eraseDups

/-- Whether an operation accesses an SO page. -/
def hasSo (o : Op) : Bool := o.acc.any fun a => a.ord == 1

/-- Go on with a load, atomic or prefetch: all its units at once; on SO pages one after another (R239). -/
def goOnLoad (s : State) (id : Nat) (o : Op) : State :=
  if hasSo o then
    if o.acc.any fun a => a.sent && !a.done then s
    else match o.acc.find? fun a => !a.done && (mayPerform s o || !(a.clean || atHome s o a)) with
      | some a => sendRuns 1 (tryUnit s id (unitOf a.pa)) id
      | none => s
  else sendRuns o.acc.length ((unitsOf o).foldl (fun t u => tryUnit t id u) s) id

/-- The bytes of a store on a 128-byte line, the highest lane last (R151). -/
def storeBytes (o : Op) (line : Nat) : Tab Byte :=
  o.acc.foldl (fun t a =>
    if lineOf a.pa == line && !a.done then
      (a.data.zip (List.range a.n)).foldl (fun t (b : Byte × Nat) => Tab.set t (a.pa % 128 + b.2) b.1) t
    else t) []

/-- A fragment of the group waits at a clause entry for a flag (R28). -/
def flagAwaited (s : State) (uid : Nat) (flag : Option Nat) : Bool :=
  match flag, groupBy s uid with
  | some n, some (_, g) => g.frags.any fun e => match e.2.cond with
    | .parked (.flags m) _ _ => bitAt m n
    | _ => false
  | _, _ => false

/-- Put a store's bytes on one line into the combine buffer, if it takes them, or park the fragment that issued it; they are posted at
once where a clause wait on the store's flag has begun (R153). -/
def storeLine (s : State) (id line : Nat) (o : Op) : State :=
  let ord := match o.acc.find? fun a => lineOf a.pa == line with
    | some a => a.ord
    | none => 0
  let core := coreOf o.gid
  let so := if ord = 1 then some o.uid else none
  if !cbTakes s core line so (ord == 2) then parkIssuer s o
  else
    let s1 := cbInsert s core line (storeBytes o line) so (ord == 2) (some id) [o.uid] o.part o.cls o.gid
    let s2 := s1.modOp id fun o => { o with
      acc := o.acc.map fun a => if lineOf a.pa == line then { a with done := true } else a }
    if flagAwaited s2 o.uid o.flag then postWanted 64 (wantEntries s2 core fun e => e.ops.contains id) core else s2

/-- Go on with a store: its bytes enter the combine buffer; on SO pages line by line, each posted and acknowledged before the
next (R239). -/
def goOnStore (s : State) (id : Nat) (o : Op) : State :=
  if hasSo o then
    match o.acc.find? fun a => !a.done with
    | none => s
    | some a => if o.waits = 0 then
        let s1 := storeLine s id (lineOf a.pa) o
        let more := match Tab.get? s1.ops id with
          | some o => o.acc.any fun a => !a.done
          | none => false
        if more then
          postWanted 64 (wantEntries s1 (coreOf o.gid) fun e => e.ops.contains id) (coreOf o.gid)
        else s1
      else s
  else
    ((o.acc.filter fun a => !a.done).map fun a => lineOf a.pa).eraseDups.foldl (fun t l =>
      match Tab.get? t.ops id with
      | some o => storeLine t id l o
      | none => t) s

/-- A fence of the group stands between an operation of name `id` on a path and its turn (R162, R163). -/
def fenceHolds (s : State) (uid id path : Nat) : Bool :=
  s.ops.any fun e => e.1 < id && e.2.uid == uid && (match e.2.kind with | .fence => e.2.dst.contains path | _ => false)

end Sys2Proof.Machine
end

