-- ==== Sys2Proof/Machine/Home.lean ====
section
/-! DEFINITION. Requests at a home: class budgets (R288), grants (R21), postings (R231), atomics (R159, R160, R237), host accesses (R318
to R323), and the answers to probes (R231). -/

namespace Sys2Proof.Machine

/-! ### Serving -/

/-- A load at its home (R21): a grant if the near cache may keep the line, otherwise the bytes alone. -/
def grantLine (s : State) (chip line : Nat) (so : Option (Nat × Nat)) (uo : Bool) : State :=
  let h := s.hline line
  let keep := !lineHostBias s line && h.flip ≠ 1
  let r := match so with
    | some (u, p) => let q := soLoad h p; (q.1, some (u, q.2))
    | none => (h, none)
  let h2 := if keep && !uo then { r.1 with holders := r.1.holders ||| 2 ^ chip } else r.1
  let s1 := leaveLine (s.modHline line fun _ => h2) line
  send s1 (portMC (homeMc (line * 128))) (portCC chip)
    (.grant line (lineBytes s line) h2.seq h2.wts h2.rts r.2 uo keep h2.poison.isSome)

/-- The tag word of an update (R160). -/
def tagWord (seq line : Nat) : Nat := seq % 2 ^ 16 + globalSlice (line * 128) * 2 ^ 16

/-- The lanes of an atomic on one line, performed at the home in increasing order (R159, R160): the new state, old values, tag
words and the last SO timestamp. -/
def atomicLanes (s : State) (o : Op) (line : Nat) (so : Option Nat) (idx : List Nat) :
    State × List (List Byte) × List Nat × Nat :=
  idx.foldl (fun (st : State × List (List Byte) × List Nat × Nat) i =>
    match o.acc[i]? with
    | none => st
    | some a =>
      let old := Memory.readN st.1.mem a.pa a.n
      let l := if o.uni then 0 else a.lane
      let new := toBytes a.n (atomNew o.aop o.ty (ofBytes old) (Tab.getD o.data l 0) (Tab.getD o.cmp l 0))
      let bs : Tab Byte := (List.range a.n).map fun k => (a.pa % 128 + k, nth new k 0)
      let r := mergeLine st.1 o.part line bs (so.map fun p => max p st.2.2.2)
      (r.1, st.2.1 ++ [old], st.2.2.1 ++ [tagWord (r.1.hline line).seq line], r.2)) (s, [], [], 0)

/-- An access of the host that reaches an SO page (R318, R319). -/
def hostSo (s : State) (pa : Nat) : Bool :=
  bitAt s.hp.sobase 0 && decide (bitsAt s.hp.sobase 12 28 ≤ pa / 4096) && decide (pa / 4096 ≤ bitsAt s.hp.solim 12 28)

/-- The number that stands for the host where a partition is asked for: no front end has it (R285, R286). -/
def hostPart : Nat := 32

/-- The host's chiplet number among held requests. -/
def hostChip : Nat := 99

/-- Answer the host with bytes of device memory (R320): `grant` 0 none, 1 shared, 2 owned. -/
def answerHost (s : State) (pa n grant : Nat) : State :=
  { s with outs := s.outs ++ [.data pa (Memory.readN s.mem pa n) grant ((s.hline (pa / 128)).poison.isSome)] }

/-- The clock of the host port at a read of an SO page: an SO load (R239, R318). -/
def hostLoads (s : State) (pa : Nat) : State :=
  if hostSo s pa then
    let r := soLoadAt s (pa / 128) s.hp.pts
    { r.1 with hp := { r.1.hp with pts := r.2 } }
  else s

/-- A host read at the home. -/
def hostRead (s : State) (pa n : Nat) : State := answerHost (hostLoads s pa) pa n 0

/-- A write to a registered object is dropped: counted, and a Proctor event, at the unit that holds an entry (R264, R337). -/
def countDrop (s : State) (e : AttEnt) (part gid addr : Nat) : State :=
  let unit := chipOfCore (coreOf e.gid)
  tap (s.modChip unit fun c => { c with attDrops := c.attDrops + 1 }) unit 16 (some part) [3, gid, addr]

/-- Bytes of an engine's or the host's write that reach a registered object with WAITING entries are dropped and counted: an
event at the unit that holds an entry (R264, R337). The answer holds the bytes that stand. The host has no GID, and its event
belongs to the entry's partition. -/
def dropRegistered (s : State) (part : Option Nat) (gid line : Nat) (bytes : Tab Byte) : State × Tab Byte :=
  let hit (b : Nat × Byte) : Option AttEnt := waitedObject s none (line * 128 + b.1) 1
  match bytes.find? fun b => (hit b).isSome with
  | none => (s, bytes)
  | some b =>
    match hit b with
    | none => (s, bytes)
    | some e =>
      (countDrop s e (part.getD e.part) gid (line * 128 + b.1), bytes.filter fun b => (hit b).isNone)

/-- A host write merged at the home as a posting (R231, R318). -/
def hostMerge (s : State) (line : Nat) (bytes : Tab Byte) : State :=
  let so := hostSo s (line * 128)
  let d := dropRegistered s none 0 line bytes
  if d.2.isEmpty then d.1
  else
    let r := mergeLine d.1 hostPart line d.2 (if so then some s.hp.pts else none)
    let s1 := if so then { r.1 with hp := { r.1.hp with pts := max r.1.hp.pts r.2 } } else r.1
    probeAndReply s1 line none none

/-- A request for a copy (R320): granted in host bias, where the half becomes HOST-S or HOST-A; otherwise answered as a read. -/
def hostCopy (s : State) (line half : Nat) (own : Bool) : State :=
  let pa := line * 128 + half * 64
  if lineHostBias s line then
    let st := if own then 2 else 1
    let s1 := (hostLoads s pa).modHline line fun h => { h with
      passed := h.passed &&& (3 - 2 ^ half)
      host0 := if half = 0 then max h.host0 st else h.host0
      host1 := if half = 0 then h.host1 else max h.host1 st }
    answerHost s1 pa 64 st
  else hostRead s pa 64

/-- A flip holds host reads of a line: it is FLUSHING or RECALLING (R323). -/
def flipHolds (s : State) (line : Nat) : Bool := (s.hline line).flip == 1 || (s.hline line).flip == 3

/-- Serve a host access at its home, or say that it must be held: reads of a FLUSHING line, everything on a RECALLING one (R323), a
request for a copy of a half while a snoop for it is outstanding. -/
def hostTry (s : State) (r : HostReq) : State × Bool :=
  match r with
  | .read pa n => if flipHolds s (pa / 128) then (s, false) else (hostRead s pa n, true)
  | .copy line half own =>
    if flipHolds s line || bitAt (s.hline line).snoop half then (s, false) else (hostCopy s line half own, true)
  | .write line bytes =>
    if (s.hline line).flip = 3 || !seqRoom s line 1 then (s, false) else (hostMerge s line bytes, true)

/-- The bytes of a line that the lanes of an atomic touch, as a mask. -/
def lanesMask (s : State) (op : Nat) (idx : List Nat) : Nat :=
  match Tab.get? s.ops op with
  | none => 0
  | some o => (idx.filterMap fun i => o.acc[i]?).foldl (fun k a => k ||| byteMask (a.pa % 128) a.n) 0

/-- The halves that the lanes of an atomic touch. -/
def lanesHalves (s : State) (op : Nat) (idx : List Nat) : Nat := maskHalves (lanesMask s op idx)

/-- The bytes of a posting that its core's drains wrote and that reach a registered object with WAITING entries are dropped and counted
(R264). -/
def dropDrained (s : State) (id part line : Nat) (bytes : Tab Byte) : State × Tab Byte :=
  match Tab.get? s.postings id with
  | none => (s, bytes)
  | some p =>
    if p.ent.dmask = 0 then (s, bytes)
    else
      let gid := match p.ent.drains with
        | u :: _ => (groupBy s u).elim 0 fun g => gidOf g.1
        | [] => 0
      let r := dropRegistered s (some part) gid line (bytes.filter fun b => bitAt p.ent.dmask b.1)
      (r.1, bytes.filter fun b => !bitAt p.ent.dmask b.1 || (Tab.get? r.2 b.1).isSome)

/-- A posted partial line is merged, the holders probed, and the posting acknowledged with the line's new sequence number and its global
slice number (R153, R231). -/
def mergePosting (s : State) (chip id line : Nat) (bytes : Tab Byte) (so : Option (Nat × Nat)) (part : Nat) : State :=
  let d := dropDrained s id part line bytes
  let slice := globalSlice (line * 128)
  if d.2.isEmpty && !bytes.isEmpty then
    send d.1 (portMC (homeMc (line * 128))) (portCC chip) (.postAck id (d.1.hline line).seq slice 0)
  else
    let r := mergeLine d.1 part line d.2 (so.map (·.2))
    probeAndReply r.1 line (some (chip, .postAck id (r.1.hline line).seq slice r.2)) none

/-- The way mask at the lookup of a chiplet's load that missed (R286). -/
def missMask (s : State) (chip part line : Nat) : Nat := (Tab.get? (s.hline line).ways chip).getD (maskOfLine s part line)

/-- A chiplet's load of a line has been granted, its lookup done. -/
def missOver (s : State) (chip line : Nat) : State :=
  if (s.hline line).ways.isEmpty then s else s.modHline line fun h => { h with ways := Tab.del h.ways chip }

/-- Serve a request at its home, or say that it must be held (second part false). `dram`: its DRAM read has ended. A miss keeps the way
mask of its lookup (R286). -/
def homeTry (s : State) (chip : Nat) (m : Msg) (dram : Bool) : State × Bool :=
  match m with
  | .loadReq line halves so uo part _ =>
    match homeGate s line halves (s.hline line).passed with
    | .hold n => (askSnoop s line n true, false)
    | .go =>
      if (s.hline line).cached.isSome then (grantLine (missOver s chip line) chip line so uo, true)
      else if dram then (grantLine (missOver (allocLine s part line (missMask s chip part line)) chip line) chip line so uo, true)
      else (s.modHline line fun h => { h with
        dram := true, dramAt := if h.dram then h.dramAt else s.clock, ways := Tab.set h.ways chip (missMask s chip part line) }, false)
  | .posting id line bytes so _ part _ =>
    if !seqRoom s line 1 then (s, false)
    else match homeGate s line (maskHalves (maskOfBytes bytes)) 0 with
      | .hold n => (askSnoop s line n false, false)
      | .go => (mergePosting s chip id line bytes so part, true)
  | .atomReq op line idx so _ _ =>
    match Tab.get? s.ops op with
    | none => (s, true)
    | some o =>
      if !seqRoom s line idx.length then (s, false)
      else match homeGate s line (lanesHalves s op idx) 0 with
        | .hold n => (askSnoop s line n false, false)
        | .go =>
          if (s.hline line).poison.isSome then
            (send s (portMC (homeMc (line * 128))) (portCC chip) (.atomReply op idx [] [] 0 true), true)
          else
            let r := atomicLanes s o line (so.map (·.2)) idx
            (probeAndReply r.1 line (some (chip, .atomReply op idx r.2.1 r.2.2.1 r.2.2.2 false)) none, true)
  | .host r => hostTry s r
  | _ => (s, true)

/-- The line that a request is about. -/
def msgLine : Msg → Nat
  | .loadReq line _ _ _ _ _ => line
  | .posting _ line _ _ _ _ _ => line
  | .atomReq _ line _ _ _ _ => line
  | .host (.read pa _) => pa / 128
  | .host (.copy line _ _) => line
  | .host (.write line _) => line
  | _ => 0

/-- The bytes of its line that a write, or a host access, reaches, as a mask; none for a load of the device. -/
def msgMask (s : State) : Msg → Nat
  | .posting _ _ bytes _ _ _ _ => maskOfBytes bytes
  | .atomReq op _ idx _ _ _ => lanesMask s op idx
  | .host (.read pa n) => byteMask (pa % 128) n
  | .host (.copy _ half _) => byteMask (64 * half) 64
  | .host (.write _ bytes) => maskOfBytes bytes
  | _ => 0

/-- A request held for a line stands before a later one that reaches a byte of it (R231, R318): both write and are the device's, or a host
write before a host access. No load of the device holds up another access, nor does a device access wait for the host's held ones or a
host write for held reads (R320, R323). -/
def standsBefore (s : State) (a b : Msg) : Bool :=
  msgMask s a &&& msgMask s b != 0 && (match a, b with
    | .host (.write _ _), .host _ => true
    | .host _, _ => false
    | _, .host _ => false
    | _, _ => true)

/-- Hold a request at its home. -/
def holdAt (s : State) (line chip : Nat) (m : Msg) : State := s.modHline line fun h => { h with held := h.held ++ [(chip, m)] }

/-- Serve a request at its home, or hold it, behind those held for its line that stand before it (R231, R323). -/
def homeServe (s : State) (chip : Nat) (m : Msg) (dram : Bool) : State :=
  let line := msgLine m
  if (s.hline line).held.any fun h => standsBefore s h.2 m then holdAt s line chip m
  else match homeTry s chip m dram with
    | (t, true) => t
    | (t, false) => holdAt t line chip m

/-- A load that a BISnpData lets pass has been served. -/
def loadServed (s : State) (line halves : Nat) : State :=
  if (s.hline line).passed = 0 then s else s.modHline line fun h => { h with passed := h.passed &&& (3 - halves) }

/-- A request arrives at its home. -/
def homeArrive (s : State) (chip : Nat) (m : Msg) : State :=
  let t := homeServe s chip m false
  match m with
  | .loadReq line halves _ _ _ _ => if (t.hline line).held.length = (s.hline line).held.length then loadServed t line halves else t
  | _ => t

/-- Try the requests held for a line anew, in their order. -/
def serveHeld (s : State) (line : Nat) (dram : Bool) : State :=
  let l := (s.hline line).held
  if l.isEmpty then s
  else l.foldl (fun t h => homeServe t h.1 h.2 dram) (s.modHline line fun h => { h with held := [] })

/-- A write that an engine makes at the home, under its job's name (R251, R264). -/
def engineWrite (s : State) (job part uid line : Nat) (bytes : Tab Byte) (pts : Option Nat) (gid : Nat) :
    State × Nat :=
  let d := dropRegistered s (some part) gid line bytes
  if d.2.isEmpty then (d.1, 0)
  else
    let r := mergeLine d.1 part line d.2 pts
    let s2 := match pts with
      | some _ => raisePts r.1 uid r.2
      | none => r.1
    (probeAndReply s2 line none (some job), r.2)

/-! ### The home's steps -/

/-- The head of a pair's receive buffer. -/
def inboxHead (s : State) (i j : Nat) : Option Msg := (s.pair i j).inbox.head?.map (·.2)

/-- The GID of the source of a request from a compute chiplet (R337). -/
def reqGid (s : State) (chip : Nat) (m : Msg) : Nat :=
  let ofOp (id : Nat) : Nat := match Tab.get? s.ops id with
    | some o => uidGid s o.uid
    | none => 0
  match m with
  | .loadReq line _ _ _ _ _ => match Tab.get? (s.chip chip).reqs line with
    | some r => match r.ops with
      | id :: _ => ofOp id
      | [] => 0
    | none => 0
  | .posting id _ _ _ _ _ _ => match Tab.get? s.postings id with
    | some p => match p.ent.gids with
      | u :: _ => uidGid s u
      | [] => 0
    | none => 0
  | .atomReq op _ _ _ _ _ => ofOp op
  | _ => 0

/-- The slice where a request goes. -/
def msgSlice (m : Msg) : Nat := globalSlice (msgLine m * 128)

/-- The class budget accepts a request at its slice. -/
def fitsBudget (s : State) (m : Msg) : Bool := match reqOf m with
  | some (part, cls) => budgetOk s (msgSlice m) part cls
  | none => false

/-- An atomic waits in its buffer while an earlier one of its chiplet is held at the same home: a home processes the atomics of a chiplet in
the order of its sequencer (R237). -/
def atomWaits (s : State) (chip : Nat) (m : Msg) : Bool :=
  let atom (m : Msg) : Bool := match m with | .atomReq _ _ _ _ _ _ => true | _ => false
  atom m && s.hlines.any fun h => globalSlice (h.1 * 128) == msgSlice m && h.2.held.any fun q => q.1 == chip && atom q.2

/-- A request that came `since` waits while another at the same slice, which could be served now, goes first: by its rank in this slot, then by
its age (R288). -/
def outranked (s : State) (mc since : Nat) (m : Msg) : Bool :=
  (List.range 16).any fun c => (openMsgs (s.pair (portCC c) (portMC mc)).inbox).any fun y =>
    msgSlice y.2.2 == msgSlice m && fitsBudget s y.2.2 && !atomWaits s c y.2.2 &&
      (decide (msgRank s y.2.2 < msgRank s m) || (msgRank s y.2.2 == msgRank s m && decide (y.2.1 < since)))

/-- A request may be served now at its slice: its class budget accepts it, none goes before it, and an atomic's turn has come. -/
def mayServe (s : State) (chip mc since : Nat) (m : Msg) : Bool :=
  fitsBudget s m && !outranked s mc since m && !atomWaits s chip m

/-- Serve the first request of a pair from a compute chiplet that is of the kind `want`, within its class budget and not outranked; `want`
says how many bytes it counts (R288). -/
def homeStep (s : State) (chip mc : Nat) (want : Msg → Option Nat) : State :=
  let box := (s.pair (portCC chip) (portMC mc)).inbox
  let mine := (openMsgs box).filter fun e => (want e.2.2).isSome
  match mine.find? fun e => mayServe s chip mc e.2.1 e.2.2 with
  | some (k, _, m) => match reqOf m, want m with
    | some (part, cls), some n =>
      homeArrive (takeInbox (budgetUse s (msgSlice m) part cls n) (portCC chip) (portMC mc) k) chip m
    | _, _ => s
  | none => match mine.find? fun e => !fitsBudget s e.2.2 with
    | some (_, _, m) => match reqOf m with
      | some (part, cls) => refuseBudget s mc (msgSlice m) cls part (reqGid s chip m)
      | none => s
    | none => s

/-- A pair keeps a request for a line at its source: it is DOWN, or the request waits for a credit, for room in the replay buffer or at the
relay, or for a switch-over's end (R350, R352). -/
def Pair.keeps (p : Pair) (line : Nat) : Bool := p.mode == 3 || p.queue.any fun q => (reqOf q.2).isSome && msgLine q.2 == line

/-- Why a group's next memory instruction cannot be accepted (R43, R288, R350, R352): 1, a request of it cannot leave its chiplet; 2, the
budget of its class has run out where one of its requests goes. -/
def linkCause (s : State) (uid : Nat) : Option Nat :=
  let way (core pa : Nat) : Pair := s.pair (portCC (chipOfCore core)) (portMC (homeMc pa))
  let waiting : List (Nat × Nat × Nat × Nat) :=
    (s.ops.flatMap fun e => if e.2.uid == uid then
      (e.2.acc.filter fun a => a.sent && !a.done && isDevice a.pa).map fun a => (coreOf e.2.gid, a.pa, e.2.part, e.2.cls)
      else []) ++
    (s.postings.flatMap fun (e : Nat × Posting) =>
      if e.2.ent.gids.contains uid then [(e.2.core, e.2.ent.line * 128, e.2.ent.part, e.2.ent.cls)] else [])
  if waiting.any fun w => (way w.1 w.2.1).keeps (lineOf w.2.1) || !seqRoom s (lineOf w.2.1) 1 then some 1
  else if waiting.any fun w => !budgetOk s (globalSlice w.2.1) w.2.2.1 w.2.2.2 ||
      ((way w.1 w.2.1).mode == 2 && !budgetOk s (sepPort (way w.1 w.2.1).via) w.2.2.1 w.2.2.2) then some 2
  else none

/-- HOME_LOAD_REQUEST (R21): a load request reaches its home slice. -/
def execHomeLoadRequest (chip mc : Nat) (s : State) : Host.Outcome State Fault Refusal :=
  .next (homeStep s chip mc fun m => match m with
    | .loadReq _ _ _ _ _ _ => some 128
    | _ => none)

/-- HOME_POSTING_MERGE (R231): a posted line reaches its home. -/
def execHomePostingMerge (chip mc : Nat) (s : State) : Host.Outcome State Fault Refusal :=
  .next (homeStep s chip mc fun m => match m with
    | .posting _ _ bytes _ _ _ _ => some bytes.length
    | _ => none)

/-- HOME_ATOMIC (R159): an atomic reaches its home slice. -/
def execHomeAtomic (chip mc : Nat) (s : State) : Host.Outcome State Fault Refusal :=
  .next (homeStep s chip mc fun m => match m with
    | .atomReq _ _ idx _ _ _ => some (8 * idx.length)
    | _ => none)

/-- The load for which a line is read from DRAM: its partition and class, its chiplet and itself. -/
def dramFor (h : HomeLine) : Option (Nat × Nat × Nat × Msg) := h.held.findSome? fun e => match e.2 with
  | .loadReq _ _ _ _ part cls => some (part, cls, e.1, e.2)
  | _ => none

/-- Another slice miss of the memory chiplet that its port could serve now goes before that of a line: by its rank in this slot, then by its age
(R288). -/
def dramOutranked (s : State) (mc line : Nat) (m : Msg) : Bool :=
  s.hlines.any fun h => h.2.dram && h.1 != line && homeMc (h.1 * 128) == mc && (match dramFor h.2 with
    | some (part, cls, _, q) => budgetOk s (memPort mc) part cls && (decide (msgRank s q < msgRank s m) ||
        (msgRank s q == msgRank s m && decide (h.2.dramAt < (s.hline line).dramAt)))
    | none => false)

/-- DRAM_READ_COMPLETE (R21): a slice miss is answered; `bad`: the error cannot be corrected, and the line is poisoned
(R370). It passes the chiplet's memory port in its turn, under the class budget there (R288, log 81). -/
def execDramReadComplete (mc line : Nat) (bad : Bool) (s : State) : Host.Outcome State Fault Refusal :=
  .next (
    let h := s.hline line
    let go (t : State) : State :=
      serveHeld (t.modHline line fun h => { h with
        dram := false, poison := if bad && h.poison.isNone then some 0 else h.poison }) line true
    if h.dram && homeMc (line * 128) == mc then
      match dramFor h with
      | none => go s
      | some (part, cls, chip, m) =>
        if !budgetOk s (memPort mc) part cls then refuseBudget s mc (globalSlice (line * 128)) cls part (reqGid s chip m)
        else if dramOutranked s mc line m then s
        else go (budgetUse s (memPort mc) part cls 128)
    else s)

/-- One wait for probe answers is over: the reply leaves (R231). -/
def answerWait (s : State) (mc : Nat) (w : HomeWait) : State :=
  match w.reply with
  | some (chip, m) => send s (portMC mc) (portCC chip) m
  | none => s

/-- Count a probe's answer against the wait of its line and sequence number, and against those that came after it on the line, which
wait for it too (R231). -/
def probeAnswered (s : State) (mc line seq : Nat) : State :=
  let r := s.hwaits.foldl (fun (st : Bool × List HomeWait × List HomeWait) w =>
    let on := st.1 || (w.line == line && w.seq == seq)
    if !on || w.line != line then (on, st.2.1 ++ [w], st.2.2)
    else if w.left ≤ 1 then (on, st.2.1, st.2.2 ++ [w])
    else (on, st.2.1 ++ [{ w with left := w.left - 1 }], st.2.2)) (false, [], [])
  serveHeld (r.2.2.foldl (fun t w => answerWait t mc w) { s with hwaits := r.2.1 }) line false

/-- PROBE_ACK_RECEIVE (R231). -/
def execProbeAckReceive (chip mc : Nat) (s : State) : Host.Outcome State Fault Refusal :=
  let box := (s.pair (portCC chip) (portMC mc)).inbox
  .next (match (openMsgs box).findSome? fun e => match e.2.2 with | .probeAck line seq => some (e.1, line, seq) | _ => none with
    | some (k, line, seq) => probeAnswered (takeInbox s (portCC chip) (portMC mc) k) mc line seq
    | none => s)

end Sys2Proof.Machine
end

