-- ==== Sys2Proof/Machine/MemEvents.lean ====
section
/-! DEFINITION. The steps of a group's memory operations after issue: translation and faults (R149, R294, R300), grants and
probes at the near cache (R232), acknowledgements (R153), replies (R21, R160), and what completion does (R30, R42, R150). -/

namespace Sys2Proof.Machine

/-! ### Completion -/

/-- An acquire of scope coh or wider has been performed: the core's L1 is invalidated (R148). -/
def acquired (s : State) (o : Op) : State :=
  if (o.order = 2 || o.order = 4 || o.order = 5) && 2 ≤ o.scope then invalidateL1 s (coreOf o.gid) else s

/-- An operation that joined a flag has completed: its counter drops by one (R30). -/
def dropFlag (s : State) (uid : Nat) (flag : Option Nat) : State :=
  match flag, groupBy s uid with
  | some n, some (k, _) => s.modGroup k fun g => { g with fcnt := updNth g.fcnt n (· - 1) }
  | _, _ => s

/-- Remove an operation. -/
def deleteOp (s : State) (id : Nat) : State := { s with ops := Tab.del s.ops id }

/-- An operation has completed: its flag drops and it is gone. -/
def completeOp (s : State) (id : Nat) : State :=
  match Tab.get? s.ops id with
  | some o => deleteOp (dropFlag s o.uid o.flag) id
  | none => s

/-- Write a register word given by key in the lanes of `m` (R42): V registers below 128, S registers above. -/
def writeKey (s : State) (gid : Nat) (key : Nat) (m : LaneMask) (h : Nat → Nat) : State :=
  match Tab.get? s.groups gid with
  | none => s
  | some g =>
    if key < 128 then
      clearWords (s.modGroup gid fun g => g.writeV key m fun l => BitVec.ofNat 32 (h l)) gid g key (lanesOf m)
    else clearWords (s.modGroup gid fun g => g.writeS (key - 128) (BitVec.ofNat 32 (h 0))) gid g key [0]

/-- The registers pending for an operation are pending no more (R42). -/
def clearPend (s : State) (gid id : Nat) : State :=
  s.modGroup gid fun g => { g with pend := g.pend.filter fun (e : Nat × Nat) => e.2 != id }

/-- The bytes that a lane has got, in order. -/
def laneBytes (o : Op) (l : Nat) : List Byte := (o.acc.filter fun a => a.lane == l).flatMap (·.data)

/-- A loaded value as it is written (R145): extended to 32 bits at SIZE 0 and 1. -/
def loadedValue (o : Op) (l : Nat) : Nat :=
  let v := ofBytes (laneBytes o l)
  match o.size with
  | 0 => if o.sx then wrap 32 (sgn 8 v) else v % 2 ^ 8
  | 1 => if o.sx then wrap 32 (sgn 16 v) else v % 2 ^ 16
  | _ => v

/-- The registers of a load's span (R145). -/
def loadRegs (size : Nat) : Nat := if size = 3 then 2 else if size = 4 then 4 else 1

/-- The registers of an atomic's result (R158, R160): the old value, and at scope dev and sys the tag word. -/
def atomRegs (ty scope : Nat) : Nat := (if ty = 2 then 2 else 1) * (if 3 ≤ scope then 2 else 1)

/-- The value written into register `k` of an atomic's span (R160). -/
def atomWord (o : Op) (l k : Nat) : Nat :=
  let old := ofBytes (laneBytes o l)
  let w := if o.ty = 2 then 2 else 1
  if k < w then old / 2 ^ (32 * k) else if k = w then Tab.getD o.tags l 0 else 0

/-- A load or atomic writes its destination registers, and completes (R21, R150). -/
def writeBack (s : State) (id : Nat) (o : Op) : State :=
  match groupBy s o.uid with
  | none => deleteOp s id
  | some (gid, _) =>
    let s1 := match o.dest with
      | none => s
      | some d =>
        let atom := match o.kind with | .atomic => true | .satomic => true | _ => false
        let n := if atom then atomRegs o.ty o.scope else loadRegs o.size
        (List.range n).foldl (fun t k => writeKey t gid (d + k) o.lanes fun l =>
          if atom then atomWord o (if o.uni then 0 else l) k else loadedValue o (if o.uni then 0 else l) / 2 ^ (32 * k)) s
    completeOp (clearPend s1 gid id) id

/-! ### Faults -/

/-- KIND of a group's memory operation (R301). -/
def opKindCode : OpKind → Nat
  | .store => 1
  | .atomic => 2
  | _ => 0

/-- The fault-queue entry of a page of an operation (R301): the lowest lane's first byte on the page, and the lanes that touch
it. -/
def opFaultEntry (o : Op) (launch : Nat) (page code lvl pte : Nat) : FEntry :=
  let accs := o.acc.filter fun a => a.va / 4096 == page
  let va := match accs with
    | a :: _ => a.va
    | [] => page * 4096
  let lanes := if o.uni then 2 ^ 64 - 1 else (maskOf fun l => accs.any fun a => a.lane == l).toNat
  { va := va, pte := pte, code := code, core := coreOf o.gid, slot := slotOf o.gid, lvl := lvl,
    kind := opKindCode o.kind, unit := 0, region := 0, launch := launch % 2 ^ 32, lanes := lanes }

/-- The operation stands at a fault event. -/
def Op.isFaulted (o : Op) : Bool := match o.stage with
  | .faulted _ => true
  | _ => false

/-- An operation stops at a fault event with these pages: code, level, entry (R149, R300); its group parks for it (`holdReady`). It is to be performed in full from
translation on; only where poison has come upon an atomic's bytes after lanes of it were performed are these not executed again (log 83).
An agent has one event at a time (R300); an operation whose group has gone ends with its entry (R303). -/
def faultOp (s : State) (id : Nat) (o : Op) (bad : List (Nat × Nat × Nat × Nat)) : State :=
  if o.isFaulted then s
  else
    let es := bad.map fun b => opFaultEntry o (o.launch / 32) b.1 b.2.1 b.2.2.1 b.2.2.2
    let r := faultEvent s o.part (chipOfCore (coreOf o.gid)) (.op id) es
    if (groupBy s o.uid).isNone then { r.1 with ops := Tab.del r.1.ops id, events := Tab.del r.1.events r.2 }
    else r.1.modOp id fun o => { o with
      stage := .faulted r.2, bad := [], found := [], walk := none, pages := []
      acc := match o.kind with
        | .atomic => o.acc.map fun a => if a.done || (a.sent && atHome s o a) then a else { a with sent := false, clean := false }
        | _ => o.acc.map fun a => { a with sent := false, done := false } }

/-- The pages of an operation's accesses that are not done, in the order of their lowest lane (R300). -/
def pagesOf (o : Op) : List Nat := ((o.acc.filter fun a => !a.done).map fun a => a.va / 4096).eraseDups

/-- Pages that hold a poisoned byte's line, for a load or an atomic (R371). -/
def poisonPages (s : State) (o : Op) : List Nat :=
  ((o.acc.filter fun a => !a.done && poisoned s a.pa).map fun a => a.va / 4096).eraseDups

/-- Pages on which its chiplet holds a sector that the host gave as poisoned (R327). -/
def hostPoison (s : State) (o : Op) : List Nat :=
  ((o.acc.filter fun a => !a.done && isHost a.pa &&
    (let y := sectorOf s (chipOfCore (coreOf o.gid)) (a.pa / 64); decide (1 ≤ y.st) && y.poison)).map fun a => a.va / 4096).eraseDups

/-- A load or atomic meets poison: it stops with code 0x25 (R299, R371). -/
def poisonOp (s : State) (id : Nat) (o : Op) (pages : List Nat) : State :=
  faultOp s id o (pages.map fun p => (p, 0x25, 0, 0))

/-- A lane of CPF is dropped and counted (R154, R337). -/
def dropPrefetch (s : State) (o : Op) (page : Nat) : State :=
  (o.acc.filter fun a => a.va / 4096 == page).foldl (fun t a =>
    tap t (chipOfCore (coreOf o.gid)) 16 (some o.part) [0, gidOf o.gid, a.va]) s

/-! ### Translation -/

/-- The access kind of an operation (R294). -/
def opAccKind : OpKind → AccKind
  | .store => .store
  | .atomic => .atomic
  | _ => .load

/-- Who translates for an operation. -/
def opXer (o : Op) : Xer :=
  { part := o.part, core := some (coreOf o.gid), chip := some (chipOfCore (coreOf o.gid)), eng := none
    hmode := o.hmode, uid := some o.uid, cls := some o.cls }

/-- Every page of an operation is translated or has failed: it is ready, or stops at its fault event; a prefetch drops the
lanes that would fault (R149, R154). -/
def endTranslate (s : State) (id : Nat) (o : Op) : State :=
  let place (o : Op) : Op := { o with
    stage := .ready
    acc := o.acc.map fun a => match o.found.find? fun p => p.1 == a.va / 4096 with
      | some p => { a with pa := p.2.1 + a.va % 4096, ord := p.2.2 }
      | none => a }
  match o.kind with
  | .prefetch =>
    let s1 := o.bad.foldl (fun t b => dropPrefetch t o b.1) s
    s1.modOp id fun o =>
      let o2 := { o with acc := o.acc.filter fun a => o.found.any fun p => p.1 == a.va / 4096 }
      place o2
  | _ => if o.bad.isEmpty then s.modOp id place else faultOp s id o o.bad

/-- The result for one page of an operation. -/
def pageDone (s : State) (id page : Nat) (r : XRes) : State :=
  s.modOp id fun o =>
    let o2 := { o with pages := o.pages.filter (· != page), walk := none }
    match r with
    | .ok (pa, ord) => { o2 with found := o2.found ++ [(page, pa / 4096 * 4096, ord)] }
    | .error e => { o2 with bad := o2.bad ++ [(page, e.code, e.lvl, e.pte)] }

/-- A translation waits (R232, R320). -/
def isWaiting (r : XRes) : Bool := match r with
  | .error f => f.code == 0
  | .ok _ => false

/-- Another operation of the chiplet is walking the tables for the same page: the two share that walk (R295). -/
def walkShared (s : State) (id : Nat) (o : Op) (page : Nat) : Bool :=
  s.ops.any fun e => e.1 != id && e.2.part == o.part && chipOfCore (coreOf e.2.gid) == chipOfCore (coreOf o.gid) &&
    (match e.2.walk with
      | some w => w.va / 4096 == page
      | none => false)

/-- An operation that a save now would replay (R307): a load, and a memory instruction that is not translated or stopped at a fault. A
prefetch is none: a save gives it up (R154). -/
def Op.replays (o : Op) : Bool :=
  match o.kind, o.stage with
  | .prefetch, _ => false
  | .load, _ => true
  | .sload, _ => true
  | _, .translate => true
  | _, .faulted _ => true
  | _, _ => false

/-- A replayable operation of a group that is saved or being saved stands still until the restore (R307, R308). -/
def opHeld (s : State) (o : Op) : Bool :=
  (match groupBy s o.uid with
    | some (_, g) => g.state == .saved || g.grace.isSome
    | none => false) && o.replays

/-- Translate an operation's pages in order, until one needs a walk (R294); the fuel is the number of pages. -/
def goTranslate : Nat → State → Nat → State
  | n, s, id =>
    match Tab.get? s.ops id with
    | none => s
    | some o =>
      match o.pages with
      | [] => endTranslate s id o
      | p :: _ =>
        let va := p * 4096
        let x := opXer o
        let resolve (r : State × XRes) : State :=
          if isWaiting r.2 then r.1
          else match n with
            | 0 => pageDone r.1 id p r.2
            | k + 1 => goTranslate k (pageDone r.1 id p r.2) id
        if !canonical va then resolve (s, .error ⟨0x23, 0, 0⟩)
        else match tlbFind s x va with
          | some l => resolve (useLeaf s x l va (opAccKind o.kind))
          | none => if walkShared s id o p then s else match walkStart (s.fe o.part) (walksOf s x) o.part va with
            | .more w => s.modOp id fun o => { o with walk := some w }
            | .fail f => resolve (s, .error f)
            | .leaf _ => s

/-- Begin translating an operation (R149). -/
def beginTranslate (s : State) (id : Nat) : State :=
  match Tab.get? s.ops id with
  | none => s
  | some o =>
    let ps := pagesOf o
    goTranslate (ps.length + 1)
      (s.modOp id fun o => { o with stage := .translate, pages := ps, found := [], bad := [], walk := none }) id

/-- TABLE_WALK_STEP (R294): a page-table read of an operation returns. -/
def execTableWalkStep (id : Nat) (s : State) : Host.Outcome State Fault Refusal :=
  .next (match Tab.get? s.ops id with
    | none => s
    | some o =>
      if opHeld s o then s
      else match o.walk, o.pages with
      | some w, p :: rest =>
        let x := opXer o
        let fin (r : State × XRes) : State :=
          if isWaiting r.2 then r.1 else goTranslate (rest.length + 1) (pageDone r.1 id p r.2) id
        match walkOnce s x w with
        | (t, none) => t
        | (t, some (.more w2)) => t.modOp id fun o => { o with walk := some w2 }
        | (t, some (.fail f)) => fin (t, .error f)
        | (t, some (.leaf l)) => fin (loadLeaf t x l (p * 4096) (opAccKind o.kind))
      | none, _ :: rest => goTranslate (rest.length + 1) s id
      | _, _ => s)

/-! ### Grants and probes -/

/-- A grant reaches an operation attached to its request (R23). What it cannot be used for is asked again later. -/
def grantOp (s : State) (line : Nat) (data : List Byte) (wts rts : Nat) (so : Option (Nat × Nat)) (keep poison : Bool)
    (id : Nat) : State :=
  let s0 := markSent s id line false
  match Tab.get? s0.ops id with
  | none => s0
  | some o =>
    match if o.isFaulted then [] else openAccs o line with
    | [] => s0
    | a :: _ =>
      let core := coreOf o.gid
      let atom := match o.kind with | .atomic => true | _ => false
      let level := accLevel s0 o a
      if poison then
        match o.kind with
        | .prefetch => deleteOp s0 id
        | _ => poisonOp s0 id o (((openAccs o line).map fun a => a.va / 4096).eraseDups)
      else if atom then
        if level = 1 && !cbTakes s0 core line none (a.ord == 2) then parkIssuer s0 o
        else if level = 1 && !unacked s0 core line then performUnit s0 id line 1 (cbOver (s0.core core) line data)
        else if level = 2 && keep && !chipUnacked s0 (chipOfCore core) line then
          match Tab.get? (s0.chip (chipOfCore core)).near line with
          | some l => performUnit s0 id line 2 l.data
          | none => s0
        else s0
      else if a.ord = 1 then
        if o.kind.isPrefetch then performUnit s0 id line level data
        else match so with
        | some (u, ts) =>
          if u = o.uid then performUnit (raisePts s0 u ts) id line level data
          else if ptsOf s0 o.uid ≤ rts then performUnit (raisePts s0 o.uid (max (ptsOf s0 o.uid) wts)) id line level data
          else s0
        | none =>
          if ptsOf s0 o.uid ≤ rts then performUnit (raisePts s0 o.uid (max (ptsOf s0 o.uid) wts)) id line level data else s0
      else if scHeld s0 o line then s0
      else performUnit (fillL1 s0 o line keep data) id line level data

/-- Every operation that waits for a line asks for it with NT: it is placed as least recently used (R152). -/
def askedNt (s : State) (ids : List Nat) : Bool := ids.all fun id => match Tab.get? s.ops id with
  | some o => o.nt
  | none => true

/-- NEAR_CACHE_GRANT (R232): the near cache fills, the requests attached complete, a recorded newer probe is applied. A reply that grants no
copy, of a line of which the directory does not list the near cache, serves only the loads for which it was asked: later ones may follow a
write that it does not show, or read a half for which the host was not snooped (R235, R320). -/
def execNearCacheGrant (chip mc : Nat) (s : State) : Host.Outcome State Fault Refusal :=
  .next (match inboxHead s (portMC mc) (portCC chip) with
    | some (.grant line data seq wts rts so uo keep poison) =>
      let s0 := popInbox s (portMC mc) (portCC chip)
      match Tab.get? (s.chip chip).reqs line with
      | none => s0
      | some r =>
        let stale := r.probes.any fun p => newer p seq
        let again := stale || !keep
        let s1 := s0.modChip chip fun c => { c with reqs := Tab.del c.reqs line }
        let s2 := if keep && !poison then
            nearPut s1 chip line { data := data, stamp := seq, wts := wts, rts := rts, uo := uo,
                                   used := if askedNt s (r.ops ++ r.late) then 0 else s.clock + 1 }
          else s1
        let fill := keep && !r.closed
        let served := if keep then r.ops else r.ops.filter r.asked.contains
        let s3 := served.foldl (grantOp · line data wts rts so fill poison ·) s2
        let s4 := if again then s3 else r.late.foldl (grantOp · line data wts rts so fill poison ·) s3
        let s5 := if stale || (uo && r.closed) then nearDrop s4 chip line else s4
        let s6 := r.probes.foldl (fun t p => send t (portCC chip) (portMC mc) (.probeAck line p)) s5
        let rest := (if keep then [] else r.ops.filter fun id => !r.asked.contains id) ++ (if again then r.late else []) ++ r.again
        serveHeld (rest.foldl (fun t id => markSent t id line false) s6) line false
    | _ => s)

/-- NEAR_CACHE_PROBE (R232): a probe is applied, discarded, or recorded while a request is outstanding. -/
def execNearCacheProbe (chip mc : Nat) (s : State) : Host.Outcome State Fault Refusal :=
  .next (match inboxHead s (portMC mc) (portCC chip) with
    | some (.probe line p) =>
      let s0 := popInbox s (portMC mc) (portCC chip)
      let s1 := match Tab.get? (s0.chip chip).near line with
        | some l => if newer p l.stamp then nearDrop s0 chip line else s0
        | none => s0
      if (Tab.get? (s1.chip chip).reqs line).isSome then
        s1.modChip chip fun c => { c with reqs := Tab.upd c.reqs line fun r => { r with probes := r.probes ++ [p] } }
      else send s1 (portCC chip) (portMC mc) (.probeAck line p)
    | _ => s)

/-! ### Acknowledgements and replies -/

/-- POSTING_ACK (R153): the acknowledgement reaches the core. -/
def execPostingAck (chip mc : Nat) (s : State) : Host.Outcome State Fault Refusal :=
  .next (match inboxHead s (portMC mc) (portCC chip) with
    | some (.postAck id _ _ ts) => completePosting (popInbox s (portMC mc) (portCC chip)) id ts
    | _ => s)

/-- COMBINE_BUFFER_TIMEOUT (R153): a line is posted 512 cc after its first byte entered. -/
def execCombineBufferTimeout (core line : Nat) (s : State) : Host.Outcome State Fault Refusal :=
  .next (postWanted 64 (wantEntries s core fun e => e.line == line && decide (e.first + 512 ≤ s.clock)) core)

/-- GLOBAL_LOAD_REPLY (R21): a load whose data has come writes its destinations and completes. -/
def execGlobalLoadReply (id : Nat) (s : State) : Host.Outcome State Fault Refusal :=
  .next (match Tab.get? s.ops id with
    | some o =>
      match o.kind, o.stage with
      | .load, .performed => writeBack s id o
      | _, _ => s
    | none => s)

/-- Once the home has executed a lane, no older copy of its line serves the core; on a UO page, which the home does not probe, nor the
chiplet (R230, R235, R240). -/
def dropCopies (s : State) (o : Op) (a : Acc) : State :=
  let core := coreOf o.gid
  let t := l1Drop s core (lineOf a.pa)
  if a.ord = 2 then nearDrop t (chipOfCore core) (lineOf a.pa) else t

/-- Old values and tag words that a home returned reach the operation. -/
def takeReply (s : State) (id : Nat) (idx : List Nat) (old : List (List Byte)) (tags : List Nat) (ts : Nat)
    (poison : Bool) : State :=
  match Tab.get? s.ops id with
  | none => s
  | some o =>
    if poison then
      let t := s.modOp id fun o => { o with
        acc := o.acc.zipIdx.map fun e => if idx.contains e.2 then { e.1 with sent := false } else e.1 }
      poisonOp t id o ((idx.filterMap fun i => o.acc[i]?).map fun a => a.va / 4096).eraseDups
    else
      let put (o : Op) (p : Nat × List Byte × Nat) : Op :=
        match o.acc[p.1]? with
        | none => o
        | some a => { o with
            acc := o.acc.set p.1 { a with data := p.2.1, done := true, sent := true }
            tags := Tab.set o.tags (if o.uni then 0 else a.lane) p.2.2 }
      let s1 := s.modOp id fun o => (idx.zip (old.zip tags)).foldl put o
      let s2 := (idx.filterMap fun i => o.acc[i]?).foldl (fun t a => dropCopies t o a) s1
      if o.acc.any fun a => a.ord == 1 then raisePts s2 o.uid ts else s2

/-- Take an operation's replies from the heads of the sixteen receive buffers. -/
def takeReplies (s : State) (id chip : Nat) : State :=
  (List.range 16).foldl (fun t mc =>
    match inboxHead t (portMC mc) (portCC chip) with
    | some (.atomReply op idx old tags ts poison) =>
      if op = id then takeReply (popInbox t (portMC mc) (portCC chip)) id idx old tags ts poison else t
    | _ => t) s

/-- The tag word of an atomic on host memory: SEQ 0, SLICE 0x7FF (R160). -/
def hostTag : Nat := 0x7FF * 2 ^ 16

/-- Lanes of an atomic on host memory have the tag word of R160. -/
def withHostTags (o : Op) : Op :=
  let put (t : Tab Nat) (a : Acc) : Tab Nat := if isHost a.pa then Tab.set t (if o.uni then 0 else a.lane) hostTag else t
  { o with tags := o.acc.foldl put o.tags }

/-- A load or atomic all of whose accesses are done has been performed. -/
def markPerformed (s : State) (id : Nat) : State :=
  match Tab.get? s.ops id with
  | none => s
  | some o =>
    match o.stage with
    | .active =>
      if o.acc.all fun a => a.done then
        match o.kind with
        | .prefetch => deleteOp s id
        | .load => acquired (s.modOp id fun o => { o with stage := .performed }) o
        | .atomic => acquired (s.modOp id fun o => { o with stage := .performed }) o
        | _ => s
      else s
    | _ => s

/-- ATOMIC_REPLY (R160): old values and tag words reach the issuer; when all have, they are written. -/
def execAtomicReply (id : Nat) (s : State) : Host.Outcome State Fault Refusal :=
  .next (match Tab.get? s.ops id with
    | none => (List.range 16).foldl (fun t chip => takeReplies t id chip) s
    | some o =>
      let s1 := markPerformed (takeReplies s id (chipOfCore (coreOf o.gid))) id
      match Tab.get? s1.ops id with
      | some o2 =>
        match o2.kind, o2.stage with
        | .atomic, .performed => writeBack s1 id (withHostTags o2)
        | _, _ => s1
      | none => s1)

end Sys2Proof.Machine
end

