-- ==== Sys2Proof/Machine/Pads.lean ====
section
/-! DEFINITION. Scratchpads and windows (R155, R156, R165 to R168, R245 to R250): the bytes, the region table, touches, and the
chunks of copies and slice sets. -/

namespace Sys2Proof.Machine

/-! ### Teams and regions -/

/-- Change a team. -/
def State.modTeam (s : State) (t : Nat) (f : Team → Team) : State := { s with teams := Tab.upd s.teams t f }

/-- An entry of a team's region table (R247). -/
def Team.region (t : Team) (b : Nat) : Window := Tab.getD t.regions b Window.free

/-- Number of chunks of a window (R165). -/
def Window.chunkCount (w : Window) : Nat := w.bytes / 512

/-- PRES (R247). -/
def Window.pres (w : Window) : Nat := popcount w.chunkCount w.chunks

/-- A region table entry in the form of R247. R337 and R310 say themselves what a region event and a context image show of one (log 89). -/
def Window.entry (w : Window) : Nat :=
  w.state % 2 ^ 3 + w.flt.toNat * 2 ^ 3 + w.sn % 8 * 2 ^ 4 + w.sm % 8 * 2 ^ 7 + w.pres % 2 ^ 11 * 2 ^ 10 + w.offset % 2 ^ 20 * 2 ^ 32 +
    w.bytes % 2 ^ 20 * 2 ^ 64 + w.rowlen % 2 ^ 20 * 2 ^ 96 + w.stride % 2 ^ 32 * 2 ^ 128 + w.src % 2 ^ 64 * 2 ^ 160

/-- Put an entry into a region table; a change of STATE is a Proctor event (R337, source 14). -/
def putRegion (s : State) (team b : Nat) (w : Window) : State :=
  match Tab.get? s.teams team with
  | none => s
  | some t =>
    let s1 := s.modTeam team fun t => { t with
      regions := if w = Window.free then Tab.del t.regions b else Tab.set t.regions b w }
    if (t.region b).state = w.state then s1
    else tap s1 (chipOfCore t.core) 14 (some t.part) [t.core, b, bitsAt w.entry 0 3, bitsAt w.entry 10 11]

/-- The chunks of a window that a range of the scratchpad touches (R248). -/
def Window.touched (w : Window) (lo n : Nat) : List Nat :=
  let a := max lo w.offset
  let e := min (lo + n) (w.offset + w.bytes)
  if w.state = 0 || e ≤ a then []
  else (List.range ((e - 1 - w.offset) / 512 - (a - w.offset) / 512 + 1)).map (· + (a - w.offset) / 512)

/-- A touched chunk has not arrived (R166, R249). -/
def Window.absent (w : Window) (lo n : Nat) : Bool :=
  (w.state == 1 || w.state == 2 || w.state == 3) && (w.touched lo n).any fun c => !bitAt w.chunks c

/-- Start a window's copy under a name (R166, R248), for the group that touches it or warms it. -/
def startCopyAs (s : State) (team b gid uid job : Nat) : State :=
  match Tab.get? s.teams team with
  | none => s
  | some t =>
    let w := t.region b
    if w.state = 1 then putRegion s team b { w with state := 2, starter := gid, uid := uid, job := job } else s

/-- Start a window's copy under a new name. -/
def startCopy (s : State) (team b gid uid : Nat) : State :=
  startCopyAs { s with nextOp := s.nextOp + 1 } team b gid uid s.nextOp

/-! ### Bytes -/

/-- The team of the cohort that a member index names (R156). -/
def memberTeam (s : State) (t : Team) (m : Nat) : Option Nat :=
  (s.teams.find? fun e => e.2.cohort == t.cohort && e.2.member == m && decide (m < t.teams)).map (·.1)

/-- A byte range lies in a team's scratchpad (R155). -/
def padIn (s : State) (team lo n : Nat) : Bool :=
  match Tab.get? s.teams team with
  | some t => decide (lo + n ≤ t.size)
  | none => false

/-- Bytes of a scratchpad (R245: zero where not written). -/
def padRead (s : State) (team lo n : Nat) : List Byte :=
  match Tab.get? s.teams team with
  | some t => Memory.readN t.pad lo n
  | none => List.replicate n 0

/-- The 32-bit words that a byte range touches. -/
def padWords (lo n : Nat) : List Nat := if n = 0 then [] else (List.range ((lo + n - 1) / 4 - lo / 4 + 1)).map (· + lo / 4)

/-- The words that a byte range covers whole: writing them ends their poison (R371). -/
def wholeWords (lo n : Nat) : List Nat := (padWords lo n).filter fun w => lo ≤ 4 * w && 4 * w + 4 ≤ lo + n

/-- Write bytes of a scratchpad. -/
def padWrite (s : State) (team lo : Nat) (bs : List Byte) : State :=
  s.modTeam team fun t => { t with
    pad := Memory.writeN t.pad lo bs
    poison := if t.poison.isEmpty then t.poison else t.poison.filter fun w => !(wholeWords lo bs.length).contains w }

/-- A poisoned word is read (R371). -/
def padPoison (s : State) (team lo n : Nat) : Bool :=
  match Tab.get? s.teams team with
  | some t => !t.poison.isEmpty && (padWords lo n).any fun w => t.poison.contains w
  | none => false

/-! ### Bindings -/

/-- The limits of a descriptor (R165): offset, bytes, source low and high, stride, row length. -/
def descOk (size : Nat) (d : List Nat) : Bool :=
  let off := nth d 0 0
  let n := nth d 1 0
  let row := nth d 5 0
  off % 512 == 0 && n % 512 == 0 && 512 ≤ n && off + n ≤ size && row % 4 == 0 && row != 0 && n % row == 0

/-- A region freshly bound (R165). -/
def boundTo (d : List Nat) : Window :=
  { Window.free with
    state := 1, offset := nth d 0 0, bytes := nth d 1 0, src := nth d 2 0 + nth d 3 0 * 2 ^ 32, stride := nth d 4 0
    rowlen := nth d 5 0 }

/-- The descriptor words of a binding (R250). -/
def Window.desc (w : Window) : List Nat := [w.offset, w.bytes, w.src % 2 ^ 32, w.src / 2 ^ 32, w.stride, w.rowlen]

/-- The name of an open slice set (R250). -/
def setKey (t : Team) (b : Nat) : Nat := t.cohort * 64 + b

/-- The team is a member of an open slice set on the region (R250). -/
def inSet (s : State) (team b : Nat) : Bool :=
  match Tab.get? s.teams team with
  | none => false
  | some t => match Tab.get? s.sliceSets (setKey t b) with
    | some z => z.teams.contains team
    | none => false

/-- A copy runs on a region: its own, or a share of a slice set (R165, R248). -/
def copyRunning (s : State) (team b : Nat) : Bool :=
  (match Tab.get? s.teams team with
    | some t => (t.region b).state == 2 || (t.region b).state == 3
    | none => false) || inSet s team b

/-- A WUNBIND of a team's region, issued before `id`, has not completed. -/
def unbindAhead (s : State) (team b id : Nat) : Bool :=
  s.ops.any fun e => decide (e.1 < id) && (match e.2.kind with
    | .wunbind r => r == b && (match groupBy s e.2.uid with
      | some (_, g) => g.team == team
      | none => false)
    | _ => false)

/-- WBINDs that waited for the end of a region's copy take effect, in their order with the WWARMs and WUNBINDs that issued between them
(R165, R270). The fuel is the number of those held. -/
def bindNow : Nat → State → Nat → Nat → State
  | 0, s, _, _ => s
  | n + 1, s, team, b =>
    match Tab.get? s.teams team with
    | none => s
    | some t =>
      match (t.region b).held with
      | [] => s
      | p :: r =>
        if unbindAhead s team b p.job then s
        else match p.desc with
          | some d => if copyRunning s team b then s else bindNow n (putRegion s team b { boundTo d with held := r, bound := s.clock }) team b
          | none => bindNow n (startCopyAs (putRegion s team b { t.region b with held := r }) team b p.gid p.uid p.job) team b

/-- A WBIND of the group, issued before `id` on a region, has not taken effect (R165). -/
def Window.bindAhead (w : Window) (uid id : Nat) : Bool := w.held.any fun p => p.uid == uid && decide (p.job < id) && p.desc.isSome

/-- A WBIND of the group that has not taken effect on a region holds back its later accesses to these bytes (R165). -/
def Window.bindHolds (w : Window) (uid id lo n : Nat) : Bool :=
  w.bindAhead uid id && (!(w.touched lo n).isEmpty || w.held.any fun p => match p.desc with
    | some d => p.uid == uid && decide (p.job < id) && !((boundTo d).touched lo n).isEmpty
    | none => false)

/-- An access, issued as `id`, meets one region (R165, R248, R270): it touches the binding that stands when it issues, or the one made by a
WBIND of its group that must take effect before; from then on it awaits that binding's chunks alone. The second part: the regions whose
chunks it awaits, and those of which such a WBIND is still open. -/
def meetRegion (team lo n gid uid id : Nat) (hold : Nat → Bool) (r : State × Nat × Nat) (b : Nat) : State × Nat × Nat :=
  match Tab.get? r.1.teams team with
  | none => r
  | some t =>
    let w := t.region b
    if hold b then
      if w.bindHolds uid id lo n then (r.1, r.2.1, r.2.2 ||| 2 ^ b)
      else if w.absent lo n then (startCopy r.1 team b gid uid, r.2.1 ||| 2 ^ b, r.2.2)
      else r
    else r

/-- An access meets the regions of a team's scratchpad: all at first, then those that are still open or awaited. -/
def meetRegions (s : State) (team lo n gid uid id : Nat) (old : Option (Nat × Nat)) : State × Nat × Nat :=
  match Tab.get? s.teams team with
  | none => (s, 0, 0)
  | some t =>
    let ks := Tab.keys t.regions
    let kept := ks.filter fun b => (match old with
      | some p => bitAt p.1 b
      | none => false) && (t.region b).absent lo n
    ks.foldl (meetRegion team lo n gid uid id fun b => match old with
      | some p => bitAt p.2 b
      | none => true) (s, kept.foldl (fun m b => m + 2 ^ b) 0, 0)

/-! ### Chunks -/

/-- The virtual addresses of a chunk's bytes (R165). -/
def chunkVas (w : Window) (c : Nat) : List Nat :=
  (List.range 512).map fun i => (w.src + (512 * c + i) / w.rowlen * w.stride + (512 * c + i) % w.rowlen) % 2 ^ 64

/-- A member's region has every chunk. -/
def Window.whole (w : Window) : Bool := w.pres == w.chunkCount

/-- Bytes of a window's copy enter a scratchpad. Those that reach a registered barrier or lock object with WAITING entries are dropped
and counted (R264). -/
def copyBytes (s : State) (team lo part gid : Nat) (bs : List Byte) : State :=
  match waitedObject s (some team) lo bs.length with
  | none => padWrite s team lo bs
  | some e =>
    (bs.zipIdx.filter fun b => (waitedObject s (some team) (lo + b.2) 1).isNone).foldl (fun t b => padWrite t team (lo + b.2) [b.1])
      (countDrop s e part gid lo)

/-- A chunk has arrived in a team: its bytes are written as one unit and its bit is set; with the last one the region is
COMPLETE (R166, R248, R249). -/
def putChunk (s : State) (team b c : Nat) (bs : List Byte) : State :=
  match Tab.get? s.teams team with
  | none => s
  | some t =>
    let w := t.region b
    if bitAt w.chunks c then s
    else
      let w1 := { w with chunks := w.chunks + 2 ^ c }
      let w2 := if w1.whole then { w1 with state := 4, flt := false } else w1
      putRegion (copyBytes s team (w.offset + 512 * c) t.part (gidOf w.starter) bs) team b w2

/-- The set closes when each of its members has every chunk (R250). -/
def closeSet (s : State) (key b : Nat) : State :=
  match Tab.get? s.sliceSets key with
  | none => s
  | some z =>
    let whole (team : Nat) : Bool := match Tab.get? s.teams team with
      | some t => (t.region b).whole
      | none => true
    let member (m : Nat) : Bool := z.members.contains m || z.teams.any fun team => match Tab.get? s.teams team with
      | some t => t.member == m
      | none => false
    if z.teams.all whole && (List.range z.n).all member then
      { s with sliceSets := Tab.del s.sliceSets key }
    else s

/-- The member of a slice set that fetches a chunk (R168, R250). -/
def fetcherOf (s : State) (z : SliceSet) (c : Nat) : Option Nat :=
  let m := c % max z.n 1
  if z.members.contains m then z.teams.head?
  else z.teams.find? fun team => match Tab.get? s.teams team with
    | some t => t.member == m
    | none => false

/-- A chunk arrives in a team and, fetched for a slice set, in every member that has joined (R250). -/
def deliverChunk (s : State) (team b c : Nat) (bs : List Byte) : State :=
  match Tab.get? s.teams team with
  | none => s
  | some t =>
    match Tab.get? s.sliceSets (setKey t b) with
    | some z =>
      if z.teams.contains team then closeSet (z.teams.foldl (fun u k => putChunk u k b c bs) s) (setKey t b) b
      else putChunk s team b c bs
    | none => putChunk s team b c bs

end Sys2Proof.Machine
end

