-- ==== Sys2Proof/Machine/Order.lean ====
section
/-! DEFINITION. Which operations of a group may be performed now (R148, R151, R162, R163, R235, R239, R242, R243), and what
makes them go on: the rules of order between a group's own accesses, releases and fences. -/

namespace Sys2Proof.Machine

/-! ### Kinds and paths -/

/-- A load or an atomic: it returns a value. -/
def OpKind.returns : OpKind → Bool
  | .load => true
  | .atomic => true
  | .sload => true
  | .satomic => true
  | _ => false

/-- A store of path P0 or P6. -/
def OpKind.stores : OpKind → Bool
  | .store => true
  | .sstore => true
  | _ => false

/-- An operation on memory: a load, store, atomic or prefetch. -/
def OpKind.accesses : OpKind → Bool
  | .prefetch => true
  | k => k.returns || k.stores

/-- It has an acquire half (R148). -/
def Op.acq (o : Op) : Bool := (o.kind.returns || o.kind.stores) && (o.order == 2 || o.order == 4 || o.order == 5)

/-- It has a release half (R148). -/
def Op.rel (o : Op) : Bool := (o.kind.stores || o.kind.returns) && (o.order == 3 || o.order == 4 || (o.order == 5))

/-- It has been performed: its later part is only the writing of registers. A store at scope grp or team has been once its bytes stand in
the core's combine buffer (R234). -/
def Op.isPerformed (o : Op) : Bool := match o.stage with
  | .performed => true
  | .active => o.kind.stores && decide (o.scope < 2) && o.acc.all fun a => a.done
  | _ => false

/-- Its accesses to be performed lie on a path: 6 for host memory, 0 for the rest (R242). -/
def onPath (o : Op) (path : Nat) : Bool :=
  if o.acc.isEmpty then path == 0
  else if path == 6 then o.acc.any fun a => isHost a.pa
  else o.acc.any fun a => !isHost a.pa

/-- All of its accesses lie on UO pages, which releases do not order (R240). -/
def allUo (o : Op) : Bool := !o.acc.isEmpty && o.acc.all fun a => a.ord == 2

/-! ### What a release or a fence waits for -/

/-- An earlier load or atomic that a release on these paths waits for. -/
def loadPending (o : Op) (paths : List Nat) : Bool :=
  o.kind.returns && !o.isPerformed && paths.any (onPath o)

/-- An earlier store that it waits for: until it has begun (`begun`), or until it has completed. -/
def storePending (o : Op) (paths : List Nat) (uo begun : Bool) : Bool :=
  o.kind.stores && (uo || !allUo o) && paths.any (onPath o) && (!begun || o.acc.any fun a => !a.done)

/-- Bytes of the group that stand in its core's combine buffer or in postings not acknowledged, or an object that it has written and whose
probes are not answered (R201, R202). -/
def linePending (s : State) (core uid : Nat) (paths : List Nat) (uo : Bool) : Bool :=
  let hit (e : CbEnt) : Bool := e.gids.contains uid && (uo || !e.uo) && paths.contains (if isHost (e.line * 128) then 6 else 0)
  (s.core core).cb.any hit || (s.postings.any fun p => p.2.core == core && hit p.2.ent) ||
    s.hwaits.any fun w => match w.src with
      | some (u, k) => u == uid && (uo || !k) && paths.contains 0
      | none => false

/-- The paths that a release or FENCE of a scope covers (R148, R162); scopes as R147 numbers them. -/
def scopePaths (scope : Nat) : List Nat := if scope = 4 then [0, 6] else [0]

/-- A release of a scope, issued under name `id`, must still wait (R148). -/
def relHolds (s : State) (core uid id scope : Nat) : Bool :=
  let ps := scopePaths scope
  (s.ops.any fun e => e.1 < id && e.2.uid == uid && (loadPending e.2 ps || storePending e.2 ps false (scope < 2))) ||
    (2 ≤ scope && linePending s core uid ps false)

/-- An entry holds bytes of a group: of its stores or of its drains (R153, R185). -/
def CbEnt.holds (e : CbEnt) (uid : Nat) : Bool := e.gids.contains uid || e.drains.contains uid

/-- Post the lines that a release of scope coh or wider, a fence or a CWB makes go (R148, R153). -/
def wantRelease (s : State) (core uid : Nat) (uo : Bool) : State :=
  postWanted 64 (wantEntries s core fun e => e.holds uid && (uo || !e.uo)) core

/-! ### Jobs that a fence waits for -/

/-- A note is not answered yet. -/
def noteOpen (s : State) (uid id : Nat) : Bool := s.notes.any fun e => e.1 < id && e.2.uid == uid

/-- A window's copy is under way: COPYING, or a share of a slice set that is not complete. -/
def Window.running (w : Window) : Bool := w.state == 2 || w.state == 3

/-- The group has an unfinished job, started before `id`, on an engine's path (R163); a WWARM that waits for a binding is one. -/
def jobOpen (s : State) (uid id path : Nat) : Bool :=
  match path with
  | 1 => s.teams.any fun t => t.2.regions.any fun w => (w.2.uid == uid && w.2.job < id && w.2.running) ||
      w.2.held.any fun p => p.uid == uid && p.job < id && p.desc.isNone
  | 2 => (s.mjobs.any fun e => e.1 < id && e.2.uid == uid && (e.2.kind == 1 || e.2.kind == 2 || e.2.kind == 4))
  | 3 => s.churns.any fun e => e.1 < id && e.2.uid == uid
  | 4 => s.colls.any fun e => e.1 < id && e.2.uid == uid
  | 5 => noteOpen s uid id
  | _ => false

/-- An earlier fence of the group orders accesses on a path from which this one orders them, and is not complete (R162, R163). -/
def fenceAhead (s : State) (id : Nat) (o : Op) : Bool := o.src.any fun p => fenceHolds s o.uid id p

/-- A fence (R162, R163): ORDER 0 acq, 1 rel, 2 ar, 3 sc; it must still wait for what came before it on its "from" paths: loads and
atomics for every order, since program order is kept from any access to a FENCE.rel too (R235). -/
def fenceOpen (s : State) (id : Nat) (o : Op) : Bool :=
  let core := coreOf o.gid
  let ps := o.src.filter fun p => p == 0 || p == 6
  let stores := o.order ≠ 0
  (s.ops.any fun e => e.1 < id && e.2.uid == o.uid &&
    (loadPending e.2 ps || (stores && storePending e.2 ps o.uo false))) ||
  (stores && linePending s core o.uid ps o.uo) || fenceAhead s id o || o.src.any fun p => jobOpen s o.uid id p

/-! ### Starting -/

/-- Two accesses of global memory share a byte. -/
def overlap (a b : Acc) : Bool := a.pa < b.pa + b.n && b.pa < a.pa + a.n

/-- An earlier operation of the group on a byte of this one is not done (R151, R235, R309). -/
def conflict (s : State) (id : Nat) (o : Op) : Bool :=
  s.ops.any fun e => e.1 < id && e.2.uid == o.uid && e.2.kind.accesses &&
    (match e.2.kind with
      | .prefetch => false
      | .sload => false
      | .sstore => false
      | .satomic => false
      | _ => e.2.acc.any fun a => !a.done && o.acc.any fun b => overlap a b)

/-- Bytes of the group on SO pages are on their way (R239). -/
def soPending (s : State) (core uid : Nat) : Bool :=
  (s.core core).cb.any (fun e => e.so == some uid) || s.postings.any fun p => p.2.ent.so == some uid

/-- An operation may be performed now, the release half apart. -/
def clearToStart (s : State) (id : Nat) (o : Op) : Bool :=
  !(s.ops.any fun e => e.1 < id && e.2.uid == o.uid && e.2.acq && !e.2.isPerformed) &&
  !((onPath o 0 && fenceHolds s o.uid id 0) || (onPath o 6 && fenceHolds s o.uid id 6)) &&
  !conflict s id o &&
  (!hasSo o || (!(s.ops.any fun e => e.1 < id && e.2.uid == o.uid && hasSo e.2 && !e.2.isPerformed) &&
    !soPending s (coreOf o.gid) o.uid))

/-- What an operation that may not start yet makes move: its release posts the group's lines; one on SO pages posts the lines
before it. -/
def urge (s : State) (o : Op) : State :=
  let core := coreOf o.gid
  let s1 := if o.rel && 2 ≤ o.scope then wantRelease s core o.uid false else s
  if hasSo o then postWanted 64 (wantEntries s1 core fun e => e.so == some o.uid) core else s1

/-- Start an operation on global memory: poisoned data stops a load or an atomic (R371). -/
def startOp (s : State) (id : Nat) (o : Op) : State :=
  let bad := match o.kind with
    | .load => poisonPages s o
    | .atomic => poisonPages s o
    | _ => []
  if bad.isEmpty then s.modOp id fun o => { o with stage := .active } else poisonOp s id o bad

/-- Go on with an operation that has started; a load or atomic that meets a sector which the host gave as poisoned stops, a prefetch ends
(R154, R327). -/
def goOn (s : State) (id : Nat) (o : Op) : State :=
  match o.kind with
  | .store => goOnStore s id o
  | k =>
    let t := goOnLoad s id o
    match Tab.get? t.ops id with
    | none => t
    | some o2 => match hostPoison t o2 with
      | [] => markPerformed t id
      | ps => if k.isPrefetch then deleteOp t id else poisonOp t id o2 ps

/-- A store all of whose bytes are acknowledged has completed (R150); one that acquires has then been performed at its scope (R148). -/
def finishStore (s : State) (id : Nat) : State :=
  match Tab.get? s.ops id with
  | some o => match o.kind, o.stage with
    | .store, .active => if (o.acc.all fun a => a.done) && o.waits == 0 then completeOp (acquired s o) id else s
    | _, _ => s
  | none => s

/-- What a completed fence does: an acquire at scope coh or wider invalidates the L1, and with UO drops the UO lines of the near
cache (R162, R240). -/
def fenceDone (s : State) (id : Nat) (o : Op) : State :=
  let core := coreOf o.gid
  let s1 := if o.order ≠ 1 && 2 ≤ o.scope then
      let t := invalidateL1 s core
      if o.uo then t.modChip (chipOfCore core) fun c =>
        { c with near := c.near.filter fun (e : Nat × NearLine) => !e.2.uo
                 reqs := c.reqs.map fun (e : Nat × NearReq) => (e.1, if e.2.uo then { e.2 with closed := true } else e.2) }
      else t
    else s
  completeOp s1 id

/-! ### Scratchpad operations and windows -/

/-- An operation on a scratchpad. -/
def OpKind.pads : OpKind → Bool
  | .sload => true
  | .sstore => true
  | .satomic => true
  | _ => false

/-- An earlier operation of the group on a byte of this one's scratchpad accesses is not done (R151). -/
def padConflict (s : State) (id : Nat) (o : Op) : Bool :=
  s.ops.any fun e => e.1 < id && e.2.uid == o.uid && e.2.kind.pads &&
    e.2.acc.any fun a => !a.done && a.team.isSome && o.acc.any fun b => a.team == b.team && overlap a b

/-- What an access has met on its scratchpad: the regions that it awaits, and those with a WBIND still open. -/
def Acc.met (a : Acc) : Option (Nat × Nat) := if a.sent then some (a.await, a.hold) else none

/-- The group's order lets a scratchpad operation be performed now (R148, R149, R151, R162). -/
def padFree (s : State) (id : Nat) (o : Op) : Bool :=
  !(s.ops.any fun e => e.1 < id && e.2.uid == o.uid && e.2.acq && !e.2.isPerformed) &&
  !fenceHolds s o.uid id 0 && !padConflict s id o &&
  !(o.rel && relHolds s (coreOf o.gid) o.uid id o.scope)

/-- An access awaits no chunk of the windows that it has met, and no WBIND (R165, R249). -/
def padThere (s : State) (id : Nat) (o : Op) (a : Acc) : Bool := match a.team with
  | none => true
  | some t => (meetRegions s t a.pa a.n o.gid o.uid id a.met).2 == (0, 0)

/-- A scratchpad operation may be performed whole. -/
def padClear (s : State) (id : Nat) (o : Op) : Bool := padFree s id o && o.acc.all (padThere s id o)

/-- The accesses of a scratchpad operation meet their windows (R165, R248, R249, R270). -/
def padNotice (s : State) (id : Nat) (o : Op) : State :=
  let r := o.acc.foldl (fun (st : State × List Acc) a => match a.team with
    | some k =>
      let q := meetRegions st.1 k a.pa a.n o.gid o.uid id a.met
      (q.1, st.2 ++ [{ a with sent := true, await := q.2.1, hold := q.2.2 }])
    | none => (st.1, st.2 ++ [a])) (s, [])
  r.1.modOp id fun o => { o with acc := r.2 }

/-- WUNBIND completes when no copy writes into the region and the group's team has no share in a set (R166, R248), and bindings that
waited before it have taken effect; those behind it wait on (R270). -/
def unbindStep (s : State) (id : Nat) (o : Op) (b : Nat) : State :=
  match groupBy s o.uid with
  | none => completeOp s id
  | some (_, g) =>
    let held := match Tab.get? s.teams g.team with
      | some t => (t.region b).held
      | none => []
    if copyRunning s g.team b || held.any fun p => decide (p.job < id) then s
    else completeOp (putRegion s g.team b { Window.free with held := held }) id

/-- Post the lines that a group's drains have written, for a fence from path P2 (R183, R243). -/
def wantDrains (s : State) (core uid : Nat) : State :=
  let mine (o : Nat) : Bool := match Tab.get? s.ops o with
    | some y => y.uid == uid && (match y.kind with
      | .drain => true
      | _ => false)
    | none => false
  postWanted 64 (wantEntries s core fun e => e.ops.any mine) core

/-- What a fence makes move, of any order: the group's lines, from the paths from which it orders (R153). -/
def urgeFence (s : State) (o : Op) : State :=
  let core := coreOf o.gid
  let s1 := if o.src.contains 0 || o.src.contains 6 then wantRelease s core o.uid o.uo else s
  if o.src.contains 2 then wantDrains s1 core o.uid else s1

/-- Go on with one operation of a group (R149, R150). -/
def stepOp (s : State) (id : Nat) : State :=
  match Tab.get? s.ops id with
  | none => s
  | some o =>
    if opHeld s o then s
    else match o.kind, o.stage with
    | .fence, _ =>
      let t := urgeFence s o
      if fenceOpen t id o then t else fenceDone t id o
    | .cwb, _ =>
      if fenceHolds s o.uid id 0 then s
      else
        let t := wantRelease s (coreOf o.gid) o.uid true
        if linePending t (coreOf o.gid) o.uid [0, 6] true then t else completeOp t id
    | .cinv, _ => if fenceHolds s o.uid id 0 then s else completeOp (invalidateL1 s (coreOf o.gid)) id
    | .sload, .ready => urge (padNotice s id o) o
    | .sstore, .ready => urge (padNotice s id o) o
    | .satomic, .ready => urge (padNotice s id o) o
    | .wunbind b, _ => unbindStep s id o b
    | .load, .ready => go s id o
    | .store, .ready => go s id o
    | .atomic, .ready => go s id o
    | .prefetch, .ready => go s id o
    | .load, .active => goOn s id o
    | .store, .active => finishStore (goOn s id o) id
    | .atomic, .active => goOn s id o
    | .prefetch, .active => goOn s id o
    | _, _ => s
where
  /-- A translated operation starts when it may. -/
  go (s0 : State) (id : Nat) (o : Op) : State :=
    let s := if o.rel && 2 ≤ o.scope then wantRelease s0 (coreOf o.gid) o.uid false else s0
    if clearToStart s id o && !(o.rel && relHolds s (coreOf o.gid) o.uid id o.scope) then
      let s1 := startOp s id o
      match Tab.get? s1.ops id with
      | some o1 => match o1.stage with
        | .active => finishStore (goOn s1 id o1) id
        | _ => s1
      | none => s1
    else urge s o

/-- Go on with every operation, in the order of their issue. -/
def stepOps (s : State) : State := (Tab.keys s.ops).foldl stepOp s

/-! ### Objects -/

/-- Accesses of the group to a line are still to be performed (R151). -/
def ownLine (s : State) (uid line : Nat) : Bool :=
  s.ops.any fun e => e.2.uid == uid && (e.2.kind.stores || e.2.kind.returns) &&
    e.2.acc.any fun a => lineOf a.pa == line && !a.done && a.team.isNone

/-- Bytes on a line that a core's groups may have read, in its combine buffer, on their way to the home, or in its chiplet's near cache, are
not yet at the home (R230). -/
def coreLine (s : State) (core uid line : Nat) : Bool :=
  (s.core core).cb.any (fun e => (e.so.isNone || e.gids.contains uid) && e.line == line) || unacked s core line ||
    nearBusy s (chipOfCore core) line

/-- A word that is read as an ordered load reads it (R234) cannot be read now: at team scope (`team`) from the L1 or the combine buffer, where
that has all its bytes; else from the near cache or the home, once no bytes of the core for it are on their way (R230). -/
def wordHeld (s : State) (core pa : Nat) (team : Bool) : Bool :=
  let c := s.core core
  let line := lineOf pa
  let n := cbBytes c pa 4
  if team && ((Tab.get? c.l1 line).isSome || n == 4) then false
  else n != 0 || unacked s core line || (nearBusy s (chipOfCore core) line && (Tab.get? (s.chip (chipOfCore core)).near line).isNone)

/-- Earlier accesses of the group to SO pages are not all performed and acknowledged (R239). -/
def soAhead (s : State) (core uid : Nat) : Bool :=
  (s.ops.any fun e => e.2.uid == uid && hasSo e.2 && !e.2.isPerformed) || soPending s core uid

/-- The memory where an object lies may not be accessed now. The half of a line of device memory must be snooped, BISnpInv for a write,
BISnpData for a read (R320, R345), or the line's sequence number has no room (R232); of host memory the chiplet lacks the sector (R324). -/
def unitHeld (s : State) (core : Nat) (write : Bool) (pa : Nat) : Bool :=
  let line := lineOf pa
  (isDevice pa && (homeGate s line (2 ^ (pa / 64 % 2)) (if write then 0 else (s.hline line).passed) != .go ||
    (write && !seqRoom s line 1))) || (isHost pa && (sectorOf s (chipOfCore core) (pa / 64)).st == 0)

/-- An object operation of a group must wait (R148, R151, R202, R203, R230, R239); `pa` is where the object lies, `so`: on an SO page; scope 0
is that of a WAIT at team scope (R234). -/
def objectHolds (s : State) (core uid : Nat) (release write so : Bool) (scope pa : Nat) : Bool :=
  (release && relHolds s core uid s.nextOp scope) || ownLine s uid (lineOf pa) || unitHeld s core write pa || (so && soAhead s core uid) ||
  (if scope = 0 && !so then wordHeld s core pa true else coreLine s core uid (lineOf pa)) ||
  s.ops.any fun e => e.2.uid == uid &&
    ((e.2.acq && !e.2.isPerformed) || (match e.2.kind with | .fence => e.2.dst.contains 0 | _ => false))

/-- Post what an object operation waits for. -/
def urgeObject (s : State) (core uid : Nat) (release write so : Bool) (scope pa : Nat) : State :=
  let line := lineOf pa
  let s1 := if release && 2 ≤ scope then wantRelease s core uid false else s
  let s2 := match isDevice pa, homeGate s1 line (2 ^ (pa / 64 % 2)) (if write then 0 else (s1.hline line).passed) with
    | true, .hold n => askSnoop s1 line n (!write)
    | _, _ => s1
  let s3 := if isHost pa && (sectorOf s2 (chipOfCore core) (pa / 64)).st == 0 then askWord s2 core uid (pa / 64) else s2
  postWanted 64 (wantEntries s3 core fun e =>
    ((e.so.isNone || e.gids.contains uid) && e.line == line) || (so && e.so == some uid)) core
where
  /-- Ask for the host sector of a word: the group's miss of its near cache (R324, R337). -/
  askWord (s : State) (core uid key : Nat) : State :=
    let chip := chipOfCore core
    let who := groupBy s uid
    if (sectorOf s chip key).engs.contains uid then sectorGo s chip key
    else sectorGo (modSector (wantSector s chip key ((who.map (·.2.part)).getD 0) ((who.map fun g => gidOf g.1).getD 0) 0 1) chip key fun y =>
      { y with engs := y.engs ++ [uid] }) chip key

end Sys2Proof.Machine
end

