-- ==== Sys2Proof/Machine/Agent.lean ====
section
/-! DEFINITION. What the device's other agents do with memory: fetches, window copies, matrix engines, Churn, collectives,
launch blocks and object operations read and write here; and the group that an agent belongs to. -/

namespace Sys2Proof.Machine

/-- A sector that some chiplet holds is one that the host gave as poisoned (R327). -/
def sectorPoisoned (s : State) (pa : Nat) : Bool :=
  isHost pa && s.chips.any fun c => let y := Tab.getD c.2.host (pa / 64) Sector.empty; decide (1 ≤ y.st) && y.poison

/-- The pages that a range of virtual addresses touches. -/
def pagesIn (va n : Nat) : List Nat :=
  if n = 0 then [] else (List.range ((va + n - 1) / 4096 - va / 4096 + 1)).map (· + va / 4096)

/-- Pages translated: where each lies, and its page kind. -/
abbrev PageMap := Tab (Nat × Nat)

/-- Translate each page of a range (R294): the pages found, by page, and those that fault; code 0 marks one that must wait.
`device`: a page of host memory faults PERM (R169). -/
def translatePages (s : State) (x : Xer) (kind : AccKind) (device : Bool) (ps : List Nat) :
    State × PageMap × List (Nat × XFault) :=
  ps.foldl (fun (st : State × PageMap × List (Nat × XFault)) p =>
    let va := p * 4096 % 2 ^ 64
    match translate st.1 x va kind with
    | (t, .ok r) =>
      if device && isHost r.1 then
        let f := leafFault t x va kind 0x21
        (f.1, st.2.1, st.2.2 ++ [(p, f.2)])
      else (t, Tab.set st.2.1 p r, st.2.2)
    | (t, .error e) => (t, st.2.1, st.2.2 ++ [(p, e)])) (s, [], [])

/-- Pages that fault; none of them where one must wait. -/
def faultsOf (bad : List (Nat × XFault)) : List (Nat × XFault) := if bad.any fun b => b.2.code == 0 then [] else bad

/-- Where a virtual address lies, its page translated. -/
def placed (t : PageMap) (va : Nat) : Nat := (Tab.getD t (va / 4096) (0, 0)).1 + va % 4096

/-- The page kind of a virtual address (R233). -/
def kindAt (t : PageMap) (va : Nat) : Nat := (Tab.getD t (va / 4096) (0, 0)).2

/-! ### Reads -/

/-- What a read takes from one line, of addresses and their page kinds: the page kind, the first byte, how many up to the last. -/
def lineRead (pas : List (Nat × Nat)) (line : Nat) : Nat × Nat × Nat :=
  let here := pas.filter fun p => lineOf p.1 == line
  let lo := here.foldl (fun m p => min m p.1) (line * 128 + 127)
  let hi := here.foldl (fun m p => max m p.1) (line * 128)
  (match here with
    | p :: _ => p.2
    | [] => 0, lo, hi + 1 - lo)

/-- The near-cache copy that serves an agent's plain load at scope dev (R21): on an SO page under the lease of its group's clock (R239); a
UO copy only on a UO page (R240). -/
def agentCopy (s : State) (x : Xer) (line ord : Nat) : Option NearLine :=
  (x.chip.bind fun c => Tab.get? (s.chip c).near line).bind fun l =>
    let leased := match x.uid with
      | some u => decide (ptsOf s u ≤ l.rts)
      | none => false
    if (!l.uo || ord == 2) && (ord != 1 || leased) then some l else none

/-- The GID of the group for which an agent accesses memory, 0 where there is none (R337). -/
def xerGid (s : State) (x : Xer) : Nat := (x.uid.map (uidGid s)).getD 0

/-- Lines of a read that may not be served now: for a snoop (R320), or a class budget that has run out (R288). The state has asked. -/
def readWaits (s : State) (x : Xer) (pas : List (Nat × Nat)) (lines : List Nat) : Option State :=
  let r := lines.foldl (fun (st : State × Bool) l =>
    let q := lineRead pas l
    if (agentCopy st.1 x l q.1).isSome then st
    else match readGate st.1 q.2.1 q.2.2 with
      | some t => (t, true)
      | none => match x.cls with
        | some c =>
          let k := globalSlice (l * 128)
          if budgetOk st.1 k x.part c then st else (refuseBudget st.1 (homeMc (l * 128)) k c x.part (xerGid s x), true)
        | none => st) (s, false)
  if r.2 then some r.1 else none

/-- The kind of an agent's miss: a group's own load, or an engine's (R337). -/
def Xer.missKind (x : Xer) : Nat := if x.eng.isSome || x.win then 3 else 0

/-- A near cache's miss is told to its Proctor (R337). -/
def tapMiss (s : State) (x : Xer) (line : Nat) : State :=
  match x.chip, x.uid with
  | some c, some _ => tap s c 1 (some x.part) [line % 2 ^ 32, xerGid s x, x.missKind]
  | _, _ => s

/-- The chiplet in whose near cache an agent's host sectors stand (R324): its own; otherwise that of the group for which it works, or the first
of its partition (DESIGN CHOICE, log 28). -/
def xerChip (s : State) (x : Xer) : Nat :=
  x.chip.getD (chipOfCore (match x.uid.bind (groupBy s) with
    | some (gid, _) => coreOf gid
    | none => bitsAt (s.fe x.part).cores 0 7))

/-- An agent asks for a host sector that its chiplet lacks (R324): a miss, told once of a group's engines until the sector comes (R337). -/
def askSector (s : State) (x : Xer) (chip key : Nat) : State :=
  let who := x.uid.getD 0
  if (sectorOf s chip key).engs.contains who then sectorGo s chip key
  else sectorGo (modSector (wantSector s chip key x.part (xerGid s x) x.missKind 1) chip key fun y => { y with engs := y.engs ++ [who] }) chip key

/-- A read waits for host sectors (R324): the state in which they are asked for. -/
def sectorWaits (s : State) (x : Xer) (pas : List (Nat × Nat)) : Option State :=
  let chip := xerChip s x
  match (((pas.filter fun p => isHost p.1).map fun p => p.1 / 64).eraseDups).filter fun k => (sectorOf s chip k).st == 0 with
  | [] => none
  | ks => some (ks.foldl (fun t k => askSector t x chip k) s)

/-- Serve a line of a read (R21): the copy, where the near cache has it; otherwise the home's bytes stand in memory. A load of an SO page
moves the group's clock (R239). -/
def serveRead (s : State) (x : Xer) (pas : List (Nat × Nat)) (l : Nat) : State × Option (List Byte) :=
  let q := lineRead pas l
  match agentCopy s x l q.1, x.uid with
  | some c, some u => (if q.1 = 1 then raisePts s u (max (ptsOf s u) c.wts) else s, some c.data)
  | some c, none => (s, some c.data)
  | none, u =>
    let s1 := match x.cls with
      | some c => budgetUse s (globalSlice (l * 128)) x.part c q.2.2
      | none => s
    let s2 := tapMiss (readDone s1 q.2.1 q.2.2) x l
    match q.1, u with
    | 1, some u =>
      let r := soLoadAt s2 l (ptsOf s2 u)
      (raisePts r.1 u r.2, none)
    | _, _ => (s2, none)

/-- One byte of a read, with the copies that serve it; of host memory, that of the chiplet's sector. -/
def agentByte (s : State) (chip : Nat) (copies : Tab (List Byte)) (pa : Nat) : Byte :=
  if isHost pa then nth (sectorOf s chip (pa / 64)).data (pa % 64) 0
  else match Tab.get? copies (lineOf pa) with
    | some d => nth d (pa % 128) 0
    | none => Memory.read s.mem pa

/-- Read bytes at addresses with their page kinds, as plain loads at scope dev; none where the read must wait. -/
def agentRead (s : State) (x : Xer) (pas : List (Nat × Nat)) : State × Option (List Byte) :=
  let lines := ((pas.filter fun p => isDevice p.1).map fun p => lineOf p.1).eraseDups
  match (sectorWaits s x pas).or (readWaits s x pas lines) with
  | some t => (t, none)
  | none =>
    let r := lines.foldl (fun (st : State × Tab (List Byte)) l =>
      match serveRead st.1 x pas l with
      | (t, some d) => (t, Tab.set st.2 l d)
      | (t, none) => (t, st.2)) (s, [])
    (r.1, some (pas.map fun p => agentByte r.1 (xerChip s x) r.2 p.1))

/-- Pages of a read on which a poisoned line or sector lies (R327, R371). -/
def poisonAt (s : State) (t : PageMap) (vas ps : List Nat) : List (Nat × XFault) :=
  (ps.filter fun p => (Tab.get? t p).isSome &&
    (vas.any fun va => va / 4096 == p && (poisoned s (placed t va) || sectorPoisoned s (placed t va)))).map fun p => (p, ⟨0x25, 0, 0⟩)

/-- Read bytes at virtual addresses as plain loads at scope dev; or the pages that fault (R149, R371): none where the read
waits, for a snoop, for sequence room or for its class budget (R232, R288, R320). -/
def vaGather (s : State) (x : Xer) (kind : AccKind) (device : Bool) (vas : List Nat) :
    State × Except (List (Nat × XFault)) (List Byte) :=
  let ps := (vas.map (· / 4096)).eraseDups
  let r := translatePages s x kind device ps
  let bad := r.2.2 ++ poisonAt r.1 r.2.1 vas ps
  if bad.isEmpty then
    match agentRead r.1 x (vas.map fun va => (placed r.2.1 va, kindAt r.2.1 va)) with
    | (t, some bs) => (t, .ok bs)
    | (t, none) => (t, .error [])
  else (r.1, .error (faultsOf bad))

/-- Read a range of virtual addresses. -/
def vaRead (s : State) (x : Xer) (kind : AccKind) (device : Bool) (va n : Nat) :
    State × Except (List (Nat × XFault)) (List Byte) :=
  vaGather s x kind device ((List.range n).map fun i => (va + i) % 2 ^ 64)

/-- The translator of a group's own fetches and objects (R294, R295). -/
def groupXer (gid : Nat) (g : Group) : Xer :=
  { part := g.part, core := some (coreOf gid), chip := some (chipOfCore (coreOf gid)), eng := none
    hmode := g.hmode.isSome, uid := some g.uid, cls := some g.cls }

/-- A fault event with one entry for each faulting page (R300, R301). -/
def agentFault (s : State) (part port core slot launch kind unit region : Nat) (agent : Agent)
    (bad : List (Nat × Nat × XFault)) : State × Nat :=
  faultEvent s part port agent (bad.map fun (b : Nat × Nat × XFault) =>
    { va := b.2.1, pte := b.2.2.pte, code := b.2.2.code, core := core, slot := slot, lvl := b.2.2.lvl, kind := kind
      unit := unit, region := region, launch := launch % 2 ^ 32, lanes := 2 ^ 64 - 1 })

/-- Each faulting page with the lowest address of a range on it. -/
def badAt (va : Nat) (bad : List (Nat × XFault)) : List (Nat × Nat × XFault) :=
  bad.map fun b => (b.1, max va (b.1 * 4096), b.2)

/-- Each faulting page with the first of the addresses on it. -/
def badOf (vas : List Nat) (bad : List (Nat × XFault)) : List (Nat × Nat × XFault) :=
  bad.map fun b => (b.1, ((vas.find? fun v => v / 4096 == b.1).getD (b.1 * 4096)), b.2)

/-- A group's agent stops at a fault event, and the fragment parks FAULT (R300). -/
def groupFault (s : State) (gid fi : Nat) (g : Group) (kind : Nat) (agent : Agent) (bad : List (Nat × Nat × XFault)) :
    State :=
  if bad.isEmpty then s
  else
  let r := agentFault s g.part (chipOfCore (coreOf gid)) (coreOf gid) (slotOf gid) (g.launch / 32) kind 0 0 agent bad
  r.1.modFrag gid fi fun f => { f with cond := parkCond s gid (.fault r.2) }

/-! ### Writes -/

/-- The bytes of an engine's write to device memory on a line: the first and how many up to the last. -/
def lineSpan (pas : List Nat) (line : Nat) : Nat × Nat := (lineRead (pas.map fun p => (p, 0)) line).2

/-- Lines of device memory to which an engine writes and which may not be written now: for a snoop, for sequence room, or for the class
budget (R232, R288, R320). The state has asked. -/
def writeWaits (s : State) (part : Nat) (cls : Option Nat) (pas : List Nat) : Option State :=
  let lines := ((pas.filter isDevice).map lineOf).eraseDups
  let r := lines.foldl (fun (st : State × Bool) l =>
    let q := lineSpan pas l
    match writeGate st.1 q.1 q.2 with
    | some t => (t, true)
    | none => match cls with
      | some c =>
        let k := globalSlice (l * 128)
        if budgetOk st.1 k part c then st else (refuseBudget st.1 (homeMc (l * 128)) k c part 0, true)
      | none => st) (s, false)
  if r.2 then some r.1 else none

/-- Count an engine's writes against its class budget, line by line (R288). -/
def writeCounts (s : State) (part cls : Nat) (pas : List Nat) : State :=
  ((pas.filter isDevice).map lineOf).eraseDups.foldl (fun t l => budgetUse t (globalSlice (l * 128)) part cls (lineSpan pas l).2) s

/-- Write bytes at their homes for an engine's job, line by line (R231, R251). Bytes of host memory are postings of a chiplet, that of
a core, to the sectors that they reach (R324, R325; log 28). -/
def agentWrite (s : State) (job part cls uid core gid : Nat) (pts : Option Nat) (bs : List (Nat × Byte)) : State :=
  let lines := (bs.map fun b => lineOf b.1).eraseDups
  lines.foldl (fun t l =>
    let mine := bs.filter fun b => lineOf b.1 == l
    let bytes : Tab Byte := mine.foldl (fun m (b : Nat × Byte) => Tab.set m (b.1 % 128) b.2) []
    if isHost (l * 128) then
      postEntry t core { line := l, so := none, uo := false, bytes := bytes, ops := [], gids := [], part := part, cls := cls,
                                 pts := 0, first := t.clock, want := false, gid := gid } (some job)
    else (engineWrite t job part uid l bytes pts gid).1) s

/-- An engine's job still waits for an answer: of a probe for a line that it has written, or for a posting to host memory (R169, R324). -/
def jobProbed (s : State) (job : Nat) : Bool :=
  (s.hwaits.any fun w => w.job == some job) || s.postings.any fun p => p.2.job == some job

end Sys2Proof.Machine
end

