-- ==== Sys2Proof/Machine/Ctrl.lean ====
section
/-! DEFINITION. CTRL, the control instructions (R190 to R193), their short forms (R66), NOP, and the split table and its
spill area (R221 to R225). -/

namespace Sys2Proof.Machine

/-! ### The split table and the spill area -/

/-- Whether an index lies in the split table. -/
def inTable (k : Nat) : Bool := k < 8

/-- How early an entry is spilled (R222): regions by depth, then fragments at a reconvergence point, then parked, then
sleeping and ready ones. Lower goes first. -/
def spillRank : SplitEntry → Nat
  | .region r => r.depth
  | .frag f => match f.cond with
    | .atRpc => 1000
    | .parked _ _ _ => 1001
    | .sleeping _ => 1002
    | .ready => 1003

/-- The entry of the table that is spilled next (R222): the lowest rank, the highest index; never the fragment `self`. -/
def spillNext (g : Group) (self : Nat) : Option Nat :=
  let cand := g.split.filter fun (e : Nat × SplitEntry) => inTable e.1 && e.1 != self
  (cand.foldl (fun (best : Option (Nat × Nat)) e =>
    match best with
    | none => some (spillRank e.2, e.1)
    | some (r, k) => if spillRank e.2 ≤ r then some (spillRank e.2, e.1) else some (r, k)) none).map (·.2)

/-- The lowest free index of the spill area. -/
def spillFree (g : Group) : Nat := ((List.range 128).find? fun k => (Tab.get? g.split (8 + k)).isNone).getD 128 + 8

/-- An entry that is spilled now. -/
def spillEntry (clock : Nat) : SplitEntry → SplitEntry
  | .frag f => .frag { f with spilled := clock }
  | .region r => .region r

/-- Move one entry to the spill area. -/
def spillOne (g : Group) (clock self : Nat) : Group :=
  match spillNext g self with
  | none => g
  | some k =>
    match Tab.get? g.split k with
    | none => g
    | some e => { g with
        split := Tab.set (Tab.del g.split k) (spillFree g) (spillEntry clock e)
        hmode := if g.hmode == some k then some (spillFree g) else g.hmode }

/-- Free entries of the split table. -/
def freeEntries (g : Group) : Nat := 8 - (g.split.filter fun (e : Nat × SplitEntry) => inTable e.1).length

/-- Spill until `need` entries are free (R222). -/
def makeRoom : Nat → Group → Nat → Nat → Nat → Group
  | 0, g, _, _, _ => g
  | n + 1, g, clock, self, need => if need ≤ freeEntries g then g else makeRoom n (spillOne g clock self) clock self need

/-- The lowest free index of the split table (R221). -/
def lowestEntry (g : Group) : Nat := Tab.lowestFree g.split 8

/-- Put a new fragment into the lowest free entry, under a new name; the index is the answer's second part. -/
def addFrag (g : Group) (f : Frag) : Group × Nat :=
  let k := lowestEntry g
  ({ g with split := Tab.set g.split k (.frag { f with home := k, id := g.nextFrag }), nextFrag := g.nextFrag + 1 }, k)

/-- A fragment made from another one (R191, R192): SCC and CARRY copied (R51), no latch captured (R41). -/
def childFrag (f : Frag) (members : LaneMask) (depth : Nat) (region : Option Nat) (clock : Nat) : Frag :=
  { f with members := members, exec := members, depth := depth, region := region, cond := .ready, since := clock,
           yielded := false, count := 0, lastSp := 0, latches := [], resume := none, hdr := 0, words := [], idx := 0 }

/-- SPLIT with lanes on both sides (R191). -/
def splitIn (g0 : Group) (clock fi : Nat) (taken : LaneMask) (target rpc fall : Nat) : Group :=
  let g := makeRoom 8 g0 clock fi 2
  match g.frag? fi with
  | none => g
  | some f =>
    let rid := g.nextRegion
    let rest := f.members &&& ~~~taken
    let (g1, k) := addFrag { g with nextRegion := rid + 1 }
      (childFrag f taken (f.depth + 1) (some rid) clock)
    let ri := lowestEntry g1
    let region : Region :=
      { id := rid, rpc := rpc, expected := f.members, arrived := 0, depth := f.depth + 1, outer := f.region }
    let g2 := { g1 with split := Tab.set g1.split ri (.region region) }
    let g3 := g2.modFrag fi fun f =>
      { f with members := rest, exec := f.exec &&& ~~~taken, depth := f.depth + 1, region := some rid }
    gotoIn (gotoIn g3 clock k target) clock fi fall

/-- The regions that enclose a region, innermost first, with fuel for the 64 levels. -/
def enclosing : Nat → Group → Option Nat → List Nat
  | 0, _, _ => []
  | _, _, none => []
  | n + 1, g, some rid =>
    match g.region? rid with
    | none => []
    | some (_, r) => rid :: enclosing n g r.outer

/-- Lanes leave a region: it is discarded when it expects none, and fuses when every remaining expected lane has arrived
(R192). -/
def leaveRegion (g : Group) (clock : Nat) (lanes : LaneMask) (rid : Nat) : Group :=
  match g.region? rid with
  | none => g
  | some (ri, r) =>
    let r2 := { r with expected := r.expected &&& ~~~lanes }
    if r2.expected = 0 then { g with split := Tab.del g.split ri }
    else
      let g2 := { g with split := Tab.set g.split ri (.region r2) }
      if r2.arrived = r2.expected then
        match fuse g2 clock ri r2 with
        | (g3, some k) => settleAt 66 g3 clock k
        | (g3, none) => g3
      else g2

/-- BREAK n (R192). -/
def breakIn (g0 : Group) (clock fi n : Nat) (target fall : Nat) : Group :=
  match g0.frag? fi with
  | none => g0
  | some f =>
    let lanes := f.exec
    let chain := enclosing 66 g0 f.region
    let outer := (chain.drop n).head?
    let g1 := if lanes = 0 then g0 else (chain.take n).foldl (fun g r => leaveRegion g clock lanes r) g0
    let rest := f.members &&& ~~~lanes
    let ends := rest == 0
    let g2 :=
      if lanes = 0 then g1
      else
        let child := childFrag f lanes (f.depth - n) outer clock
        if 0 < freeEntries g1 then
          let (g, k) := addFrag g1 child
          gotoIn g clock k target
        else if ends then
          let (g, k) := addFrag { g1 with split := Tab.del g1.split fi } child
          gotoIn g clock k target
        else
          let (g, k) := addFrag (makeRoom 8 g1 clock fi 1) child
          gotoIn g clock k target
    if ends then
      (if 0 < freeEntries g1 || lanes = 0 then { g2 with split := Tab.del g2.split fi } else g2)
    else gotoIn (g2.modFrag fi fun f => { f with members := rest, exec := 0 }) clock fi fall

/-- EXIT (R193): all members leave every enclosing region and the fragment ends. The last live fragment is kept (R34). -/
def exitIn (g0 : Group) (clock fi : Nat) : Group :=
  match g0.frag? fi with
  | none => g0
  | some f =>
    let g1 := { g0 with split := Tab.del g0.split fi }
    let g2 := (enclosing 66 g0 f.region).foldl (fun g r => leaveRegion g clock f.members r) g1
    if g2.frags.isEmpty then { g2 with exited := some (fi, f) } else g2

/-! ### The instructions -/

/-- A CTRL instruction or a short branch: step 4 checks, then the branch must be the clause's last instruction (R75 step
6), then the operand conditions; `kind` is what the LB selector must be. -/
def runCtl (s : State) (i : AluI) (ok branch : Bool) (kind : Option Kind) (k : Ctx → State) :
    Host.Outcome State Fault Refusal :=
  withIssuer s fun x =>
    if !ok then takeTrap s x 0x01 0 0
    else if branch && !x.f.isLast i.len then takeTrap s x 0x03 0 0
    else
      match operandGate s x (match kind with | some k => useOf k i.d | none => Use.none) with
      | .go =>
        k x
      | g => stopAt s x g

/-- The view of an LB word: its selector stands as D. -/
def lbView (f : Lb) : AluI :=
  { d := sel10 f.sel, a := .null, b := .null, c := .null, m := 0, hold := 0, fs := false, lit := f.lit, sp := f.sp,
    len := 2 + tailLen f.lit f.sp }

/-- The step 4 checks of an LB word. -/
def lbFieldsOk (minor : Nat) (f : Lb) : Bool := lbOk minor f

/-- A branch target: pc0 + 4 × sext(offset) (R27). -/
def targetOf (x : Ctx) (off : Int) : Nat := (((x.f.pc0 : Int) + 4 * off) % (2 ^ 64 : Nat)).toNat

/-- A 32-bit signed word offset. -/
def offsetOf (w : Word) : Int := sgn 32 w.toNat

/-- Registers read that were FULL are used (R196): an acquire at scope dev. -/
def useRegs (s : State) (x : Ctx) (rd : List Nat) : State :=
  if usesFull x.g rd then invalidateL1 (s.modGroup x.gid fun g => useNotes g rd) (coreOf x.gid) else s

/-- JMP (R190). -/
def execJmp (f : Lb) (s : State) : Host.Outcome State Fault Refusal :=
  runCtl s (lbView f) (lbFieldsOk 0 f) true none fun x => branchTo s x f.sp.isSome (targetOf x (offsetOf f.w1))
/-- BRS (R190): branch when the fragment's SCC equals the bit. -/
def execBrs (f : Lb) (s : State) : Host.Outcome State Fault Refusal :=
  runCtl s (lbView f) (lbFieldsOk 1 f) true none fun x =>
    branchTo s x f.sp.isSome (if x.f.scc == bitAt f.lo.toNat 5 then targetOf x (offsetOf f.w1) else x.f.fallThrough)
/-- BRZ (R190): branch when Sn, or the pair with W64, is zero. -/
def execBrz (f : Lb) (s : State) : Host.Outcome State Fault Refusal :=
  let w64 := bitAt f.lo.toNat 5
  let kind : Kind := if w64 then .spair false else .sreg
  runCtl s (lbView f) (lbFieldsOk 2 f) true (some kind) fun x =>
    let zero := readSel s x none kind.ty (lbView f).d 0 == 0
    branchTo (useRegs s x (useOf kind (lbView f).d).rd) x f.sp.isSome
      (if zero then targetOf x (offsetOf f.w1) else x.f.fallThrough)
/-- SPLIT (R191). -/
def execSplit (f : Lb) (s : State) : Host.Outcome State Fault Refusal :=
  runCtl s (lbView f) (lbFieldsOk 3 f) true (some (.spair false)) fun x =>
    let mask : LaneMask := BitVec.ofNat 64 (readSel s x none .n64 (lbView f).d 0)
    let taken := mask &&& x.f.exec
    let rest := x.f.members &&& ~~~taken
    let target := targetOf x (sgn 16 (f.w1.toNat / 2 ^ 16))
    let rpc := targetOf x (sgn 16 f.w1.toNat)
    let s1 := useRegs s x (useOf (.spair false) (lbView f).d).rd
    if taken = 0 then branchTo s1 x f.sp.isSome x.f.fallThrough
    else if rest = 0 then branchTo s1 x f.sp.isSome target
    else if 64 < x.f.depth + 1 then takeTrap s x 0x0A 0 0
    else
      (startRunning s1 x.gid).modGroup x.gid fun g =>
        splitIn (g.modFrag x.fi fun h => { issued h s.clock f.sp.isSome with yielded := bitAt x.f.hdr.toNat 27 }) s.clock
          x.fi taken target rpc x.f.fallThrough
/-- BREAK (R192): n above the fragment's depth takes ILLOPND. -/
def execBreak (f : Lb) (s : State) : Host.Outcome State Fault Refusal :=
  let n := f.sel.toNat / 64
  runCtl s (lbView f) (lbFieldsOk 4 f) true none fun x =>
    if x.f.depth < n then takeTrap s x 0x02 0 0
    else
      (startRunning s x.gid).modGroup x.gid fun g =>
        breakIn (g.modFrag x.fi fun h => { issued h s.clock f.sp.isSome with yielded := bitAt x.f.hdr.toNat 27 }) s.clock
          x.fi n (targetOf x (offsetOf f.w1)) x.f.fallThrough
/-- A branch event for the Proctor (R337, source 13). -/
def tapBranch (s : State) (x : Ctx) (kind target : Nat) : State :=
  tap s (chipOfCore (coreOf x.gid)) 13 (some x.g.part) [gidOf x.gid, kind, x.f.pc0, target]
/-- CALL (R190): the pair receives the fall-through. -/
def execCall (f : Lb) (s : State) : Host.Outcome State Fault Refusal :=
  runCtl s (lbView f) (lbFieldsOk 5 f) true (some (.dstS true false)) fun x =>
    let target := targetOf x (offsetOf f.w1)
    branchTo (tapBranch (writeUni s x (lbView f).d true x.f.fallThrough) x 0 target) x f.sp.isSome target
/-- RET and JMPI (R190): a destination that is not a multiple of 4 takes ALIGN. -/
def jumpPair (s : State) (f : Lb) (minor kind : Nat) : Host.Outcome State Fault Refusal :=
  runCtl s (lbView f) (lbFieldsOk minor f) true (some (.spair false)) fun x =>
    let target := readSel s x none .n64 (lbView f).d 0
    let s1 := useRegs s x (useOf (.spair false) (lbView f).d).rd
    if target % 4 ≠ 0 then takeTrap s x 0x07 target 0
    else branchTo (tapBranch s1 x kind target) x f.sp.isSome target
/-- RET (R190). -/
def execRet (f : Lb) (s : State) : Host.Outcome State Fault Refusal := jumpPair s f 6 1
/-- JMPI (R190). -/
def execJmpi (f : Lb) (s : State) : Host.Outcome State Fault Refusal := jumpPair s f 7 2
/-- EXIT (R193): the group goes to RETIRING when its last live fragment ends (R219), which parks FLAGWAIT (R34). -/
def execExit (f : Lb) (s : State) : Host.Outcome State Fault Refusal :=
  runCtl s (lbView f) (lbFieldsOk 8 f) true none fun x =>
    let s1 := (startRunning s x.gid).modGroup x.gid fun g =>
      exitIn (g.modFrag x.fi fun h => { issued h s.clock f.sp.isSome with yielded := bitAt x.f.hdr.toNat 27 }) s.clock x.fi
    match Tab.get? s1.groups x.gid with
    | some g =>
      if g.exited.isSome then
        setGState (s1.modGroup x.gid fun g => { g with
          exited := g.exited.map fun e => (e.1, { e.2 with cond := parkCond s x.gid .exit }) }) x.gid .retiring
      else s1
    | none => s1
/-- YIELD (R190): last among the ready fragments of its priority, from its next selection on (R228). -/
def execYield (f : Lb) (s : State) : Host.Outcome State Fault Refusal :=
  runCtl s (lbView f) (lbFieldsOk 9 f) false none fun x =>
    (advance s x (lbView f).len f.sp.isSome).modFrag x.gid x.fi fun h => { h with yielded := true }

/-- The view of a BR word (R65). -/
def brView (f : Br) : AluI :=
  { d := .null, a := .null, b := .null, c := .null, m := 0, hold := 0, fs := false, lit := none, sp := f.sp,
    len := 1 + tailLen none f.sp }
/-- Short JMP (R66): COND must be zero. -/
def execJmpShort (f : Br) (s : State) : Host.Outcome State Fault Refusal :=
  runCtl s (brView f) (f.cond == 0) true none fun x => branchTo s x f.sp.isSome (targetOf x (sgn 20 f.off.toNat))
/-- Short BRS (R66): branch when SCC equals COND[20]; COND[23:21] must be zero. -/
def execBrsShort (f : Br) (s : State) : Host.Outcome State Fault Refusal :=
  runCtl s (brView f) (f.cond.toNat < 2) true none fun x =>
    branchTo s x f.sp.isSome
      (if x.f.scc == bitAt f.cond.toNat 0 then targetOf x (sgn 20 f.off.toNat) else x.f.fallThrough)
/-- NOP (R66): nothing but an issue slot. -/
def execNop (f : NopF) (s : State) : Host.Outcome State Fault Refusal :=
  withIssuer s fun x => advance s x (1 + tailLen none f.sp) f.sp.isSome

end Sys2Proof.Machine
end

