-- ==== Sys2Proof/Machine/Mem.lean ====
section
/-! DEFINITION. Issue of the memory instructions: addresses and spans (R144, R145), alignment (R146), completion flags (R30,
R31), and MGLB (R152, R154) and the global atomics of MATM (R157 to R160). -/

namespace Sys2Proof.Machine

/-! ### Operands -/

/-- bytes(SIZE) (R144). -/
def sizeBytes (size : Nat) : Nat := 2 ^ size

/-- The address pair of LM and LA (R68, R144); only an S pair in a uniform instruction. -/
def useAddr (uniform : Bool) : Sel → Use
  | .v n => if uniform || n % 2 == 1 then Use.illegal else { Use.none with vs := [n, n + 1], rd := [keyV n, keyV (n + 1)] }
  | .s n => if n % 2 == 1 then Use.illegal else { Use.none with rd := [keyS n, keyS (n + 1)] }
  | _ => Use.illegal

/-- Registers `n` to `n + k - 1`. -/
def regSpan (n k : Nat) : List Nat := (List.range k).map (n + ·)

/-- A span of `k` registers written, from an index that is a multiple of `al`; NULL discards (R68, R145, R160). -/
def useSpanDst (uniform : Bool) (k al : Nat) : Sel → Use
  | .v n => if uniform || n % al ≠ 0 then Use.illegal
            else { Use.none with vs := regSpan n k, wr := (regSpan n k).map keyV }
  | .s n => if uniform && n % al = 0 then { Use.none with wr := (regSpan n k).map keyS } else Use.illegal
  | .null => Use.none
  | _ => Use.illegal

/-- Store data (R68, R145). -/
def useStoreData (uniform : Bool) (size : Nat) : Sel → Use
  | .v n => let k := loadRegs size
            if uniform || n % k ≠ 0 then Use.illegal else { Use.none with vs := regSpan n k, rd := (regSpan n k).map keyV }
  | .s n => let k := loadRegs size
            if n % k ≠ 0 then Use.illegal else { Use.none with rd := (regSpan n k).map keyS }
  | .const _ => if size ≤ 2 then Use.none else Use.illegal
  | .null => if size ≤ 2 then Use.none else Use.illegal
  | .lit => if size ≤ 2 then { Use.none with lits := 1 } else Use.illegal
  | _ => Use.illegal

/-- The address of a lane (R144): `contig` bytes between the lanes of a contiguous S form. -/
def laneAddr (x : Ctx) (addr : Sel) (off : Int) (contig l : Nat) : Nat :=
  let base := match addr with
    | .v n => (pairOf (x.g.vlane n l) (x.g.vlane (n + 1) l)).toNat
    | .s n => (x.g.spair n).toNat + l * contig
    | _ => 0
  (((base : Int) + off) % (2 ^ 64 : Nat)).toNat

/-- The value of a store's data in a lane (R145). -/
def storeValue (s : State) (x : Ctx) (lit : Option Word) (size : Nat) (d : Sel) (l : Nat) : Nat :=
  let words (f : Nat → Word) : Nat := (List.range (loadRegs size)).foldl (fun acc k => acc + (f k).toNat * 2 ^ (32 * k)) 0
  match d with
  | .v n => words fun k => x.g.vlane (n + k) l
  | .s n => words fun k => x.g.sreg (n + k)
  | d => readSel s x lit .n32 d l

/-- The accesses of a lane (R146): whole where it is naturally aligned, two halves at 16 bytes, byte by byte otherwise. -/
def laneAccs (l va n : Nat) (data : List Byte) : List Acc :=
  let mk (off k : Nat) : Acc :=
    { lane := l, va := (va + off) % 2 ^ 64, n := k, off := off, pa := 0, ord := 0, team := none,
      data := (data.drop off).take k, sent := false, done := false }
  if va % n = 0 then (if n = 16 then [mk 0 8, mk 8 8] else [mk 0 n])
  else (List.range n).map fun i => mk i 1

/-! ### Issue -/

/-- The completion flag that an instruction joins (R26, R30): SETA, or SETB with FS; none where the field is 15. -/
def joinFlag (f : Frag) (fs : Bool) : Option Nat :=
  let n := bitsAt f.hdr.toNat (if fs then 23 else 19) 4
  if n < 12 then some n else none

/-- The flag's counter is full (R31). -/
def flagFull (g : Group) (flag : Option Nat) : Option Await :=
  match flag with
  | some n => if 63 ≤ nth g.fcnt n 0 then some (.room n) else none
  | none => none

/-- Every earlier memory instruction of the group is translated in all its active lanes (R149). -/
def allTranslated (s : State) (uid : Nat) : Bool :=
  s.ops.all fun e => !(e.2.uid == uid && (match e.2.stage with | .translate => true | .faulted _ => true | _ => false))

/-- Replayable operations of a group outstanding: loads, memory instructions not translated, notes not posted (R307). An atomic that has not
been performed counts, since poison can still stop it (DESIGN CHOICE, log 107). -/
def replayable (s : State) (uid : Nat) : Nat :=
  (s.ops.filter fun e => e.2.uid == uid && (e.2.replays || (match e.2.kind, e.2.stage with
    | .atomic, .performed => false
    | .satomic, .performed => false
    | .atomic, _ => true
    | .satomic, _ => true
    | _, _ => false))).length + (s.notes.filter fun e => e.2.uid == uid && e.2.stage == 0).length

/-- Count an operation into its flag (R30). -/
def countFlag (g : Group) (flag : Option Nat) : Group :=
  match flag with
  | some n => { g with fcnt := updNth g.fcnt n (· + 1) }
  | none => g

/-- Registers become pending for an operation (R42); one that was armed is disarmed (log 21). -/
def markPend (g : Group) (id : Nat) (keys : List Nat) : Group :=
  keys.foldl (fun g k => { g with pend := Tab.set g.pend k id, note := Tab.del g.note k }) g

/-- An operation of the issuing fragment, with nothing filled in. -/
def blankOp (s : State) (x : Ctx) (kind : OpKind) (flag : Option Nat) : Op :=
  { kind := kind, gid := x.gid, uid := x.g.uid, frag := x.f.id, part := x.g.part, cls := x.g.cls,
    hmode := x.g.hmode.isSome, flag := flag, dest := none, lanes := x.f.exec, uni := false, size := 0, sx := false,
    nt := false, order := 0, scope := 0, uo := false, src := [], dst := [], acc := [], aop := 0, ty := 0, data := [],
    cmp := [], tags := [], stage := .ready, pages := [], walk := none, found := [], bad := [], waits := 0,
    born := s.clock, pc := x.f.pc0, iw := formatWords x.f, launch := x.g.launch, pts := 0 }

/-- Issue an operation: it gets its name, joins its flag, and its destinations become pending. -/
def addOp (s : State) (x : Ctx) (o : Op) (pend : List Nat) : State :=
  let id := s.nextOp
  let s1 := { s with nextOp := id + 1, ops := Tab.set s.ops id o }
  s1.modGroup x.gid fun g => markPend (countFlag g o.flag) id pend

/-- A memory instruction as the issue rules see it. -/
structure MemIssue where
  ok : Bool
  use : Use
  len : Nat
  sp : Bool
  flag : Option Nat
  /-- It is not performed where EXEC is zero (R150). -/
  vector : Bool
  /-- The lanes' addresses, where they must be naturally aligned: to how many bytes (R146). -/
  align : Option Nat
  addrs : List (Nat × Nat)
  /-- Bytes written by each lane at its address, 0 for a load (R264). -/
  writes : Nat
  /-- Scratchpad bytes written: team, offset, count (R264). -/
  padWrites : List (Nat × Nat × Nat)
  /-- It is a replayable operation, or can become one (R307). -/
  replay : Bool
  /-- It accesses scratchpads, whose addresses are not translated (R155). -/
  pad : Bool := false
  deriving DecidableEq, Repr

/-- The parts of a lane's bytes by page (R146). -/
def onPages (va n : Nat) : List (Nat × Nat) :=
  let k := min n (4096 - va % 4096)
  if k = n then [(va, n)] else [(va, k), ((va + k) % 2 ^ 64, n - k)]

/-- The barrier or lock object with WAITING entries that a store or atomic would reach (R264). -/
def objectHit (s : State) (x : Ctx) (i : MemIssue) (kind : AccKind) : Option Nat :=
  if s.chips.all fun c => c.2.att.isEmpty then none
  else if i.writes = 0 then (i.padWrites.findSome? fun p => waitedObject s (some p.1) p.2.1 p.2.2).map (·.obj)
  else
    ((i.addrs.flatMap fun a => onPages a.2 i.writes).findSome? fun (a : Nat × Nat) => match peek s (groupXer x.gid x.g) a.1 kind with
      | some pa => waitedObject s none pa a.2
      | none => none).map (·.obj)

/-- The bytes that a store or atomic would write lie on pages of which a table read must wait for the host (R320) before `objectHit` can
tell: the state in which that has been asked for. -/
def objectWaits (s : State) (x : Ctx) (i : MemIssue) (kind : AccKind) : Option State :=
  if i.writes = 0 || s.chips.all fun c => c.2.att.isEmpty then none
  else
    let ps := ((i.addrs.flatMap fun a => onPages a.2 i.writes).map fun a => a.1 / 4096).eraseDups
    let r := translatePages s (groupXer x.gid x.g) kind false ps
    if r.2.2.any fun b => b.2.code == 0 then some r.1 else none

/-- The operation kind of an access kind. -/
def kindOp : AccKind → OpKind
  | .store => .store
  | .atomic => .atomic
  | _ => .load

/-- The accesses of `n` bytes that a memory instruction would make, as an operation to be translated. -/
def alignOp (s : State) (x : Ctx) (i : MemIssue) (kind : AccKind) (n : Nat) : Op :=
  { blankOp s x (kindOp kind) none with uni := !i.vector, acc := i.addrs.flatMap fun a => laneAccs a.1 a.2 n [] }

/-- An ordered access or an atomic on an address that is not naturally aligned (R146, R152): every active lane is translated first. Where a
page faults, the fragment parks FAULT with nothing performed (R149); otherwise the trap is ALIGN, with the lowest failing lane's address. -/
def alignTrap (s : State) (x : Ctx) (i : MemIssue) (kind : AccKind) (n va : Nat) : State :=
  if i.pad then takeTrap s x 0x07 va 0
  else if !allTranslated s x.g.uid then park s x .order
  else
    let o := alignOp s x i kind n
    let r := translatePages s (opXer o) kind false (pagesOf o)
    if r.2.2.isEmpty then takeTrap r.1 x 0x07 va 0
    else match faultsOf r.2.2 with
      | [] => park r.1 x .order
      | bad =>
        let q := faultEvent r.1 x.g.part (chipOfCore (coreOf x.gid)) (.access x.gid x.f.id)
          (bad.map fun b => opFaultEntry o (x.g.launch / 32) b.1 b.2.code b.2.lvl b.2.pte)
        park q.1 x (.fault q.2)

/-- Issue a memory instruction (R75, R60, R146, R149, R31): `k` makes its operation. -/
def runMem (s : State) (mk : Ctx → MemIssue) (kind : AccKind) (k : Ctx → State → State) :
    Host.Outcome State Fault Refusal :=
  withIssuer s fun x =>
    let i := mk x
    if !i.ok then takeTrap s x 0x01 0 0
    else match operandGate s x i.use with
      | .go =>
        let s1 := (useRegs s x i.use.rd).modGroup x.gid fun g => popQueues g i.use.qs
        if i.vector && x.f.exec == 0 then advance s1 x i.len i.sp
        else
          let badly := match i.align with
            | some n => i.addrs.find? fun (a : Nat × Nat) => a.2 % n ≠ 0
            | none => none
          match badly with
          | some a => alignTrap s x i kind (i.align.getD 1) a.2
          | none =>
            match objectWaits s x i kind with
            | some t => park t x .order
            | none =>
            match objectHit s x i kind with
            | some obj => takeTrap s x 0x0C obj 0
            | none =>
              match flagFull x.g i.flag with
              | some w => park s x w
              | none =>
                if !allTranslated s x.g.uid then park s x .order
                else if i.replay && 16 ≤ replayable s x.g.uid then park s x (.back 5)
                else match linkCause s x.g.uid with
                  | some c => park s x (.back c)
                  | none => advance (k x s1) x i.len i.sp
      | g => stopAt s x g

/-- Words of an LM instruction. -/
def lmLen (f : Lm) : Nat := 2 + tailLen f.lit f.sp

/-- The lanes an instruction acts on, with their addresses. -/
def laneAddrs (x : Ctx) (uniform : Bool) (addr : Sel) (off : Int) (contig : Nat) : List (Nat × Nat) :=
  if uniform then [(0, laneAddr x addr off 0 0)]
  else (lanesOf x.f.exec).map fun l => (l, laneAddr x addr off contig l)

/-- The issue record of an LM load or store. -/
def lmIssue (maj minor : Nat) (uniform store : Bool) (f : Lm) (x : Ctx) : MemIssue :=
  let size := f.size.toNat
  let d := sel10 f.d
  let n := sizeBytes size
  { ok := lmOk maj minor f
    use := Use.and (useAddr uniform (sel10 f.addr))
      (if store then useStoreData uniform size d else useSpanDst uniform (loadRegs size) (loadRegs size) d)
    len := lmLen f, sp := f.sp.isSome, flag := joinFlag x.f f.fs, vector := !uniform
    align := if f.order == 0 then none else some n
    addrs := laneAddrs x uniform (sel10 f.addr) (sgn 16 f.off.toNat) n
    writes := if store && maj == 0x10 then n else 0, padWrites := []
    replay := maj == 0x10 || !store, pad := maj == 0x11 }

/-- The register keys of a destination span. -/
def spanKeys (k : Nat) : Sel → List Nat
  | .v n => (regSpan n k).map keyV
  | .s n => (regSpan n k).map keyS
  | _ => []

/-- The first register key of a destination. -/
def destKey : Sel → Option Nat
  | .v n => some (keyV n)
  | .s n => some (keyS n)
  | _ => none

/-- The operation of an LM load or store. -/
def lmOp (s : State) (x : Ctx) (kind : OpKind) (uniform store : Bool) (f : Lm) (i : MemIssue) : Op :=
  let size := f.size.toNat
  let n := sizeBytes size
  { blankOp s x kind i.flag with
    dest := if store then none else destKey (sel10 f.d)
    uni := uniform, size := size, sx := f.sx, nt := f.nt, order := f.order.toNat, scope := f.scope.toNat
    acc := i.addrs.flatMap fun a =>
      laneAccs a.1 a.2 n (if store then toBytes n (storeValue s x f.lit size (sel10 f.d) a.1) else []) }

/-- A global load or store (R152). -/
def runLm (s : State) (minor : Nat) (uniform store : Bool) (f : Lm) : Host.Outcome State Fault Refusal :=
  runMem s (lmIssue 0x10 minor uniform store f) (if store then .store else .load) fun x s1 =>
    let i := lmIssue 0x10 minor uniform store f x
    let o := lmOp s x (if store then .store else .load) uniform store f i
    beginTranslate (addOp s1 x o (if store then [] else spanKeys (loadRegs f.size.toNat) (sel10 f.d))) s1.nextOp

/-- GLD (R152). -/
def execGld (f : Lm) (s : State) : Host.Outcome State Fault Refusal := runLm s 0 false false f
/-- GST (R152). -/
def execGst (f : Lm) (s : State) : Host.Outcome State Fault Refusal := runLm s 1 false true f
/-- ULD (R152). -/
def execUld (f : Lm) (s : State) : Host.Outcome State Fault Refusal := runLm s 2 true false f
/-- UST (R152). -/
def execUst (f : Lm) (s : State) : Host.Outcome State Fault Refusal := runLm s 3 true true f

/-- The issue record of a CPF: it joins no flag. -/
def cpfIssue (f : Lm) (x : Ctx) : MemIssue :=
  { ok := lmOk 0x10 4 f, use := useAddr false (sel10 f.addr), len := lmLen f, sp := f.sp.isSome, flag := none,
    vector := true, align := none, addrs := laneAddrs x false (sel10 f.addr) (sgn 16 f.off.toNat) 1, writes := 0,
    padWrites := [], replay := false }

/-- CPF (R154): each active lane's line; lanes that would fault are dropped. -/
def execCpf (f : Lm) (s : State) : Host.Outcome State Fault Refusal :=
  runMem s (cpfIssue f) .load fun x s1 =>
    let o := { blankOp s x .prefetch none with
      nt := f.nt, acc := (cpfIssue f x).addrs.flatMap fun a => laneAccs a.1 a.2 1 [] }
    beginTranslate (addOp s1 x o []) s1.nextOp

/-! ### Atomics -/

/-- The operand type of an atomic's TYPE (R158). -/
def atomTy (ty : Nat) : OpTy := if ty = 2 then .i64 else if ty = 3 then .f32 else if ty = 1 then .n32 else .i32

/-- DATA and CMP of an atomic (R157): in UATOM an S register, constant, literal or NULL; in the others a V register or a
uniform operand (R130). -/
def useAtomSrc (uniform : Bool) (ty : Nat) (sel : Sel) : Use :=
  match sel with
  | .v _ => useSrc uniform (atomTy ty) sel
  | .s _ => useSrc uniform (atomTy ty) sel
  | .const _ => Use.none
  | .null => Use.none
  | .lit => useSrc uniform (atomTy ty) sel
  | _ => if uniform then Use.illegal else useSrc true (atomTy ty) sel

/-- The issue record of an atomic. -/
def laIssue (minor : Nat) (uniform global : Bool) (f : La) (x : Ctx) : MemIssue :=
  let ty := f.ty.toNat
  let scope := f.scope.toNat
  let k := atomRegs ty scope
  { ok := laOk minor f
    use := Use.and (useAddr uniform (sel10 f.addr)) (Use.and (useSpanDst uniform k k (sel10 f.d))
      (Use.and (useAtomSrc uniform ty (sel10 f.data))
        (if f.aop == 8 then useAtomSrc uniform ty (sel10 f.cmp) else Use.none)))
    len := 3 + tailLen f.lit f.sp, sp := f.sp.isSome, flag := joinFlag x.f f.fs, vector := !uniform
    align := some (if ty = 2 then 8 else 4)
    addrs := laneAddrs x uniform (sel10 f.addr) (sgn 16 f.off.toNat) 0
    writes := if global then (if ty = 2 then 8 else 4) else 0, padWrites := []
    replay := true, pad := !global }

/-- The operation of an atomic: operands read by lane (R151). -/
def laOp (s : State) (x : Ctx) (kind : OpKind) (uniform : Bool) (f : La) (i : MemIssue) : Op :=
  let ty := f.ty.toNat
  let n := if ty = 2 then 8 else 4
  let vals (sel : Sel) : Tab Nat := i.addrs.map fun a => (a.1, readSel s x f.lit (atomTy ty) sel a.1)
  { blankOp s x kind i.flag with
    dest := destKey (sel10 f.d)
    uni := uniform, order := f.order.toNat, scope := f.scope.toNat, aop := f.aop.toNat, ty := ty
    data := vals (sel10 f.data), cmp := if f.aop == 8 then vals (sel10 f.cmp) else []
    acc := i.addrs.flatMap fun a => laneAccs a.1 a.2 n [] }

/-- A global atomic (R157, R159). -/
def runLa (s : State) (minor : Nat) (uniform : Bool) (f : La) : Host.Outcome State Fault Refusal :=
  runMem s (laIssue minor uniform true f) .atomic fun x s1 =>
    let i := laIssue minor uniform true f x
    beginTranslate (addOp s1 x (laOp s x .atomic uniform f i) (spanKeys (atomRegs f.ty.toNat f.scope.toNat) (sel10 f.d)))
      s1.nextOp

/-- GATOM (R159). -/
def execGatom (f : La) (s : State) : Host.Outcome State Fault Refusal := runLa s 0 false f
/-- UATOM (R159). -/
def execUatom (f : La) (s : State) : Host.Outcome State Fault Refusal := runLa s 3 true f

end Sys2Proof.Machine
end

