-- ==== Sys2Proof/Machine/Clause.lean ====
section
/-! DEFINITION. Clause entry (R26 to R29, R217), parking and waking (R43, R44), sleeping (R212), the spill area (R222), and
the checks before an instruction's own (R73, R75). -/

namespace Sys2Proof.Machine

/-! ### Waking -/

/-- Free entries of a queue (R52, R53). -/
def queueFree (g : Group) (q : Nat) : Nat :=
  (if q ≤ 3 then 8 else if q = 5 then 8 else 16) - (nth g.queues q []).length

/-- Reserve an entry of a queue for an operation, at issue (R53). -/
def reserveQueue (g : Group) (q op : Nat) (flag : Option Nat) : Group :=
  { g with queues := updNth g.queues q (· ++ [{ op := op, flag := flag, res := none, val := none }]) }

/-- The result of an operation of a group is known: its first entry of the queue without one takes it (R53, R169, R209); one that a
save gave up only counts its flag down (R313). -/
def giveResult (s : State) (gid q op : Nat) (ws : List Word) : State :=
  let put : List QSlot → List QSlot := fun l =>
    match l.findIdx? fun e => e.op == op && e.res.isNone with
    | some k => updNth l k fun e => { e with res := some ws }
    | none => l
  s.modGroup gid fun g =>
    if (nth g.queues q []).any fun e => e.op == op && e.res.isNone then { g with queues := updNth g.queues q put }
    else match g.orphans.find? fun e => e.op == op with
      | some e => { g with
          orphans := g.orphans.erase e
          fcnt := match e.flag with
            | some n => updNth g.fcnt n (· - 1)
            | none => g.fcnt }
      | none => g

/-- The same for the group with a lasting name. -/
def setResult (s : State) (uid q op : Nat) (ws : List Word) : State :=
  match groupBy s uid with
  | some (gid, _) => giveResult s gid q op ws
  | none => s

/-- The two words of a 64-bit queue entry (R52). -/
def qWords (v : Nat) : List Word := [BitVec.ofNat 32 v, BitVec.ofNat 32 (v / 2 ^ 32)]

/-- The entries of a queue that arrive now: those whose result is known and that no earlier one holds back (R53); the flags that
drop. -/
def arriveSlots : List QSlot → List QSlot × List Nat
  | [] => ([], [])
  | e :: r =>
    match e.val, e.res with
    | some _, _ => let p := arriveSlots r; (e :: p.1, p.2)
    | none, some ws =>
      let p := arriveSlots r
      ({ e with val := some ws } :: p.1, (match e.flag with | some n => n :: p.2 | none => p.2))
    | none, none => (e :: r, [])

/-- Entries arrive in every queue of a group (R53), and the flags they joined drop (R30, R150). -/
def arriveQueues (g : Group) : Group :=
  let r := g.queues.map arriveSlots
  let drops := r.flatMap (·.2)
  { g with queues := r.map (·.1), fcnt := drops.foldl (fun f n => updNth f n (· - 1)) g.fcnt }

/-- A physical tile of a core. -/
def tileOf (s : State) (core t : Nat) : Tile := Tab.getD (s.core core).tiles t Tile.empty

/-- The lowest spare tile (R173): no group holds it and no turn is pending on it. -/
def spareTile (s : State) (core : Nat) : Option Nat :=
  (List.range 32).find? fun t => (tileOf s core t).owner.isNone && (tileOf s core t).turns.isEmpty

/-- Some tile is returning to the pool (R173). -/
def tileReturning (s : State) (core : Nat) : Bool :=
  (List.range 32).any fun t => (tileOf s core t).owner.isNone && !(tileOf s core t).turns.isEmpty

/-- Matrix jobs of a group that a save would record (R307). -/
def jobCount (s : State) (uid : Nat) : Nat :=
  (s.mjobs.filter fun (e : Nat × MJob) => e.2.uid == uid && !(e.2.kind == 4 && e.2.begun)).length

/-- The core's queue of MMA jobs has room (R181): it holds sixteen and a number of more that is free (log 10). -/
def queueRoom (s : State) (core : Nat) : Bool :=
  let n := (s.mjobs.filter fun (e : Nat × MJob) => e.2.kind == 1 && coreOf e.2.gid == core && e.2.tile.isSome).length
  decide (n < 16) || decide (n < 16 + Config.jobQueue)

/-- The flags of a WAITM mask that are set (R30, R32). -/
def flagsSet (g : Group) (mask : Nat) : List Nat :=
  (List.range 12).filter fun n => bitAt mask n && decide (0 < nth g.fcnt n 0)

/-- The condition for which a fragment parked holds now (R43). Waits in Attendance end by the event that ends them. -/
def awaitMet (s : State) (gid : Nat) (g : Group) : Await → Bool
  | .flags m => (flagsSet g m).isEmpty
  | .room n => nth g.fcnt n 0 < 63
  | .pend ks => ks.all fun k => (Tab.get? g.pend k).isNone
  | .queue q => queueReady g q
  | .att => false
  | .bar _ _ => false
  | .exit => false
  | .preempt => false
  | .fault ev => (Tab.get? s.events ev).isNone
  | .note ks => ks.all fun k => Tab.get? g.note k != some .empty
  | .back 0 => !cbBlocked s (coreOf gid)
  | .back 4 => (spareTile s (coreOf gid)).isSome
  | .back 5 => replayable s g.uid < 16
  | .back n => linkCause s g.uid != some n
  | .entries q n => n ≤ queueFree g q
  | .jobs => jobCount s g.uid < 16
  | .engines => queueRoom s (coreOf gid)
  | .order => allTranslated s g.uid
  | .bind t b => match Tab.get? s.teams t with
    | some t => !(t.region b).bindAhead g.uid s.nextOp
    | none => true
  | .object r w so sc pa => !objectHolds s (coreOf gid) g.uid r w so sc pa
  | .fetch va n => match (vaRead s (groupXer gid g) .fetch false va n).2 with
    | .error [] => false
    | _ => true

/-- The fault event at which an operation of a group is stopped (R149). -/
def opStop (s : State) (uid : Nat) : Option Nat :=
  s.ops.findSome? fun e => match e.2.stage with
    | .faulted ev => if e.2.uid = uid then some ev else none
    | _ => none

/-- The fault event at which the group itself is stopped: a break, a LAUNCH that reads its block, or a misaligned access that is translated
first (R152, R218, R300). -/
def agentStop (s : State) (gid : Nat) : Option Nat :=
  s.events.findSome? fun e => match e.2.agent with
    | .debug k _ => if k = gid then some e.1 else none
    | .launchBlock k _ => if k = gid then some e.1 else none
    | .access k _ => if k = gid then some e.1 else none
    | _ => none

/-- The fault event for which a group as a whole parks FAULT (R149, R218, R300): it issues nothing until the event is resumed. -/
def groupStop (s : State) (gid uid : Nat) : Option Nat := (opStop s uid).or (agentStop s gid)

/-- A parked fragment whose condition holds becomes ready (R43); one that found the waiting table full is left to its
re-test (R44). -/
def wakeFrag (s : State) (gid : Nat) (g : Group) (f : Frag) : Frag :=
  match f.cond with
  | .parked why true _ => if awaitMet s gid g why then { f with cond := .ready, since := s.clock } else f
  | _ => f

/-- Wake the fragments of the groups that live. -/
def wakeAll (s : State) : State :=
  { s with groups := s.groups.map fun (e : Nat × Group) =>
      if e.2.live then
        (e.1, { e.2 with split := e.2.split.map fun (y : Nat × SplitEntry) => match y.2 with
          | .frag f => (y.1, .frag (wakeFrag s e.1 e.2 f))
          | .region r => (y.1, .region r) })
      else e }

/-- What holds a group's fragments that are otherwise ready: it is being saved or is saved (R43; log 73), or it is stopped at a fault event
(R149, R300; log 18). -/
def holdWhy (s : State) (gid : Nat) (g : Group) : Option Await :=
  if g.grace.isSome || g.state = .saved then some .preempt else (groupStop s gid g.uid).map .fault

/-- The ready fragments of a group that is held park with that reason (R43, R149); those that wait already stay as they are. -/
def holdReady (s : State) : State :=
  s.groups.foldl (fun t e =>
    match (e.2.frags.filter fun f => f.2.cond == .ready).map (·.1), holdWhy s e.1 e.2 with
    | [], _ => t
    | _, none => t
    | fs, some why => fs.foldl (fun u fi => u.modFrag e.1 fi fun f => { f with cond := parkCond u e.1 why }) t) s

/-- A group's state follows its fragments (R219): RUNNING while one is ready, else PARKED; one that is being saved stays as it is until its
save completes. -/
def followState (s : State) (gid : Nat) : State :=
  match Tab.get? s.groups gid with
  | none => s
  | some g =>
    let ready := g.frags.any fun e => e.2.cond == .ready
    if g.grace.isSome then s
    else match g.state with
    | .running => if ready || g.frags.isEmpty then s else setGState s gid .parked
    | .parked => if ready then setGState s gid .running else s
    | _ => s

/-- WAITING_TABLE_RETEST (R44). -/
def execWaitingTableRetest (core slot frag : Nat) (s : State) : Host.Outcome State Fault Refusal :=
  let gid := core * 128 + slot
  .next (match Tab.get? s.groups gid with
    | none => s
    | some g => match g.frag? frag with
      | none => s
      | some f => match f.cond with
        | .parked why false _ =>
          if g.live && awaitMet s gid g why then
            s.modFrag gid frag fun f => { f with cond := .ready, since := s.clock }
          else s
        | _ => s)

/-- SLEEP_EXPIRY (R212). -/
def execSleepExpiry (core slot frag : Nat) (s : State) : Host.Outcome State Fault Refusal :=
  let gid := core * 128 + slot
  .next (s.modFrag gid frag fun f => match f.cond with
    | .sleeping till =>
      if till ≤ s.clock && (match Tab.get? s.groups gid with | some g => g.live | none => false) then
        { f with cond := .ready, since := s.clock }
      else f
    | _ => f)

/-- SPILL_BRING_BACK (R222): a ready fragment of the spill area comes back, by a swap where the table is full. -/
def execSpillBringBack (core slot idx : Nat) (s : State) : Host.Outcome State Fault Refusal :=
  let gid := core * 128 + slot
  .next (s.modGroup gid fun g =>
    match Tab.get? g.split idx with
    | some (.frag f) =>
      if inTable idx || f.cond != .ready || !g.live then g
      else
        let g1 := { g with split := Tab.del g.split idx }
        let g2 := if freeEntries g1 = 0 then spillOne g1 s.clock 128 else g1
        let k := if (Tab.get? g2.split f.home).isNone && inTable f.home then f.home else lowestEntry g2
        { g2 with split := Tab.set g2.split k (.frag { f with home := k })
                  hmode := if g2.hmode == some idx then some k else g2.hmode }
    | _ => g)

/-! ### Clause entry -/

/-- The header is well formed (R28). -/
def headerOk (h : Nat) : Bool :=
  bitsAt h 29 3 == 5 && !bitAt h 28 && bitsAt h 0 4 != 0 && bitsAt h 4 3 ≤ 4 &&
  !(12 ≤ bitsAt h 19 4 && bitsAt h 19 4 ≤ 14) && !(12 ≤ bitsAt h 23 4 && bitsAt h 23 4 ≤ 14)

/-- WAITM of a header (R26). -/
def waitmOf (h : Nat) : Nat := bitsAt h 7 12

/-- A trap at a clause entry: TPC and RPC are the header, RIDX is 0, the instruction words are zero (R28, R216). -/
def entryTrap (s : State) (gid fi : Nat) (f : Frag) (code info0 info1 : Nat) : State :=
  takeTrapAt s gid fi f f.pc f.pc 0 code false info0 info1 f.scc []

/-- The name of the fragment at an index. -/
def fragId (g : Group) (fi : Nat) : Nat := ((g.frag? fi).map (·.id)).getD 0

/-- Fetch the words at `va`, `n` of them: a fault parks the fragment before anything issues (R28, R300), and so does memory that cannot
serve them yet (R288, R320). The second part is the words. -/
def fetchWords (s : State) (gid fi : Nat) (g : Group) (va n : Nat) : State × Option (List Word) :=
  let r := vaRead s (groupXer gid g) .fetch false va (4 * n)
  match r.2 with
  | .ok bs => (r.1, some ((List.range n).map fun i => BitVec.ofNat 32 (ofBytes ((bs.drop (4 * i)).take 4))))
  | .error [] => (r.1.modFrag gid fi fun f => { f with cond := parkCond r.1 gid (.fetch va (4 * n)) }, none)
  | .error bad => (groupFault r.1 gid fi g 3 (.fetch gid (fragId g fi)) (badAt va bad), none)

/-- The words an instruction occupies (R64), whatever its fields hold; `none` where it cannot be decoded. -/
def instrLen (ws : List Word) : Option Nat :=
  match ws with
  | [] => none
  | w0 :: rest =>
    match majorFmt (flag w0 30) (majorOf w0).toNat with
    | none => none
    | some fmt => match rawEnc fmt w0 rest with
      | none => none
      | some (e, _, r1) => match takeWord e.usesLit r1 with
        | none => none
        | some (_, r2) => match takeWord (flag w0 31) r2 with
          | none => none
          | some (_, r3) => some (ws.length - r3.length)

/-- Word `ridx` begins an instruction (R217): the search starts at word `i`; the fuel is the number of words. -/
def beginsAt : Nat → List Word → Nat → Nat → Bool
  | 0, _, _, _ => false
  | n + 1, ws, i, ridx =>
    if i = ridx then !ws.isEmpty
    else if ridx < i then false
    else match instrLen ws with
      | some k => beginsAt n (ws.drop k) (i + k) ridx
      | none => false

/-- The failures a clause entry must raise (R199): the lowest flag of its WAITM that has cleared and holds one not raised. -/
def flagFailure (g : Group) (mask : Nat) : Option (Nat × NoteFail) :=
  (List.range 12).findSome? fun n =>
    if bitAt mask n && nth g.fcnt n 0 == 0 then
      match Tab.get? g.nrec n with
      | some r => if r.raised then none else some (n, r)
      | none => none
    else none

/-- The trap of a note failure: NOTECAP for cause TAG, NOTEFAIL otherwise (R199, R218). -/
def failCode (cause : Nat) : Nat := if cause = 5 then 0x0F else 0x0E

/-- Begin the clause: the first instruction, or the word TRET names (R28, R217). -/
def beginClause (s : State) (gid fi : Nat) (f : Frag) : State :=
  match f.resume with
  | none => s.modFrag gid fi fun f => { f with idx := 1 }
  | some ridx =>
    let s1 := s.modFrag gid fi fun f => { f with resume := none }
    if beginsAt 16 f.words 1 ridx then s1.modFrag gid fi fun f => { f with idx := ridx }
    else entryTrap s1 gid fi { f with resume := none } 0x04 0 0

/-- The tests once the words are there: WAITM and recorded note failures (R28, R32, R199). -/
def testFlags (s : State) (gid fi : Nat) (f : Frag) : State :=
  match Tab.get? s.groups gid with
  | none => s
  | some g =>
    if f.resume.isSome then beginClause s gid fi f
    else
      let m := waitmOf f.hdr.toNat
      match flagsSet g m with
      | [] =>
        match flagFailure g m with
        | some (n, r) =>
          entryTrap (s.modGroup gid fun g => { g with nrec := Tab.set g.nrec n { r with raised := true } }) gid fi f
            (failCode r.cause) r.pass.toNat (n + r.cause * 2 ^ 8)
        | none => beginClause s gid fi f
      | ns =>
        let hit (e : CbEnt) : Bool := e.ops.any fun o => match Tab.get? s.ops o with
          | some p => p.uid == g.uid && ns.any fun n => p.flag == some n
          | none => false
        let s1 := postWanted 64 (wantEntries s (coreOf gid) hit) (coreOf gid)
        park s1 { gid := gid, fi := fi, g := g, f := f } (.flags m)

/-- ENTER_CLAUSE (R28): fetch and check the header, fetch the words, test WAITM, begin the clause. -/
def execEnterClause (core slot frag : Nat) (s : State) : Host.Outcome State Fault Refusal :=
  let gid := core * 128 + slot
  .next (match Tab.get? s.groups gid with
    | none => s
    | some g => match g.frag? frag with
      | none => s
      | some f =>
        if !g.live || f.cond != .ready || f.idx != 0 || !inTable frag then s
        else if f.hdr ≠ 0 then testFlags s gid frag f
        else
          let r := fetchWords s gid frag g f.pc 1
          match r.2 with
          | none => r.1
          | some ws =>
            let h := nth ws 0 0
            if !headerOk h.toNat then entryTrap r.1 gid frag f 0x04 0 0
            else
              let q := fetchWords r.1 gid frag g (f.pc + 4) (bitsAt h.toNat 0 4)
              match q.2 with
              | none => q.1
              | some body =>
                let f1 := { f with hdr := h, words := body }
                testFlags (q.1.modFrag gid frag fun f => { f with hdr := h, words := body }) gid frag f1)

/-! ### Before an instruction's own checks -/

/-- The fate of words that do not decode, steps 1 to 4 of R75. -/
def rejectCode : Reject → Nat
  | .unlistedMajor => 0x01
  | .wrongClass => 0x03
  | .overrun => 0x04
  | .illegalFields => 0x01

/-- UNLISTED_OPCODE (R73): words that are no instruction reach issue and take ILLOP. -/
def execUnlistedOpcode (ws : List Word) (s : State) : Host.Outcome State Fault Refusal :=
  withIssuer s fun x =>
    match decode none ws with
    | .ok _ => s
    | .error _ => takeTrap s x 0x01 0 0

/-- The instruction at a fragment's place: decoded under its clause's class (R26, R75). -/
def instrAt (f : Frag) : Except Reject Instr :=
  match decode (some (bitsAt f.hdr.toNat 4 3)) (f.words.drop (f.idx - 1)) with
  | .ok (i, _) => .ok i
  | .error e => .error e

end Sys2Proof.Machine
end

