-- ==== Sys2Proof/Machine/Group.lean ====
section
/-! DEFINITION. A group at its start (R47, R219, R221). -/

namespace Sys2Proof.Machine

/-- A group's first fragment (R47, R221). -/
def firstFrag (pc clock : Nat) : Frag :=
  { pc := pc, hdr := 0, words := [], idx := 0, members := BitVec.ofNat 64 (2 ^ 64 - 1), exec := BitVec.ofNat 64 (2 ^ 64 - 1)
    scc := false, carry := false, depth := 0, region := none, cond := .ready, since := clock, yielded := false, count := 0
    lastSp := 0, latches := [], home := 0, spilled := 0, id := 0, resume := none }

/-- A group with nothing in its registers (R47). -/
def Group.blank (clock pc : Nat) : Group :=
  { state := .placed, launch := 0, part := 0, team := 0, teamid := 0, cohid := 0, vcount := 128, subcore := 0, row0 := 0
    tiles := [], cls := 0, bprio := 0, prioMax := 0, eprio := 0, trapVa := 0, dbgen := false, fsvc := false, v := [], s := []
    pend := [], note := [], fcnt := List.replicate 12 0, nrec := [], nfail := 0, sticky := 0
    queues := List.replicate 7 [], split := [(0, .frag (firstFrag pc clock))], nextRegion := 0, nextFrag := 1, hmode := none, trapcnt := 0
    exited := none, pts := 0, uid := 0, killed := false, trapKill := none, saveReq := none, grace := none
    savedFrom := .placed, placedAt := clock, locks := [], liveMask := 0, halted := false, tsave := 0
    kept := [], orphans := [] }

end Sys2Proof.Machine
end

