-- ==== Sys2Proof/Machine/Scr.lean ====
section
/-! DEFINITION. MSCR (R155, R156) and the scratchpad atomics of MATM (R157 to R159): issue, and the step that performs and
completes them. -/

namespace Sys2Proof.Machine

/-! ### Places -/

/-- Where a lane's access of `n` bytes lies (R155, R156): team and byte offset; none where it is out of range. `cohort`: the
address names a member of the cohort. -/
def padPlace (s : State) (x : Ctx) (cohort : Bool) (addr n : Nat) : Option (Nat × Nat) :=
  if cohort then
    match Tab.get? s.teams x.g.team with
    | none => none
    | some t =>
      if addr / 2 ^ 35 ≠ 0 then none
      else match memberTeam s t (bitsAt addr 32 3) with
        | some k => if padIn s k (addr % 2 ^ 32) n then some (k, addr % 2 ^ 32) else none
        | none => none
  else if padIn s x.g.team addr n then some (x.g.team, addr) else none

/-- The accesses of a lane in its place; out of range, a load gets zeros and a store's bytes are dropped (R155). -/
def padAccs (place : Option (Nat × Nat)) (l addr n : Nat) (data : List Byte) : List Acc :=
  match place with
  | some (t, off) => (laneAccs l off n data).map fun a => { a with pa := a.va, team := some t }
  | none => [{ lane := l, va := addr, n := n, off := 0, pa := 0, ord := 0, team := none, data := List.replicate n 0,
               sent := true, done := true }]

/-- The Proctor events of lanes out of range (R155, R337). -/
def tapOutOfRange (s : State) (x : Ctx) (addrs : List (Nat × Nat)) : State :=
  addrs.foldl (fun t a => tap t (chipOfCore (coreOf x.gid)) 16 (some x.g.part) [1, gidOf x.gid, a.2]) s

/-- Issue an operation on scratchpads: its touches start the copies of absent windows (R166, R248). -/
def issuePad (s : State) (x : Ctx) (o : Op) (out : List (Nat × Nat)) (pend : List Nat) : State :=
  let id := s.nextOp
  let s1 := tapOutOfRange (addOp s x o pend) x out
  match Tab.get? s1.ops id with
  | some o1 => padNotice s1 id o1
  | none => s1

/-- Addresses out of range. -/
def padOut (s : State) (x : Ctx) (cohort : Bool) (n : Nat) (addrs : List (Nat × Nat)) : List (Nat × Nat) :=
  addrs.filter fun a => (padPlace s x cohort a.2 n).isNone

/-- The bytes that lanes write, in their teams. -/
def padSpans (s : State) (x : Ctx) (cohort : Bool) (n : Nat) (addrs : List (Nat × Nat)) : List (Nat × Nat × Nat) :=
  addrs.filterMap fun a => (padPlace s x cohort a.2 n).map fun p => (p.1, p.2, n)

/-- The issue record of a scratchpad load or store. -/
def padIssue (s : State) (minor : Nat) (cohort store : Bool) (f : Lm) (x : Ctx) : MemIssue :=
  let i := lmIssue 0x11 minor false store f x
  { i with padWrites := if store then padSpans s x cohort (sizeBytes f.size.toNat) i.addrs else [] }

/-- A scratchpad load or store (R155, R156). -/
def runPad (s : State) (minor : Nat) (cohort store : Bool) (f : Lm) : Host.Outcome State Fault Refusal :=
  let n := sizeBytes f.size.toNat
  runMem s (padIssue s minor cohort store f) .load fun x s1 =>
    let i := padIssue s minor cohort store f x
    let o := { lmOp s x (if store then .sstore else .sload) false store f i with
      acc := i.addrs.flatMap fun a =>
        padAccs (padPlace s x cohort a.2 n) a.1 a.2 n
          (if store then toBytes n (storeValue s x f.lit f.size.toNat (sel10 f.d) a.1) else []) }
    issuePad s1 x o (padOut s x cohort n i.addrs) (if store then [] else spanKeys (loadRegs f.size.toNat) (sel10 f.d))

/-- SLD (R155). -/
def execSld (f : Lm) (s : State) : Host.Outcome State Fault Refusal := runPad s 0 false false f
/-- SST (R155). -/
def execSst (f : Lm) (s : State) : Host.Outcome State Fault Refusal := runPad s 1 false true f
/-- XLD (R156). -/
def execXld (f : Lm) (s : State) : Host.Outcome State Fault Refusal := runPad s 2 true false f
/-- XST (R156). -/
def execXst (f : Lm) (s : State) : Host.Outcome State Fault Refusal := runPad s 3 true true f

/-- The issue record of a scratchpad atomic. -/
def padAtomIssue (s : State) (minor : Nat) (cohort : Bool) (f : La) (x : Ctx) : MemIssue :=
  let i := laIssue minor false false f x
  { i with padWrites := padSpans s x cohort (if f.ty.toNat = 2 then 8 else 4) i.addrs }

/-- A scratchpad atomic (R157, R159). A lane out of range reads zero and writes nothing (R155; DEDUCED, log 35). -/
def runPadAtomic (s : State) (minor : Nat) (cohort : Bool) (f : La) : Host.Outcome State Fault Refusal :=
  let n := if f.ty.toNat = 2 then 8 else 4
  runMem s (padAtomIssue s minor cohort f) .load fun x s1 =>
    let i := padAtomIssue s minor cohort f x
    let o := { laOp s x .satomic false f i with
      acc := i.addrs.flatMap fun a => padAccs (padPlace s x cohort a.2 n) a.1 a.2 n [] }
    issuePad s1 x o (padOut s x cohort n i.addrs) (spanKeys (atomRegs f.ty.toNat f.scope.toNat) (sel10 f.d))

/-- SATOM (R157, R159). -/
def execSatom (f : La) (s : State) : Host.Outcome State Fault Refusal := runPadAtomic s 1 false f
/-- XATOM (R157, R159). -/
def execXatom (f : La) (s : State) : Host.Outcome State Fault Refusal := runPadAtomic s 2 true f

/-! ### Performing -/

/-- Perform one access (R151): the state and the access with the bytes it got. -/
def performPadAcc (s : State) (o : Op) (a : Acc) : State × Acc :=
  match a.team with
  | none => (s, a)
  | some t =>
    if a.done then (s, a)
    else match o.kind with
      | .sstore => (freeDeclared (padWrite s t a.pa a.data) (some t) a.pa a.n, { a with done := true })
      | .satomic =>
        let old := padRead s t a.pa a.n
        let new := toBytes a.n (atomNew o.aop o.ty (ofBytes old) (Tab.getD o.data a.lane 0) (Tab.getD o.cmp a.lane 0))
        (freeDeclared (padWrite s t a.pa new) (some t) a.pa a.n, { a with done := true, data := old })
      | _ => (s, { a with done := true, data := padRead s t a.pa a.n })

/-- Perform the accesses that await nothing, in lane order (R151, R249); with the last one the operation is complete. -/
def performPad (s : State) (id : Nat) (o : Op) : State :=
  let r := o.acc.foldl (fun (st : State × List Acc) a =>
    let p := if padThere s id o a then performPadAcc st.1 o a else (st.1, a)
    (p.1, st.2 ++ [p.2])) (s, [])
  if r.2.all fun a => a.done || a.team.isNone then
    let o1 := { o with acc := r.2, stage := .performed }
    let s1 := acquired (r.1.modOp id fun _ => o1) o1
    match o.kind with
    | .sstore => completeOp s1 id
    | _ => writeBack s1 id o1
  else r.1.modOp id fun o => { o with acc := r.2 }

/-- A poisoned word, in a chunk that is there, stops the group with POISON, its offset in VA, KIND 0 (R371). -/
def padPoisoned (s : State) (id : Nat) (o : Op) : Option Nat :=
  match o.kind with
  | .sstore => none
  | _ => (o.acc.find? fun a => match a.team with
      | some t => !a.done && padThere s id o a && padPoison s t a.pa a.n
      | none => false).map (·.pa)

/-- SCRATCHPAD_ACCESS_COMPLETE (R150): an operation on a scratchpad is performed and completes. -/
def execScratchpadAccessComplete (id : Nat) (s : State) : Host.Outcome State Fault Refusal :=
  .next (match Tab.get? s.ops id with
    | none => s
    | some o =>
      match o.kind.pads, o.stage with
      | true, .ready =>
        if !padFree s id o || !(o.acc.isEmpty || o.acc.any fun a => a.done || padThere s id o a) || opHeld s o then s
        else match padPoisoned s id o with
          | some off =>
            let r := faultEvent s o.part (chipOfCore (coreOf o.gid)) (.op id)
              [{ va := off, pte := 0, code := 0x25, core := coreOf o.gid, slot := slotOf o.gid, lvl := 0, kind := 0, unit := 0
                 region := 0, launch := o.launch / 32 % 2 ^ 32, lanes := (maskOf fun l => o.acc.any fun a => a.lane == l && a.team.isSome && a.pa / 4096 == off / 4096).toNat }]
            r.1.modOp id fun o => { o with stage := .faulted r.2 }
          | none => performPad s id o
      | _, _ => s)

end Sys2Proof.Machine
end

