-- ==== Sys2Proof/Machine/Att.lean ====
section
/-! DEFINITION. The Attendance table (R254 to R257, R263): registering and freeing entries, completing a wait; where an object
lies (R179, R200, R201); and how an instruction that decides by its operands' values issues (R75). -/

namespace Sys2Proof.Machine

/-! ### Instructions that decide by values -/

/-- Issue an LG instruction up to its operand checks (R75); `priv` is its privilege rule. `k` gets the state after the sources are
read, and says whether the instruction goes on, parks or traps. -/
def runLg (s : State) (maj minor : Nat) (priv : Ctx → Bool) (f : Lg) (os : Opnds) (k : Ctx → State → State) :
    Host.Outcome State Fault Refusal :=
  withIssuer s fun x =>
    if !lgOk maj minor f then takeTrap s x 0x01 0 0
    else if !priv x then takeTrap s x 0x09 0 0
    else match operandGate s x (usesOf (lgView f) os) with
      | .go => k x (readSources s x (lgView f) os)
      | g => stopAt s x g

/-- No privilege rule. -/
def anyone (_ : Ctx) : Bool := true

/-- The value of a uniform operand. -/
def uval (s : State) (x : Ctx) (f : Lg) (os : Opnds) (fld : Fld) : Nat := opVal s x (lgView f) os fld 0

/-- The instruction has issued: go on at the next one. -/
def nextLg (s : State) (x : Ctx) (f : Lg) : State := advance s x (lgView f).len f.sp.isSome

/-- A precise ILLOPND at the instruction. -/
def illOpnd (s : State) (x : Ctx) : State := takeTrap s x 0x02 0 0

/-! ### Entries -/

/-- The unit that holds a group's entries: its chiplet's (R254). -/
def attChip (gid : Nat) : Nat := chipOfCore (coreOf gid)

/-- An entry for a fragment, WAITING, with an unknown holder. -/
def attBlank (gid fi : Nat) (g : Group) (kind scope obj : Nat) : AttEnt :=
  { gid := gid, uid := g.uid, part := g.part, frag := fi, saved := false, kind := kind, scope := scope, st := 1, hk := false
    hl := false, holder := 0, obj := obj, place := none, cmp := 0, stamp := 0 }

/-- Register an entry (R254), if the table has room; otherwise the overflow is counted and a Proctor event raised (R205, R263). -/
def register (s : State) (e : AttEnt) : State × Bool :=
  let chip := attChip e.gid
  let c := s.chip chip
  if 4096 ≤ c.att.length then
    let s1 := s.modChip chip fun c => { c with attOvf := c.attOvf + 1 }
    (tap s1 chip 5 (some e.part) [gidOf e.gid, e.kind, e.obj, c.attOvf + 1], false)
  else
    let k := Tab.lowestFree c.att 4096
    let s1 := { s with nextOp := s.nextOp + 1 }.modChip chip fun c => { c with att := Tab.set c.att k { e with stamp := s.nextOp } }
    (tap s1 chip 4 (some e.part) [gidOf e.gid, e.kind, e.obj, e.holder], true)

/-- Free the entries of a unit for which `p` holds. -/
def dropEntries (s : State) (chip : Nat) (p : AttEnt → Bool) : State :=
  if (s.chip chip).att.any fun e => p e.2 then
    s.modChip chip fun c => { c with att := c.att.filter fun (e : Nat × AttEnt) => !p e.2 }
  else s

/-- Free the entries of every unit for which `p` holds. -/
def dropAllEntries (s : State) (p : AttEnt → Bool) : State := (Tab.keys s.chips).foldl (fun t c => dropEntries t c p) s

/-- Entries of the device in a list, with their units. -/
def allEntries (s : State) : List (Nat × AttEnt) := s.chips.flatMap fun c => c.2.att.map fun e => (c.1, e.2)

/-- A wait that finds the table full (R205): SCC 0, WOVF. -/
def overflowed (s : State) (x : Ctx) : State := orSticky (setScc s x false) x.gid fWOVF

/-! ### Completing a wait -/


/-- The instruction a fragment stands at: its words and whether it is a safe point. -/
def lenHere (f : Frag) : Nat × Bool :=
  match f.words.drop (f.idx - 1) with
  | [] => (1, false)
  | w :: r => ((instrLen (w :: r)).getD 1, flag w 31)

/-- The live-mask word of a safe point of `len` words, its last (R35). -/
def maskHere (f : Frag) (len : Nat) : Nat := (nth f.words (f.idx - 1 + (len - 1)) 0).toNat

/-- A split-table entry without operand latches. -/
def SplitEntry.dropLatches : SplitEntry → SplitEntry
  | .frag f => .frag { f with latches := [] }
  | .region r => .region r

/-- A group without its operand latches (R41): those of its fragments, and of the one that its last EXIT has kept (R34). -/
def Group.dropLatches (g : Group) : Group :=
  { g with
    split := g.split.map fun (e : Nat × SplitEntry) => (e.1, e.2.dropLatches)
    exited := g.exited.map fun e => (e.1, { e.2 with latches := [] }) }

/-- The grace period of a save request has not ended (R306). -/
def inGrace (s : State) (g : Group) : Bool := match g.saveReq with
  | some t => decide (s.clock < t + 4096)
  | none => false

/-- A safe point of a group has issued, with its live mask: no latch captured up to it can be read, whether or not a save follows (R41,
log 12); a save that is requested begins within its grace period (R35, R306). -/
def reachSafe (s : State) (gid mask : Nat) : State :=
  s.modGroup gid fun g =>
    if g.live && g.grace.isNone && inGrace s g then { g.dropLatches with grace := some 0, liveMask := mask }
    else g.dropLatches

/-- A parked instruction completes: SCC is written, the fragment goes on behind it and is ready (R43). One that is a safe point is reached
as such now: while it waits, its place is the instruction itself (R35, R306; log 91). -/
def finishWait (s : State) (gid fi : Nat) (scc : Bool) : State :=
  match Tab.get? s.groups gid with
  | none => s
  | some g => match g.frag? fi with
    | none => s
    | some f =>
      let x : Ctx := { gid := gid, fi := fi, g := g, f := f }
      let l := lenHere f
      let t := advance (setScc s x scc) x l.1 l.2
      if l.2 then reachSafe t gid (maskHere f l.1) else t

/-- An acquire at a scope of an ATTN instruction (0 team, 1 coh, 2 dev, 3 sys): at coh and wider the L1 is invalidated (R148). -/
def acquireAt (s : State) (gid scope : Nat) : State := if 1 ≤ scope then invalidateL1 s (coreOf gid) else s

/-- An object is read (R201): on an SO page an SO load of its group (R239); a BISnpData that let it pass is used up (R320). -/
def soObject (s : State) (uid : Nat) (team : Option Nat) (pa ord : Nat) : State :=
  if team.isSome || isHost pa then s
  else
    let t := readDone s pa 1
    if ord ≠ 1 then t
    else
      let r := soLoadAt t (lineOf pa) (ptsOf t uid)
      raisePts r.1 uid r.2

/-- A waiter that wakes has read its object: on an SO page as an SO load (R238, R239). -/
def soEntry (s : State) (e : AttEnt) : State := match e.place with
  | some (team, pa) => soObject s e.uid team pa e.ord
  | none => s

/-- The waiting entry's condition is met: it is freed, and its fragment's instruction completes with SCC 1 as an acquire (R202 to
R204, R255). -/
def wakeEntry (s : State) (chip : Nat) (e : AttEnt) : State :=
  let s1 := dropEntries (soEntry s e) chip fun y => y == e
  match groupBy s1 e.uid with
  | none => s1
  | some (gid, g) => match g.namedFrag e.frag with
    | some (fi, _) => finishWait (acquireAt s1 gid e.scope) gid fi true
    | none => s1

/-! ### Objects -/

/-- The scopes of R147, from those of MORD and ATTN. -/
def wideScope (scope : Nat) : Nat := scope + 1

/-- Where an object lies, or the state of a fragment that stops at it. -/
inductive ObjRes where
  | ok (s : State) (team : Option Nat) (pa ord : Nat)
  | stop (s : State)

/-- Resolve an object's address (R179, R200, R201): `n` bytes, aligned to `n`; `scope` where the instruction has one; `device`: it
may not lie in host memory. The order of the checks: log 36. Where the translation must wait (R232, R320) the instruction stays where it
is. -/
def resolveObj (s : State) (x : Ctx) (va n : Nat) (scope : Option Nat) (kind : AccKind) (device : Bool) : ObjRes :=
  if bitsAt va 56 8 == 2 then
    let off := va % 2 ^ 32
    if bitsAt va 32 24 != 0 || scope.getD 0 != 0 || !padIn s x.g.team off n then .stop (illOpnd s x)
    else if off % n ≠ 0 then .stop (takeTrap s x 0x07 va 0)
    else if padPoison s x.g.team off n then
      .stop (groupFault s x.gid x.fi x.g 0 (.object x.gid x.f.id) [(off / 4096, off, ⟨0x25, 0, 0⟩)])
    else .ok s (some x.g.team) off 0
  else if va % n ≠ 0 then .stop (takeTrap s x 0x07 va 0)
  else
    let code := if kind.writes then 2 else 0
    let fail (t : State) (e : XFault) : ObjRes :=
      if e.code = 0 then .stop t
      else .stop (groupFault t x.gid x.fi x.g code (.object x.gid x.f.id) [(va / 4096, va, e)])
    let r := translate s (groupXer x.gid x.g) va kind
    match r.2 with
    | .error e => fail r.1 e
    | .ok (pa, ord) =>
      if device && isHost pa then
        let q := leafFault r.1 (groupXer x.gid x.g) va kind 0x24
        fail q.1 q.2
      else if poisoned r.1 pa || sectorPoisoned r.1 pa then fail r.1 ⟨0x25, 0, 0⟩
      else .ok r.1 none pa ord

/-- The address under which an object operation waits; beyond all memory for a scratchpad object. -/
def objUnit (team : Option Nat) (pa : Nat) : Nat := if team.isSome then 2 ^ 66 else pa

/-- An object operation that must wait for the group's own accesses (R148, R151); one on a scratchpad object waits for all of
them (log 37). -/
def objWaits (s : State) (x : Ctx) (release write : Bool) (scope : Nat) (team : Option Nat) (pa ord : Nat) : Option State :=
  let rel := release || team.isSome
  let unit := objUnit team pa
  if objectHolds s (coreOf x.gid) x.g.uid rel write (ord == 1) scope unit then
    some (park (urgeObject s (coreOf x.gid) x.g.uid rel write (ord == 1) scope unit) x (.object rel write (ord == 1) scope unit))
  else none

/-- The bytes of an object, in the scratchpad or at the home (R201). -/
def objRead (s : State) (team : Option Nat) (pa n : Nat) : List Byte :=
  match team with
  | some t => padRead s t pa n
  | none => Memory.readN s.mem pa n

/-- The Attendance tables as another state has them: an object's own instructions free no entries (R264). -/
def keepEntries (s t : State) : State :=
  { t with chips := t.chips.map fun (c : Nat × Chip) => (c.1, { c.2 with att := (s.chip c.1).att }) }

/-- No older copy of a line serves the group that has written it (R151). -/
def dropOwn (s : State) (uid line : Nat) : State := match groupBy s uid with
  | some (gid, _) => nearDrop (l1Drop s (coreOf gid) line) (chipOfCore (coreOf gid)) line
  | none => s

/-- Write an object in one indivisible step (R201). On an SO page it is an SO write of its group (R239). -/
def objWrite (s : State) (uid part : Nat) (team : Option Nat) (pa ord : Nat) (bs : List Byte) : State :=
  match team with
  | some t => padWrite s t pa bs
  | none =>
    let bytes : Tab Byte := (List.range bs.length).map fun i => (pa % 128 + i, nth bs i 0)
    let r := mergeLine s part (lineOf pa) bytes (if ord = 1 then some (ptsOf s uid) else none)
    let s0 := keepEntries s r.1
    let s1 := if ord = 1 then raisePts s0 uid r.2 else s0
    probeAndReply (dropOwn s1 uid (lineOf pa)) (lineOf pa) none none (some (uid, ord == 2))

/-- The word that WAIT reads at a scope (R204): as R234 says of an ordered load: from the chiplet's copy, at team scope from the core's L1
and with its stores over it; on an SO page the home's (R239); of host memory the chiplet's sector (R324). -/
def waitWord (s : State) (gid scope : Nat) (team : Option Nat) (pa ord : Nat) : Nat :=
  let core := coreOf gid
  let line := lineOf pa
  let near : List Byte := match (Tab.get? (s.chip (chipOfCore core)).near line).filter fun l => !l.uo || ord == 2 with
    | some l => l.data
    | none => lineBytes s line
  match team with
  | some t => ofBytes (padRead s t pa 4)
  | none =>
    if isHost pa then ofBytes (((sectorOf s (chipOfCore core) (pa / 64)).data.drop (pa % 64)).take 4)
    else if ord = 1 then ofBytes (objRead s none pa 4)
    else
      let l := if scope = 0 then cbOver (s.core core) line ((Tab.get? (s.core core).l1 line).getD near) else near
      ofBytes ((l.drop (pa % 128)).take 4)

/-- The word of a waiting entry cannot be read now (R230, R234, R324). -/
def waitHeld (s : State) (gid scope : Nat) (team : Option Nat) (pa ord : Nat) : Bool :=
  if team.isSome then false
  else if isHost pa then (sectorOf s (chipOfCore (coreOf gid)) (pa / 64)).st == 0
  else ord != 1 && wordHeld s (coreOf gid) pa (scope == 0)

/-- PHASE of a barrier object's bytes (R201). -/
def phaseOf (bs : List Byte) : Nat := ofBytes bs / 2 ^ 32 % 2

/-- arrive of R202 on a barrier object's bytes: the bytes after it. -/
def arriveBytes (bs : List Byte) : List Byte :=
  let v := ofBytes bs
  let count := v % 2 ^ 16
  let arrived := v / 2 ^ 16 % 2 ^ 16
  let rest := v / 2 ^ 33 * 2 ^ 33
  let p := v / 2 ^ 32 % 2
  if max count 1 ≤ arrived + 1 then toBytes 16 (count + (1 - p) * 2 ^ 32 + rest)
  else toBytes 16 (count + (arrived + 1) * 2 ^ 16 + p * 2 ^ 32 + rest)

end Sys2Proof.Machine
end

