-- ==== Sys2Proof/Machine/Mord.lean ====
section
/-! DEFINITION. MORD without Churn (R161 to R168): fences, cache control, windows and slice sets; and the arrival of a window's
chunk (R166, R248 to R250). -/

namespace Sys2Proof.Machine

/-! ### Fences and cache control -/

/-- An instruction that joins a flag parks while the flag's counter is full (R30, R31). -/
def withFlag (s : State) (x : Ctx) (f : Lg) (k : Option Nat → State) : State :=
  let fl := joinFlag x.f f.fs
  match flagFull x.g fl with
  | some w => park s x w
  | none => k fl

/-- Issue a fence or cache-control instruction. -/
def runFlagged (s : State) (minor : Nat) (f : Lg) (k : Ctx → Option Nat → State → State) :
    Host.Outcome State Fault Refusal :=
  runLg s 0x13 minor anyone f [] fun x s1 => withFlag s x f fun fl => k x fl s1

/-- A fence's order, scope and UO (R161), its paths (R162, R163). -/
def fenceOp (s : State) (x : Ctx) (f : Lg) (fl : Option Nat) (src dst : List Nat) : Op :=
  let m := f.mod.toNat
  { blankOp s x .fence fl with
    order := m % 4, uo := bitAt m 2, scope := wideScope (m / 8), src := src, dst := dst }

/-- Issue a fence once every earlier memory instruction is translated (R149). -/
def issueFence (s s1 : State) (x : Ctx) (f : Lg) (o : Op) : State :=
  if allTranslated s x.g.uid then nextLg (addOp s1 x o []) x f else park s x .order

/-- FENCE (R162). -/
def execFence (f : Lg) (s : State) : Host.Outcome State Fault Refusal :=
  runFlagged s 0 f fun x fl s1 =>
    let ps := scopePaths (wideScope (f.mod.toNat / 8))
    issueFence s s1 x f (fenceOp s x f fl ps ps)

/-- The path of a FENCEX operand: an inline constant 0 to 6 (R161, R163). -/
def pathOf : Sel → Option Nat
  | .const c => if c ≤ 6 then some c else none
  | _ => none

/-- FENCEX (R163). -/
def execFencex (f : Lg) (s : State) : Host.Outcome State Fault Refusal :=
  runLg s 0x13 1 anyone f [] fun x s1 =>
    match pathOf (sel10 f.a), pathOf (sel10 f.b) with
    | some a, some b => withFlag s x f fun fl => issueFence s s1 x f (fenceOp s x f fl [a] [b])
    | _, _ => illOpnd s x

/-- CINV (R164): done in the step that issues it, unless an earlier fence of the group holds it back (R162). -/
def execCinv (f : Lg) (s : State) : Host.Outcome State Fault Refusal :=
  runFlagged s 2 f fun x fl s1 =>
    if fenceHolds s x.g.uid s.nextOp 0 then issueFence s s1 x f (blankOp s x .cinv fl)
    else if allTranslated s x.g.uid then nextLg (invalidateL1 s1 (coreOf x.gid)) x f
    else park s x .order

/-- CWB (R164). -/
def execCwb (f : Lg) (s : State) : Host.Outcome State Fault Refusal :=
  runFlagged s 3 f fun x fl s1 => issueFence s s1 x f (blankOp s x .cwb fl)

/-! ### Windows -/

/-- The region of an instruction's group. -/
def myRegion (s : State) (x : Ctx) (b : Nat) : Window :=
  match Tab.get? s.teams x.g.team with
  | some t => t.region b
  | none => Window.free

/-- The operands of a window instruction: the region index and, where it has them, mask and first chunk. -/
def winOps (rest : Opnds) : Opnds := (.b, .uni .n32) :: rest

/-- A WBIND of the issuing group that has not taken effect stands before a window instruction on its region (R165). -/
def bindAhead (s : State) (x : Ctx) (b : Nat) : Bool := (myRegion s x b).bindAhead x.g.uid s.nextOp

/-- A window instruction once its region index is known: above 63 it is illegal; and it issues once every earlier memory instruction is
translated (R149, R161). -/
def withRegion (s : State) (x : Ctx) (f : Lg) (os : Opnds) (k : Nat → State) : State :=
  let b := uval s x f os .b
  if 63 < b then illOpnd s x
  else if !allTranslated s x.g.uid then park s x .order
  else k b

/-- WTEST and WSLICE behind a WBIND of the group park until it has taken effect: what they write or decide is known only then (R165,
log 63). -/
def afterBind (s : State) (x : Ctx) (b : Nat) (t : State) : State := if bindAhead s x b then park s x (.bind x.g.team b) else t

/-- A WBIND or WWARM is held at its region until the copy has ended (R165, R270). -/
def holdBind (s : State) (x : Ctx) (b : Nat) (d : Option (List Nat)) : State :=
  let w := myRegion s x b
  { putRegion s x.g.team b { w with held := w.held ++ [{ uid := x.g.uid, gid := x.gid, job := s.nextOp, desc := d }] } with
    nextOp := s.nextOp + 1 }

/-- The registers of a descriptor: six from an even S register, S0 to S378 (R161, R165). -/
def descUse : Sel → Use
  | .s n => if n % 2 == 1 || 378 < n then Use.illegal else { Use.none with rd := (regSpan n 6).map keyS }
  | _ => Use.illegal

/-- The descriptor's words. -/
def descWords (x : Ctx) : Sel → List Nat
  | .s n => (regSpan n 6).map fun r => (x.g.sreg r).toNat
  | _ => []

/-- WBIND (R165, R270). -/
def execWbind (f : Lg) (s : State) : Host.Outcome State Fault Refusal :=
  let os := winOps []
  withIssuer s fun x =>
    if !lgOk 0x13 4 f then takeTrap s x 0x01 0 0
    else match operandGate s x (Use.and (descUse (sel10 f.a)) (usesOf (lgView f) os)) with
      | .go =>
        withRegion s x f os fun b =>
          let d := descWords x (sel10 f.a)
          let size := match Tab.get? s.teams x.g.team with
            | some t => t.size
            | none => 0
          if !descOk size d then illOpnd s x
          else
            let s1 := useRegs (readSources s x (lgView f) os) x (descUse (sel10 f.a)).rd
            if copyRunning s x.g.team b || !(myRegion s x b).held.isEmpty then nextLg (holdBind s1 x b (some d)) x f
            else nextLg (putRegion s1 x.g.team b { boundTo d with bound := s.clock }) x f
      | g => stopAt s x g

/-- WUNBIND (R166, R248). -/
def execWunbind (f : Lg) (s : State) : Host.Outcome State Fault Refusal :=
  let os := winOps []
  runLg s 0x13 5 anyone f os fun x s1 =>
    withRegion s x f os fun b => withFlag s x f fun fl => nextLg (addOp s1 x (blankOp s x (.wunbind b) fl) []) x f

/-- WWARM (R166); behind a WBIND of the group it is held, and then warms the new binding (R165). -/
def execWwarm (f : Lg) (s : State) : Host.Outcome State Fault Refusal :=
  let os := winOps []
  runLg s 0x13 6 anyone f os fun x s1 =>
    withRegion s x f os fun b =>
      nextLg (if bindAhead s x b then holdBind s1 x b none else startCopy s1 x.g.team b x.gid x.g.uid) x f

/-- The present bits of 64 chunks from `c` (R167). -/
def presentBits (w : Window) (c : Nat) : LaneMask :=
  maskOf fun i => w.state == 0 || w.chunkCount ≤ c + i || bitAt w.chunks (c + i)

/-- Operands of WTEST and WWAIT. -/
def testOps (dst : Bool) : Opnds :=
  (if dst then [(.d, .dstS true true)] else []) ++ winOps [(.a, .spair false), (.c, .uni .n32)]

/-- Every selected chunk is present. -/
def selectedPresent (mask present : LaneMask) : Bool := mask &&& present == mask

/-- WTEST (R167). -/
def execWtest (f : Lg) (s : State) : Host.Outcome State Fault Refusal :=
  let os := testOps true
  runLg s 0x13 7 anyone f os fun x s1 =>
    withRegion s x f os fun b =>
      let c := uval s x f os .c
      if c % 64 ≠ 0 then illOpnd s x
      else afterBind s x b (
        let p := presentBits (myRegion s x b) c
        let m : LaneMask := BitVec.ofNat 64 (uval s x f os .a)
        nextLg (setScc (writeUni s1 x (sel10 f.d) true p.toNat) x (selectedPresent m p)) x f)

/-- OBJ of a window entry (R254). -/
def windowObj (core b : Nat) : Nat := core + b * 2 ^ 8

/-- WWAIT (R167): the mask and the first chunk stand in the entry; behind a WBIND of the group it waits for chunks of the new binding
(R165). -/
def execWwait (f : Lg) (s : State) : Host.Outcome State Fault Refusal :=
  let os := testOps false
  runLg s 0x13 8 anyone f os fun x s1 =>
    withRegion s x f os fun b =>
      let c := uval s x f os .c
      if c % 64 ≠ 0 then illOpnd s x
      else
        let m : LaneMask := BitVec.ofNat 64 (uval s x f os .a)
        if !bindAhead s x b && selectedPresent m (presentBits (myRegion s x b) c) then nextLg (setScc s1 x true) x f
        else
          let e := { attBlank x.gid x.f.id x.g 4 0 (windowObj (coreOf x.gid) b) with cmp := m.toNat + c * 2 ^ 64 }
          match register s1 e with
          | (t, true) => parkIssued t x .att
          | (t, false) => nextLg (overflowed t x) x f

/-- A window entry's condition (R165, R167). -/
def windowMet (s : State) (g : Group) (e : AttEnt) : Bool :=
  let w := match Tab.get? s.teams g.team with
    | some t => t.region (e.obj / 2 ^ 8 % 64)
    | none => Window.free
  !w.bindAhead g.uid e.stamp && selectedPresent (BitVec.ofNat 64 e.cmp) (presentBits w (e.cmp / 2 ^ 64))

/-- A team joins a slice set with count `n` (R250). FLT stays while a fault of its chunks is not resumed (R248). -/
def joinSet (s : State) (x : Ctx) (t : Team) (b n : Nat) (z : SliceSet) : State :=
  let w := t.region b
  let w1 := { w with
    state := if w.state = 4 then 4 else 3, sn := n - 1, sm := t.member, starter := x.gid, uid := x.g.uid, job := s.nextOp
    flt := w.flt && (w.event.isSome || !w.stopped.isEmpty) }
  let s1 := { putRegion s x.g.team b w1 with
    nextOp := s.nextOp + 1
    sliceSets := Tab.set s.sliceSets (setKey t b) { z with teams := z.teams ++ [x.g.team] } }
  closeSet s1 (setKey t b) b

/-- A team that does not join an open set: the set's first member fetches its share as well (R250). -/
def refuseShare (s : State) (x : Ctx) (t : Team) (b : Nat) : State :=
  illOpnd (match Tab.get? s.sliceSets (setKey t b) with
    | some z =>
      if z.teams.contains x.g.team || z.members.contains t.member || z.n ≤ t.member then s
      else closeSet { s with
        sliceSets := Tab.set s.sliceSets (setKey t b) { z with members := z.members ++ [t.member] } } (setKey t b) b
    | none => s) x

/-- WSLICE (R168, R250). A FREE region has no descriptor that could agree (log 38). Of a member whose own N leaves it out, R168 says that it does
nothing, whatever the open set's N: so it does here (DESIGN CHOICE, log 100). -/
def execWslice (f : Lg) (s : State) : Host.Outcome State Fault Refusal :=
  let os := winOps [(.c, .uni .n32)]
  runLg s 0x13 9 anyone f os fun x s1 =>
    withRegion s x f os fun b => afterBind s x b (
      let n := uval s x f os .c
      match Tab.get? s.teams x.g.team with
      | none => illOpnd s x
      | some t =>
        if n = 0 || t.teams < n || x.g.cohid = BitVec.ofNat 32 0xFFFFFFFF then illOpnd s x
        else if n ≤ t.member then nextLg s1 x f
        else if (t.region b).state = 0 then refuseShare s x t b
        else match Tab.get? s.sliceSets (setKey t b) with
          | none =>
            nextLg (joinSet s1 x t b n { n := n, desc := (t.region b).desc, teams := [], members := [] }) x f
          | some z =>
            if z.n ≠ n || z.desc ≠ (t.region b).desc then refuseShare s x t b
            else if z.teams.contains x.g.team then nextLg s1 x f
            else nextLg (joinSet s1 x t b n z) x f)

/-! ### Chunks -/

/-- A window's copy or share stops at faulting pages: FLT is set, and the chunk waits for the resume (R166, R248, R300). An agent
has at most one unresumed event. -/
def stopWindow (s : State) (team b c : Nat) (t : Team) (bad : List (Nat × Nat × XFault)) : State :=
  let w := t.region b
  let w1 := { w with flt := true, stopped := w.stopped ++ [c] }
  if bad.isEmpty then s
  else if w.event.isSome then putRegion s team b w1
  else
    let launch := match Tab.get? s.launches t.launch with
      | some l => l.jseq
      | none => t.launch / 32
    let r := agentFault s t.part (chipOfCore t.core) (coreOf w.starter) (slotOf w.starter) launch 4 0 b (.window team b) bad
    putRegion r.1 team b { w1 with event := some r.2 }

/-- Fetch a chunk from its source as plain loads at scope dev, through the core's TLB, never as a privileged agent (R166, R293,
R295). -/
def fetchChunk (s : State) (team b c : Nat) (t : Team) : State :=
  let w := t.region b
  let x : Xer := { part := t.part, core := some t.core, chip := some (chipOfCore t.core), eng := none, hmode := false,
                   uid := some w.uid, cls := (Tab.get? s.launches t.launch).map (·.cls), win := true }
  let vas := chunkVas w c
  let r := vaGather s x .load false vas
  match r.2 with
  | .ok bs => deliverChunk r.1 team b c bs
  | .error bad => stopWindow r.1 team b c t (badOf vas bad)

/-- The chunk cannot arrive now: it is there, it is none, or it stopped at a fault. -/
def Window.noChunk (w : Window) (c : Nat) : Bool := w.chunkCount ≤ c || bitAt w.chunks c || w.stopped.contains c

/-- A fence of the starting group before the copy holds back its reads on path P1 (R163). -/
def copyHeld (s : State) (w : Window) : Bool := fenceHolds s w.uid w.job 1

/-- WINDOW_CHUNK_ARRIVAL (R166, R250): a chunk of a copy, of a share, or one that a member got before this one joined. -/
def execWindowChunkArrival (team region chunk : Nat) (s : State) : Host.Outcome State Fault Refusal :=
  .next (match Tab.get? s.teams team with
    | none => s
    | some t =>
      let w := t.region region
      if w.noChunk chunk || copyHeld s w then s
      else match w.state with
        | 2 => fetchChunk s team region chunk t
        | 3 => match Tab.get? s.sliceSets (setKey t region) with
          | none => s
          | some z => match fetcherOf s z chunk with
            | none => s
            | some k =>
              if k = team then fetchChunk s team region chunk t
              else match Tab.get? s.teams k with
                | none => s
                | some q =>
                  if bitAt (q.region region).chunks chunk then
                    let off := (q.region region).offset + 512 * chunk
                    if padPoison s k off 512 then stopWindow s team region chunk t [(off / 4096, off, ⟨0x25, 0, 0⟩)]
                    else deliverChunk s team region chunk (padRead s k off 512)
                  else s
        | _ => s)

end Sys2Proof.Machine
end

