-- ==== Sys2Proof/Machine/Xfn.lean ====
section
/-! DEFINITION. The transcendental functions (R126 to R129). The special values and the exact points are computed. Every
other result is a free value inside the bound of R127: the exact value is enclosed to about 2^-250 of itself with exact
integer arithmetic, the patterns inside the bound are listed, and `Config.xfnFree` picks one by the operand, so one input
always gives the same bits (R129). -/

namespace Sys2Proof.Machine

/-- An approximation m × 2^e. -/
structure Bf where
  m : Int
  e : Int
  deriving DecidableEq, Repr

/-- Keep about 300 bits. -/
def bfNorm (x : Bf) : Bf :=
  let l := Nat.log2 x.m.natAbs
  if l ≤ 300 then x else
    let d := l - 300
    ⟨x.m / (2 ^ d : Nat), x.e + d⟩

/-- Sum. -/
def bfAdd (x y : Bf) : Bf :=
  if x.m = 0 then y else if y.m = 0 then x else
  let e := min x.e y.e
  bfNorm ⟨x.m * (2 ^ (x.e - e).toNat : Nat) + y.m * (2 ^ (y.e - e).toNat : Nat), e⟩

/-- Product. -/
def bfMul (x y : Bf) : Bf := bfNorm ⟨x.m * y.m, x.e + y.e⟩

/-- Quotient. -/
def bfDiv (x y : Bf) : Bf :=
  if y.m = 0 then ⟨0, 0⟩ else bfNorm ⟨(x.m * (2 ^ 620 : Nat)) / y.m, x.e - y.e - 620⟩

/-- An integer. -/
def bfInt (n : Int) : Bf := ⟨n, 0⟩

/-- Negation. -/
def bfNeg (x : Bf) : Bf := ⟨-x.m, x.e⟩

/-- Sum of z^(2k+1)/(2k+1) with alternating signs where `alt`, from k: atanh or atan. -/
def atanSeries (alt : Bool) (z2 : Bf) : Nat → Nat → Bf → Bf → Bf
  | 0, _, _, acc => acc
  | n + 1, k, p, acc =>
    let t := bfDiv p (bfInt (2 * k + 1))
    atanSeries alt z2 n (k + 1) (bfMul p z2) (bfAdd acc (if alt && k % 2 == 1 then bfNeg t else t))

/-- atanh z, for |z| ≤ 1/3. -/
def bfAtanh (z : Bf) : Bf := atanSeries false (bfMul z z) 100 0 z ⟨0, 0⟩

/-- atan (1/n). -/
def bfAtanInv (n : Int) : Bf :=
  let z := bfDiv (bfInt 1) (bfInt n)
  atanSeries true (bfMul z z) 70 0 z ⟨0, 0⟩

/-- ln 2. -/
def bfLn2 : Bf := bfMul (bfInt 2) (bfAtanh (bfDiv (bfInt 1) (bfInt 3)))

/-- pi, by Machin's formula. -/
def bfPi : Bf := bfAdd (bfMul (bfInt 16) (bfAtanInv 5)) (bfNeg (bfMul (bfInt 4) (bfAtanInv 239)))

/-- The exponential series from the term `p` = y^k / k! on. -/
def expSeries (y : Bf) : Nat → Nat → Bf → Bf → Bf
  | 0, _, _, acc => acc
  | n + 1, k, p, acc => expSeries y n (k + 1) (bfDiv (bfMul p y) (bfInt (k + 1))) (bfAdd acc p)

/-- e^y − 1, for |y| ≤ 1. -/
def bfExpm1 (y : Bf) : Bf := expSeries y 70 1 y ⟨0, 0⟩

/-- The exact value is below (`up` false) or above 1 by less than 2^-100: a value on that side of 1. -/
def nearOne (up : Bool) : Bf := ⟨if up then 2 ^ 300 + 1 else 2 ^ 301 - 1, if up then -300 else -301⟩

/-- The binary exponent of a value that is not zero. -/
def bfTop (x : Bf) : Int := (Nat.log2 x.m.natAbs : Int) + x.e

/-- e^y, for |y| ≤ 1. -/
def bfExp (y : Bf) : Bf := bfAdd (bfInt 1) (bfExpm1 y)

/-- The sine or cosine series: terms `p`, each the last one times −y²/((k+1)(k+2)). -/
def sinSeries (y2 : Bf) : Nat → Nat → Bf → Bf → Bf
  | 0, _, _, acc => acc
  | n + 1, k, p, acc =>
    sinSeries y2 n (k + 2) (bfNeg (bfDiv (bfMul p y2) (bfInt ((k + 1) * (k + 2))))) (bfAdd acc p)

/-- sin y, for |y| ≤ 1. -/
def bfSin (y : Bf) : Bf := sinSeries (bfMul y y) 40 1 y ⟨0, 0⟩

/-- cos y, for 0 < |y| ≤ 1: below 1. -/
def bfCos (y : Bf) : Bf := if bfTop y < -120 then nearOne false else sinSeries (bfMul y y) 40 0 (bfInt 1) ⟨0, 0⟩

/-- The nearest integer to m × 2^e, and the remainder as a dyadic value. -/
def splitNearest (x : Bf) : Int × Bf :=
  if 0 ≤ x.e then (x.m * (2 ^ x.e.toNat : Nat), ⟨0, 0⟩)
  else
    let d := (-x.e).toNat
    let n := (2 * x.m + (2 ^ d : Nat)) / ((2 ^ (d + 1) : Nat) : Int)
    (n, ⟨x.m - n * (2 ^ d : Nat), x.e⟩)

/-- 2^x for a dyadic x with |x| ≤ 2^20: the value as m × 2^e. -/
def bfExp2 (x : Bf) : Bf :=
  let s := splitNearest x
  if s.2.m ≠ 0 && bfTop s.2 < -200 then ⟨(nearOne (0 < s.2.m)).m, (nearOne (0 < s.2.m)).e + s.1⟩
  else
    let v := bfExp (bfMul s.2 bfLn2)
    ⟨v.m, v.e + s.1⟩

/-- log2 of m × 2^e, m positive: the mantissa is brought into [3/4, 3/2). -/
def bfLog2 (m : Nat) (e : Int) : Bf :=
  let l := Nat.log2 m
  let big := 3 * 2 ^ l ≤ 2 * m
  let k : Int := (l : Int) + e + (if big then 1 else 0)
  let den : Int := ((2 ^ (if big then l + 1 else l) : Nat) : Int)
  let z := bfDiv (bfInt ((m : Int) - den)) (bfInt ((m : Int) + den))
  bfAdd (bfInt k) (bfDiv (bfMul (bfInt 2) (bfAtanh z)) bfLn2)

/-- sin(πx), with the multiple of 1/2 nearest to x removed exactly; cosine is sine a quarter turn on. -/
def bfSinPi (quarter : Int) (x : Bf) : Bf :=
  let s := splitNearest ⟨x.m, x.e + 1⟩
  let y := bfMul ⟨s.2.m, s.2.e - 1⟩ bfPi
  match ((s.1 + quarter) % 4).toNat with
  | 0 => bfSin y
  | 1 => bfCos y
  | 2 => bfNeg (bfSin y)
  | _ => bfNeg (bfCos y)

/-- tanh of a positive dyadic value: x − x³/3 + …, which for a small x lies below x by less than 2^-200 of it. -/
def bfTanh (x : Bf) : Bf :=
  let t : Bf := ⟨x.m, x.e + 1⟩
  let top := bfTop t
  if top < -100 then ⟨x.m * 2 ^ 301 - 1, x.e - 301⟩
  else if top < 0 then
    let q := bfExpm1 t
    bfDiv q (bfAdd q (bfInt 2))
  else if 8 < top then ⟨2 ^ 300 - 1, -300⟩
  else
    let s := splitNearest (bfDiv t bfLn2)
    let r := bfAdd t (bfNeg (bfMul (bfInt s.1) bfLn2))
    let v := bfExp r
    bfAdd (bfInt 1) (bfNeg (bfDiv (bfInt 2) (bfAdd ⟨v.m, v.e + s.1⟩ (bfInt 1))))

/-- The magnitude a pattern without sign stands for; the pattern of infinity stands for 2^(emax+1). -/
def magOf (t : FpFmt) (b : Nat) : Nat × Int :=
  let ex := b / 2 ^ t.mb
  if ex = 0 then (b, t.emin - t.mb) else (2 ^ t.mb + b % 2 ^ t.mb, t.emin - t.mb + (ex : Int) - 1)

/-- Whether the pattern `b` lies within `k` units in the last place of the exact value v > 0 (R127). Where the exact value lies very near a
pattern (e^x and cosine near 1, tanh near its argument), `v` lies on the same side of it. -/
def withinUlp (t : FpFmt) (k : Nat) (v : Bf) (b : Nat) : Bool :=
  let u : Int := max (bfTop v) t.emin - t.mb
  let r := magOf t b
  let e := min (min r.2 v.e) u
  let d := ((r.1 * 2 ^ (r.2 - e).toNat : Nat) : Int) - v.m.natAbs * (2 ^ (v.e - e).toNat : Nat)
  d.natAbs ≤ k * 2 ^ (u - e).toNat

/-- A result inside the bound of R127: a free choice among the patterns that lie within `k` units of |v|, at most
`cap`; with the flags of R128. -/
def xfnPick (t : FpFmt) (k cap free : Nat) (v : Bf) : Nat × Nat :=
  let neg := decide (v.m < 0)
  let a : Bf := ⟨v.m.natAbs, v.e⟩
  let c := roundFp t .rne false (2 * a.m.natAbs + 1) (a.e - 1)
  let near := (List.range (4 * k + 5)).map fun i => c.1 + i - (2 * k + 2)
  let ok := near.filter fun b => b ≤ cap && b ≤ t.infBits && withinUlp t k a b
  let b := nth ok (free % ok.length) c.1
  (signBits t neg + b, fNX + (if b = t.infBits then fOF else 0) + (c.2 &&& fUF))

/-- The result of a transcendental on a finite non-zero input that is not an exact point, and the exact points
(R127). -/
def xfnFinite (minor : Nat) (t : FpFmt) (free : Nat) (neg : Bool) (m : Nat) (e : Int) : Nat × Nat :=
  let x : Bf := ⟨if neg then -(m : Int) else m, e⟩
  let l := Nat.log2 m
  let pow2 := m == 2 ^ l
  let ex : Int := (l : Int) + e
  let huge := 20 ≤ ex && !(pow2 && ex == 20)
  let integral := 0 ≤ e || m % 2 ^ (-e).toNat == 0
  let half := integral || m % 2 ^ (-e - 1).toNat == 0
  let n2 : Int := (splitNearest ⟨x.m, x.e + 1⟩).1
  match minor with
  | 0 => if pow2 then roundFp t .rne neg 1 (-ex)
         else xfnPick t 1 t.infBits free (bfDiv (bfInt 1) x)
  | 1 => if pow2 && ex % 2 == 0 then roundFp t .rne false 1 (-ex / 2)
         else
           let m2 := if e % 2 = 0 then m else 2 * m
           let e2 : Int := if e % 2 = 0 then e else e - 1
           xfnPick t 1 t.infBits free (bfDiv (bfInt 1) ⟨isqrt (m2 * 2 ^ 600), e2 / 2 - 300⟩)
  | 3 => if huge then (if neg then (0, fUF + fNX) else (t.infBits, fOF + fNX))
         else if integral && t.emin - t.mb ≤ (splitNearest x).1 && (splitNearest x).1 ≤ t.bias then
           roundFp t .rne false 1 (splitNearest x).1
         else xfnPick t 2 t.infBits free (bfExp2 x)
  | 4 => if pow2 then fpOfInt t .rne ex
         else xfnPick t 2 t.infBits free (bfLog2 m e)
  | 5 => if integral then (signBits t neg, 0)
         else if half then (signBits t (n2 % 4 == 3) + t.oneBits, 0)
         else if huge then (signBits t (free % 2 == 1) + free / 2 % (t.oneBits + 1), fNX)
         else xfnPick t 2 t.infBits free (bfSinPi 0 x)
  | 6 => if integral then (signBits t (n2 % 4 == 2) + t.oneBits, 0)
         else if half then (0, 0)
         else if huge then (signBits t (free % 2 == 1) + free / 2 % (t.oneBits + 1), fNX)
         else xfnPick t 2 t.infBits free (bfSinPi 1 x)
  | _ => let r := xfnPick t 3 t.oneBits free (bfTanh ⟨m, e⟩)
         (signBits t neg + r.1, r.2)

/-- A transcendental by minor (R126), type and input pattern: the result and the sticky bits (R127, R128). -/
def xfn (minor : Nat) (t : FpFmt) (ty x : Nat) : Nat × Nat :=
  if minor = 2 then fpSqrt t x
  else match unpack t x with
    | .nan s => nanWith t s
    | .inf n =>
      (match minor with
       | 0 => (signBits t n, 0)
       | 1 => if n then nanWith t true else (0, 0)
       | 3 => (if n then 0 else t.infBits, 0)
       | 4 => if n then nanWith t true else (t.infBits, 0)
       | 5 => nanWith t true
       | 6 => nanWith t true
       | _ => (signBits t n + t.oneBits, 0))
    | .fin n m e =>
      if m = 0 then
        (match minor with
         | 0 => (signBits t n + t.infBits, fDZ)
         | 1 => (signBits t n + t.infBits, fDZ)
         | 3 => (t.oneBits, 0)
         | 4 => (t.signW + t.infBits, fDZ)
         | 5 => (signBits t n, 0)
         | 6 => (t.oneBits, 0)
         | _ => (signBits t n, 0))
      else if n && (minor == 1 || minor == 4) then nanWith t true
      else xfnFinite minor t (Config.xfnFree minor ty x) n m e

end Sys2Proof.Machine
end

