-- ==== Sys2Proof/Machine/Vflt.lean ====
section
/-! DEFINITION. VFLT and VXFN, the vector float and transcendental instructions (R121 to R129), and their short forms
(R66). -/

namespace Sys2Proof.Machine

/-- The type of a VFLT word (R72). -/
def vfltTy (i : AluI) : OpTy := fltTy (i.m / 8)

/-- The rounding mode of a VFLT word (R72). -/
def vfltRm (i : AluI) : Rm := rmOf (i.m / 2)

/-- The format of a type's elements (R88). -/
def fmtOf : OpTy → FpFmt
  | .f64 => f64
  | .f16x2 => f16
  | .bf16x2 => bf16
  | _ => f32

/-- Whether a type packs two elements (R88). -/
def OpTy.packed : OpTy → Bool
  | .f16x2 => true
  | .bf16x2 => true
  | _ => false

/-- Element `k` of an operand (R88). -/
def elem (t : OpTy) (k x : Nat) : Nat := if t.packed then x / 2 ^ (16 * k) % 2 ^ 16 else x

/-- Compute element by element and put the results together (R88); each result may be clamped (R121). -/
def perElem (t : OpTy) (clamp : Bool) (h : Nat → Nat × Nat) : Nat × Nat :=
  let c (r : Nat × Nat) : Nat × Nat := (if clamp then fpClamp (fmtOf t) r.1 else r.1, r.2)
  if t.packed then
    let r0 := c (h 0)
    let r1 := c (h 1)
    (r0.1 + r1.1 * 2 ^ 16, r0.2 ||| r1.2)
  else c (h 0)

/-- A two-operand float instruction. -/
def vfltAB (s : State) (i : AluI) (ok slow : Bool) (t : OpTy) (h : FpFmt → Nat → Nat → Nat × Nat) :
    Host.Outcome State Fault Refusal :=
  runVec s i ok [(.d, .dstV t false), (.a, .src t), (.b, .src t)] slow t t.wide fun v _ =>
    perElem t (bitAt i.m 0) fun k => h (fmtOf t) (elem t k (v .a)) (elem t k (v .b))

/-- A one-operand float instruction. -/
def vfltA (s : State) (i : AluI) (ok : Bool) (t : OpTy) (h : FpFmt → Nat → Nat × Nat) :
    Host.Outcome State Fault Refusal :=
  runVec s i ok [(.d, .dstV t false), (.a, .src t)] false t t.wide fun v _ =>
    perElem t (bitAt i.m 0) fun k => h (fmtOf t) (elem t k (v .a))

/-- A fused multiply-add (R91). -/
def vfltFma (s : State) (i : AluI) (ok : Bool) (t : OpTy) (rm : Rm) : Host.Outcome State Fault Refusal :=
  runVec s i ok [(.d, .dstV t false), (.a, .src t), (.b, .src t), (.c, .src t)] false t t.wide fun v _ =>
    perElem t (bitAt i.m 0) fun k => fpFma (fmtOf t) rm (elem t k (v .a)) (elem t k (v .b)) (elem t k (v .c))

/-- VFADD (R121). -/
def execVfadd (f : Lg) (s : State) : Host.Outcome State Fault Refusal :=
  vfltAB s (lgView f) (lgOk 0x01 0x00 f) false (vfltTy (lgView f)) fun t => fpAdd t (vfltRm (lgView f))
/-- VFSUB (R121). -/
def execVfsub (f : Lg) (s : State) : Host.Outcome State Fault Refusal :=
  vfltAB s (lgView f) (lgOk 0x01 0x01 f) false (vfltTy (lgView f)) fun t => fpSub t (vfltRm (lgView f))
/-- VFMUL (R121). -/
def execVfmul (f : Lg) (s : State) : Host.Outcome State Fault Refusal :=
  vfltAB s (lgView f) (lgOk 0x01 0x02 f) false (vfltTy (lgView f)) fun t => fpMul t (vfltRm (lgView f))
/-- VFMA (R121). -/
def execVfma (f : Lg) (s : State) : Host.Outcome State Fault Refusal :=
  vfltFma s (lgView f) (lgOk 0x01 0x03 f) (vfltTy (lgView f)) (vfltRm (lgView f))
/-- VFMIN (R91, R121). -/
def execVfmin (f : Lg) (s : State) : Host.Outcome State Fault Refusal :=
  vfltAB s (lgView f) (lgOk 0x01 0x04 f) false (vfltTy (lgView f)) fun t => fpMinMax t false
/-- VFMAX (R91, R121). -/
def execVfmax (f : Lg) (s : State) : Host.Outcome State Fault Refusal :=
  vfltAB s (lgView f) (lgOk 0x01 0x05 f) false (vfltTy (lgView f)) fun t => fpMinMax t true
/-- VFRND (R122). -/
def execVfrnd (f : Lg) (s : State) : Host.Outcome State Fault Refusal :=
  vfltA s (lgView f) (lgOk 0x01 0x06 f) (vfltTy (lgView f)) fun t => fpRnd t (vfltRm (lgView f))
/-- VFFRACT (R122). -/
def execVffract (f : Lg) (s : State) : Host.Outcome State Fault Refusal :=
  vfltA s (lgView f) (lgOk 0x01 0x07 f) (vfltTy (lgView f)) fun t => fpFract t (vfltRm (lgView f))
/-- VFDOT2 (R123): A and B packed, C and D F32. -/
def execVfdot2 (f : Lg) (s : State) : Host.Outcome State Fault Refusal :=
  let i := lgView f
  let t := vfltTy i
  runVec s i (lgOk 0x01 0x08 f) [(.d, .dstV .f32 false), (.a, .src t), (.b, .src t), (.c, .src .f32)] false t false
    fun v _ => perElem .f32 (bitAt i.m 0) fun _ =>
      fpDot2 (fmtOf t) (vfltRm i) (elem t 0 (v .a)) (elem t 1 (v .a)) (elem t 0 (v .b)) (elem t 1 (v .b)) (v .c)
/-- VFCLASS (R124): a 32-bit mask, no flag. -/
def execVfclass (f : Lg) (s : State) : Host.Outcome State Fault Refusal :=
  let i := lgView f
  let t := vfltTy i
  runVec s i (lgOk 0x01 0x09 f) [(.d, .dstV .n32 false), (.a, .src t)] false t false fun v _ =>
    (if t.packed then fpClass (fmtOf t) (elem t 0 (v .a)) + fpClass (fmtOf t) (elem t 1 (v .a)) * 2 ^ 16
     else fpClass (fmtOf t) (v .a), 0)
/-- VFLDEXP (R125): the exponent is a 32-bit operand; a packed type has one I16 per element. -/
def execVfldexp (f : Lg) (s : State) : Host.Outcome State Fault Refusal :=
  let i := lgView f
  let t := vfltTy i
  runVec s i (lgOk 0x01 0x0A f) [(.d, .dstV t false), (.a, .src t), (.b, .src .n32)] false t t.wide fun v _ =>
    perElem t (bitAt i.m 0) fun k =>
      fpLdexp (fmtOf t) (vfltRm i) (elem t k (v .a))
        (if t.packed then sgn 16 (elem t k (v .b)) else sgn 32 (v .b))
/-- VFFREXP (R125). -/
def execVffrexp (f : Lg) (s : State) : Host.Outcome State Fault Refusal :=
  let i := lgView f
  let t := vfltTy i
  runVec s i (lgOk 0x01 0x0B f) [(.d, .dstV .n32 false), (.a, .src t)] false t false fun v _ =>
    if t.packed then
      let r0 := fpFrexp (fmtOf t) (elem t 0 (v .a))
      let r1 := fpFrexp (fmtOf t) (elem t 1 (v .a))
      (wrap 16 r0.1 + wrap 16 r1.1 * 2 ^ 16, r0.2 ||| r1.2)
    else
      let r := fpFrexp (fmtOf t) (v .a)
      (wrap 32 r.1, r.2)
/-- VFCOPYS (R121): no flag, NaN patterns pass. -/
def execVfcopys (f : Lg) (s : State) : Host.Outcome State Fault Refusal :=
  vfltAB s (lgView f) (lgOk 0x01 0x0C f) false (vfltTy (lgView f)) fun t a b => (fpCopysign t a b, 0)
/-- VFDIV (R121). -/
def execVfdiv (f : Lg) (s : State) : Host.Outcome State Fault Refusal :=
  vfltAB s (lgView f) (lgOk 0x01 0x0D f) true (vfltTy (lgView f)) fun t => fpDiv t (vfltRm (lgView f))

/-- A transcendental by minor (R126). -/
def vxfnRun (minor : Nat) (f : Lg) (s : State) : Host.Outcome State Fault Refusal :=
  let i := lgView f
  let t := vfltTy i
  runVec s i (lgOk 0x02 minor f) [(.d, .dstV t false), (.a, .src t)] true t t.wide fun v _ =>
    xfn minor (fmtOf t) (i.m / 8) (v .a)

/-- VRCP (R127, R128). -/
def execVrcp (f : Lg) (s : State) : Host.Outcome State Fault Refusal := vxfnRun 0x00 f s
/-- VRSQ (R127, R128). -/
def execVrsq (f : Lg) (s : State) : Host.Outcome State Fault Refusal := vxfnRun 0x01 f s
/-- VSQRT (R127, R128): correctly rounded. -/
def execVsqrt (f : Lg) (s : State) : Host.Outcome State Fault Refusal := vxfnRun 0x02 f s
/-- VEXP2 (R127, R128). -/
def execVexp2 (f : Lg) (s : State) : Host.Outcome State Fault Refusal := vxfnRun 0x03 f s
/-- VLOG2 (R127, R128). -/
def execVlog2 (f : Lg) (s : State) : Host.Outcome State Fault Refusal := vxfnRun 0x04 f s
/-- VSINPI (R127, R128). -/
def execVsinpi (f : Lg) (s : State) : Host.Outcome State Fault Refusal := vxfnRun 0x05 f s
/-- VCOSPI (R127, R128). -/
def execVcospi (f : Lg) (s : State) : Host.Outcome State Fault Refusal := vxfnRun 0x06 f s
/-- VTANH (R127, R128). -/
def execVtanh (f : Lg) (s : State) : Host.Outcome State Fault Refusal := vxfnRun 0x07 f s

/-! ### Short forms (R66): F32, RNE, no clamp -/

/-- Short VFADD (R66). -/
def execVfaddShort (f : Vs3) (s : State) : Host.Outcome State Fault Refusal :=
  vfltAB s (vs3View f) true false .f32 fun t => fpAdd t .rne
/-- Short VFSUB (R66). -/
def execVfsubShort (f : Vs3) (s : State) : Host.Outcome State Fault Refusal :=
  vfltAB s (vs3View f) true false .f32 fun t => fpSub t .rne
/-- Short VFMUL (R66). -/
def execVfmulShort (f : Vs3) (s : State) : Host.Outcome State Fault Refusal :=
  vfltAB s (vs3View f) true false .f32 fun t => fpMul t .rne
/-- VFMAC (R66): D is read as the addend. -/
def execVfmac (f : Vs3) (s : State) : Host.Outcome State Fault Refusal := vfltFma s (macView f) true .f32 .rne
/-- Short VFMIN (R66). -/
def execVfminShort (f : Vs3) (s : State) : Host.Outcome State Fault Refusal :=
  vfltAB s (vs3View f) true false .f32 fun t => fpMinMax t false
/-- Short VFMAX (R66). -/
def execVfmaxShort (f : Vs3) (s : State) : Host.Outcome State Fault Refusal :=
  vfltAB s (vs3View f) true false .f32 fun t => fpMinMax t true

end Sys2Proof.Machine
end

