-- ==== Sys2Proof/Machine/Vcnv.lean ====
section
/-! DEFINITION. VCNV, the conversion and compare instructions (R106 to R108, R139 to R142), and the logarithmic formats
(R93, R94). -/

namespace Sys2Proof.Machine

/-- The table T of R94. -/
def lgT (k : Nat) : Nat :=
  match k with
  | 0 => 65536
  | 1 => 71468
  | 2 => 77936
  | 3 => 84990
  | 4 => 92682
  | 5 => 101070
  | 6 => 110218
  | _ => 120194

/-- The table-based magnitude of a code m (R94), as an integer times 2^-24; `six` for LG6. -/
def lgMag (six : Bool) (m : Nat) : Nat :=
  if m = 0 then 0
  else if six then lgT (2 * (m % 4)) * 2 ^ (m / 4 + 4) else lgT (m % 8) * 2 ^ (m / 8)

/-- The largest magnitude code (R93). -/
def lgMax (six : Bool) : Nat := if six then 31 else 127

/-- The sign bit's weight of a code (R93). -/
def lgSign (six : Bool) : Nat := if six then 32 else 128

/-- Compare m × 2^e with n × 2^-24. -/
def cmpMag (m : Nat) (e : Int) (n : Nat) : Ordering :=
  let lo := min e (-24)
  compare (m * 2 ^ (e - lo).toNat) (n * 2 ^ (-24 - lo).toNat)

/-- Twice m × 2^e against the sum of two magnitudes. -/
def cmpMid (m : Nat) (e : Int) (n1 n2 : Nat) : Ordering := cmpMag (2 * m) e (n1 + n2)

/-- Convert to a logarithmic code (R106): the nearer of the two adjacent table-based values, a tie to even m. -/
def toLg (six : Bool) (t : FpFmt) (x : Nat) : Nat × Nat :=
  let top := lgMax six
  match unpack t x with
  | .nan _ => (lgSign six, fIO)
  | .inf n => ((if n then lgSign six else 0) + top, fOF + fNX)
  | .fin n m e =>
    if m = 0 then (0, 0)
    else
      let sg := if n then lgSign six else 0
      if cmpMag m e (lgMag six top) == .gt then (sg + top, fOF + fNX)
      else
        let below := ((List.range (top + 1)).filter fun k => cmpMag m e (lgMag six k) != .lt).foldl max 0
        if cmpMag m e (lgMag six below) == .eq then (sg + below, 0)
        else
          let pick := match cmpMid m e (lgMag six below) (lgMag six (below + 1)) with
            | .lt => below
            | .gt => below + 1
            | .eq => if below % 2 = 0 then below else below + 1
          ((if pick = 0 then 0 else sg + pick), fNX)

/-- Convert a logarithmic code to its table-based value (R107). -/
def ofLg (six : Bool) (t : FpFmt) (x : Nat) : Nat × Nat :=
  let y := x % (2 * lgSign six)
  let m := y % lgSign six
  let neg := lgSign six ≤ y
  if m = 0 then (if neg then t.nanBits else 0, 0) else roundFp t .rne neg (lgMag six m) (-24)

/-- A conversion: D of one type, A of another (R139). It takes 8 beats where either is of 64 bits (R39, DESIGN CHOICE, log 94). -/
def cnvRun (s : State) (f : Lg) (minor : Nat) (src dst : OpTy) (h : Nat → Nat × Nat) :
    Host.Outcome State Fault Refusal :=
  runVec s (lgView f) (lgOk 0x03 minor f) [(.d, .dstV dst false), (.a, .src src)] false
    (if src.wide || dst.wide then .n64 else .n32) dst.wide fun v _ => h (v .a)

/-- The formats of VCVTF's code (R140): source and destination. -/
def vcvtfFmt (code : Nat) : FpFmt × FpFmt :=
  match code with
  | 0 => (f32, f64)
  | 1 => (f64, f32)
  | 2 => (f32, f16)
  | 3 => (f32, bf16)
  | 4 => (f16, f32)
  | 5 => (bf16, f32)
  | 6 => (f64, f16)
  | _ => (f16, f64)

/-- The operand type that holds a format: a pair for F64, one register otherwise. A 16-bit format stands in the low half, where its packed
type has an inline constant's encoding too (R57). -/
def holder (t : FpFmt) : OpTy := if t = f64 then .f64 else if t = f16 then .f16x2 else if t = bf16 then .bf16x2 else .f32

/-- VCVTF (R140). -/
def execVcvtf (f : Lg) (s : State) : Host.Outcome State Fault Refusal :=
  let m := f.mod.toNat
  let p := vcvtfFmt (m / 4)
  cnvRun s f 0x00 (holder p.1) (holder p.2) fun a => fpConv p.1 p.2 (rmOf m) (a % 2 ^ p.1.width)
/-- VCVTFI (R108, R139). -/
def execVcvtfi (f : Lg) (s : State) : Host.Outcome State Fault Refusal :=
  let m := f.mod.toNat
  let src := fltTy (m / 16)
  let dst := intTy (m / 4 % 4)
  cnvRun s f 0x01 src dst (fpToInt (fmtOf src) dst.signed dst.w (rmOf m))
/-- VCVTIF (R139). -/
def execVcvtif (f : Lg) (s : State) : Host.Outcome State Fault Refusal :=
  let m := f.mod.toNat
  let src := intTy (m / 8)
  let dst := fltTy (m / 4 % 2)
  cnvRun s f 0x02 src dst fun a => fpOfInt (fmtOf dst) (rmOf m) (ext src a)
/-- VPACK (R141): kinds H, HH and W; W, whose result alone is of 64 bits, takes 8 beats (R39, DESIGN CHOICE, log 94). -/
def execVpack (f : Lg) (s : State) : Host.Outcome State Fault Refusal :=
  let k := f.mod.toNat
  let dst : OpTy := if k = 2 then .n64 else .n32
  runVec s (lgView f) (lgOk 0x03 0x03 f) [(.d, .dstV dst false), (.a, .src .n32), (.b, .src .n32)] false dst (k == 2)
    fun v _ =>
      (match k with
       | 0 => v .a % 2 ^ 16 + v .b % 2 ^ 16 * 2 ^ 16
       | 1 => v .a / 2 ^ 16 + v .b / 2 ^ 16 * 2 ^ 16
       | _ => v .a + v .b * 2 ^ 32, 0)
/-- VUNPK (R141). -/
def execVunpk (f : Lg) (s : State) : Host.Outcome State Fault Refusal :=
  let m := f.mod.toNat
  let w := if bitAt m 2 then 8 else 16
  cnvRun s f 0x04 .n32 .n32 fun a =>
    let e := a / 2 ^ (w * (m % 4)) % 2 ^ w
    (if bitAt m 3 then wrap 32 (sgn w e) else e, 0)
/-- VCVTLG (R106). -/
def execVcvtlg (f : Lg) (s : State) : Host.Outcome State Fault Refusal :=
  let m := f.mod.toNat
  let src := fltTy (m / 8 % 2)
  cnvRun s f 0x05 src .n32 (toLg (!bitAt m 4) (fmtOf src))
/-- VLGCVT (R107): F16 and BF16 results lie in D[15:0] (R139). -/
def execVlgcvt (f : Lg) (s : State) : Host.Outcome State Fault Refusal :=
  let m := f.mod.toNat
  let dst := fltTy (m / 4 % 4)
  cnvRun s f 0x06 .n32 (if dst.wide then .f64 else .n32) (ofLg (!bitAt m 4) (fmtOf dst))

/-- A compare: the mask over the active lanes in an even S pair, or NULL; nothing is written with EXEC zero (R135,
R142). -/
def cmpRun (s : State) (f : Lg) (minor : Nat) (t : OpTy) (h : Nat → Nat → Bool × Nat) :
    Host.Outcome State Fault Refusal :=
  let i := lgView f
  let os : Opnds := [(.d, .dstS true true), (.a, .src t), (.b, .src t)]
  runAlu s i (lgOk 0x03 minor f) os fun x s1 =>
    let r := fun l => h (opVal s x i os .a l) (opVal s x i os .b l)
    let s2 := occupy s1 x (baseBeats false t + bankBeats (vectorReads i os))
    if x.f.exec = 0 then s2
    else orSticky (writeUni s2 x i.d true (maskOf fun l => inMask x.f.exec l && (r l).1).toNat) x.gid
      (stickyOf x.f.exec fun l => (r l).2)

/-- VCMP (R142). -/
def execVcmp (f : Lg) (s : State) : Host.Outcome State Fault Refusal :=
  let m := f.mod.toNat
  cmpRun s f 0x07 (intTy (m / 8)) fun a b => (intCond (intTy (m / 8)) (m % 8) a b, 0)
/-- VCMPF (R142). -/
def execVcmpf (f : Lg) (s : State) : Host.Outcome State Fault Refusal :=
  let m := f.mod.toNat
  cmpRun s f 0x08 (fltTy (m / 8)) (fpCmp (fmtOf (fltTy (m / 8))) (m % 8))

end Sys2Proof.Machine
end

