-- ==== Sys2Proof/Machine/Vlane.lean ====
section
/-! DEFINITION. VLANE, the lane instructions (R135 to R138), and the lane trees (R109). -/

namespace Sys2Proof.Machine

/-- A value with the sticky bits raised on the way, or absent (R109). -/
abbrev Part := Option (Nat × Nat)

/-- combine(a, b) of R109. -/
def combine (op : Nat → Nat → Nat × Nat) : Part → Part → Part
  | none, b => b
  | a, none => a
  | some (a, fa), some (b, fb) =>
    let r := op a b
    some (r.1, fa ||| fb ||| r.2)

/-- tree(lo, 2^k) of R109. -/
def laneTree (op : Nat → Nat → Nat × Nat) (x : Nat → Part) : Nat → Nat → Part
  | 0, lo => x lo
  | k + 1, lo => combine op (laneTree op x k lo) (laneTree op x k (lo + 2 ^ k))

/-- scan(l) of R109: bits of l + 1 from bit `b - 1` down. -/
def laneScan (op : Nat → Nat → Nat × Nat) (x : Nat → Part) (l : Nat) : Nat → Nat → Part → Part
  | 0, _, acc => acc
  | b + 1, base, acc =>
    if bitAt (l + 1) b then laneScan op x l b (base + 2 ^ b) (combine op acc (laneTree op x b base))
    else laneScan op x l b base acc

/-- The operation of VRED and VSCAN (R138): type code and operation code. -/
def redOp (ty op : Nat) (a b : Nat) : Nat × Nat :=
  if ty < 2 then
    let w := if ty = 0 then 32 else 64
    let st := if ty = 0 then OpTy.i32 else OpTy.i64
    let ut := if ty = 0 then OpTy.n32 else OpTy.n64
    (match op with
     | 0 => (a + b) % 2 ^ w
     | 1 => fit st false (min (ext st a) (ext st b))
     | 2 => fit st false (max (ext st a) (ext st b))
     | 3 => fit ut false (min (ext ut a) (ext ut b))
     | 4 => fit ut false (max (ext ut a) (ext ut b))
     | 5 => a &&& b
     | 6 => a ||| b
     | _ => a ^^^ b, 0)
  else
    let t := if ty = 2 then f32 else f64
    match op with
    | 0 => fpAdd t .rne a b
    | 1 => fpMinMax t false a b
    | _ => fpMinMax t true a b

/-- The operand type of VRED and VSCAN (R138); 64-bit integers widen a literal or a 32-bit latch as N64 (DESIGN CHOICE, log 76). -/
def redTy (m : Nat) : OpTy :=
  match m / 8 with
  | 0 => .n32
  | 1 => .n64
  | 2 => .f32
  | _ => .f64

/-- The data type of a W64 instruction (R136): a literal or a 32-bit latch in a 64-bit operand is widened as N64 (DESIGN CHOICE, log 76). -/
def w64Ty (m : Nat) : OpTy := if bitAt m 2 then .n64 else .n32

/-- A lane instruction with a vector result: `h` gives lane l's result from A's lanes and the lane's B. -/
def laneRun (s : State) (f : Lg) (minor : Nat) (b : Option Kind) (h : (Nat → Nat) → Nat → Nat → Nat) :
    Host.Outcome State Fault Refusal :=
  let i := lgView f
  let t := w64Ty i.m
  let os : Opnds := [(.d, .dstV t false), (.a, .src t)] ++ (match b with | some k => [(.b, k)] | none => [])
  runAlu s i (lgOk 0x04 minor f) os fun x s1 =>
    let a := fun l => opVal s x i os .a l
    let s2 := occupy s1 x (baseBeats false t + bankBeats (vectorReads i os))
    writeVec s2 x i.d t.wide x.f.exec fun l => h a (opVal s x i os .b l) l

/-- The source lane of VSHFL (R137). -/
def shflSrc (mode b l : Nat) : Nat :=
  match mode with
  | 0 => b % 64
  | 1 => if b ≤ l then l - b else l
  | 2 => if l + b < 64 then l + b else l
  | _ => l ^^^ (b % 64)

/-- VSHFL (R137). -/
def execVshfl (f : Lg) (s : State) : Host.Outcome State Fault Refusal :=
  laneRun s f 0x00 (some (.src .n32)) fun a b l => a (shflSrc (f.mod.toNat % 4) b l)
/-- VBCST (R136). -/
def execVbcst (f : Lg) (s : State) : Host.Outcome State Fault Refusal :=
  laneRun s f 0x01 (some (.uni .n32)) fun a b _ => a (b % 64)
/-- VRDLN (R136): a uniform result, written only if EXEC is non-zero (R135); NULL discards it (R48, DEDUCED, log 50). -/
def execVrdln (f : Lg) (s : State) : Host.Outcome State Fault Refusal :=
  let i := lgView f
  let t := w64Ty i.m
  let os : Opnds := [(.d, .dstS t.wide true), (.a, .src t), (.b, .uni .n32)]
  runAlu s i (lgOk 0x04 0x02 f) os fun x s1 =>
    let s2 := occupy s1 x (baseBeats false t + bankBeats (vectorReads i os))
    if x.f.exec = 0 then s2 else writeUni s2 x i.d t.wide (opVal s x i os .a (opVal s x i os .b 0 % 64))
/-- VWRLN (R136): one lane is written, if it is active. -/
def execVwrln (f : Lg) (s : State) : Host.Outcome State Fault Refusal :=
  let i := lgView f
  let t := w64Ty i.m
  let os : Opnds := [(.d, .dstV t false), (.a, .uni t), (.b, .uni .n32)]
  runAlu s i (lgOk 0x04 0x03 f) os fun x s1 =>
    let s2 := occupy s1 x (baseBeats false t + bankBeats (vectorReads i os))
    let l := opVal s x i os .b 0 % 64
    writeVec s2 x i.d t.wide (x.f.exec &&& BitVec.ofNat 64 (2 ^ l)) fun _ => opVal s x i os .a 0
/-- VBALLOT (R136). -/
def execVballot (f : Lg) (s : State) : Host.Outcome State Fault Refusal :=
  let i := lgView f
  let t := w64Ty i.m
  let os : Opnds := [(.d, .dstS true true), (.a, .src t)]
  runAlu s i (lgOk 0x04 0x04 f) os fun x s1 =>
    let s2 := occupy s1 x (baseBeats false t + bankBeats (vectorReads i os))
    if x.f.exec = 0 then s2
    else writeUni s2 x i.d true (maskOf fun l => inMask x.f.exec l && opVal s x i os .a l != 0).toNat
/-- VMPFX (R136): the 1 bits of M below the lane, whatever EXEC holds. -/
def execVmpfx (f : Lg) (s : State) : Host.Outcome State Fault Refusal :=
  let i := lgView f
  runVec s i (lgOk 0x04 0x05 f) [(.d, .dstV .n32 false), (.a, .uni .n64)] false .n32 false fun v l =>
    (popcount l (v .a), 0)
/-- VRED (R138): the tree over the active lanes; a vector destination gets the result in every active lane. With EXEC zero
nothing is written. -/
def execVred (f : Lg) (s : State) : Host.Outcome State Fault Refusal :=
  let i := lgView f
  let t := redTy i.m
  let os : Opnds := [(.d, .dstVS t), (.a, .src t)]
  runAlu s i (lgOk 0x04 0x06 f) os fun x s1 =>
    let s2 := occupy s1 x (baseBeats false t + bankBeats (vectorReads i os))
    match laneTree (redOp (i.m / 8) (i.m % 8))
        (fun l => if inMask x.f.exec l then some (opVal s x i os .a l, 0) else none) 6 0 with
    | none => s2
    | some (r, fl) =>
      match i.d with
      | .v n => orSticky (writeVec s2 x (.v n) t.wide x.f.exec fun _ => r) x.gid fl
      | d => orSticky (writeUni s2 x d t.wide r) x.gid fl
/-- VSCAN (R138): inclusive, over the active lanes. -/
def execVscan (f : Lg) (s : State) : Host.Outcome State Fault Refusal :=
  let i := lgView f
  let t := redTy i.m
  let os : Opnds := [(.d, .dstV t false), (.a, .src t)]
  runAlu s i (lgOk 0x04 0x07 f) os fun x s1 =>
    let s2 := occupy s1 x (baseBeats false t + bankBeats (vectorReads i os))
    let r := fun l => (laneScan (redOp (i.m / 8) (i.m % 8))
      (fun k => if inMask x.f.exec k then some (opVal s x i os .a k, 0) else none) l 7 0 none).getD (0, 0)
    orSticky (writeVec s2 x i.d t.wide x.f.exec fun l => (r l).1) x.gid (stickyOf x.f.exec fun l => (r l).2)
/-- VQSWZ (R136). -/
def execVqswz (f : Lg) (s : State) : Host.Outcome State Fault Refusal :=
  laneRun s f 0x08 (some (.uni .n32)) fun a b l => a (4 * (l / 4) + b / 2 ^ (2 * (l % 4)) % 4)
/-- VMATCH (R136): the active lanes whose pattern equals this lane's. -/
def execVmatch (f : Lg) (s : State) : Host.Outcome State Fault Refusal :=
  let i := lgView f
  let t := w64Ty i.m
  let os : Opnds := [(.d, .dstV .n64 false), (.a, .src t)]
  runAlu s i (lgOk 0x04 0x09 f) os fun x s1 =>
    let s2 := occupy s1 x (baseBeats false t + bankBeats (vectorReads i os))
    writeVec s2 x i.d true x.f.exec fun l =>
      (maskOf fun m => inMask x.f.exec m && opVal s x i os .a m == opVal s x i os .a l).toNat

end Sys2Proof.Machine
end

