-- ==== Sys2Proof/Machine/Churn.lean ====
section
/-! DEFINITION. Churn (R169, R170, R251, R252): issue of a job, its granules, and its result. -/

namespace Sys2Proof.Machine

/-! ### Operands -/

/-- The first misaligned value of a Churn instruction and its position (R169, R218). -/
def churnBad (kind a b count ty : Nat) : Option (Nat × Nat) :=
  if a % 4 ≠ 0 then some (a, 0)
  else if (kind == 1 || kind == 2) && b % 4 != 0 then some (b, 1)
  else if count % 4 ≠ 0 || (kind == 3 && ty == 1 && count % 8 != 0) then some (count, 2)
  else none

/-- The operands of a Churn instruction. -/
def churnOps (kind : Nat) : Opnds :=
  [(.a, .spair false)] ++ (if kind = 0 then [(.b, .uni .n32)] else if kind = 3 then [] else [(.b, .spair false)]) ++
    [(.c, .uni .n32)]

/-! ### Results -/

/-- Number of granules of a job: the aligned 256-byte blocks that its first range touches (R15, R251). -/
def Churn.granules (c : Churn) : Nat := if c.count = 0 then 0 else (c.a + c.count - 1) / 256 - c.a / 256 + 1

/-- The offsets of granule `k` in the range: from, count. -/
def Churn.piece (c : Churn) (k : Nat) : Nat × Nat :=
  let lo := max c.a ((c.a / 256 + k) * 256)
  let hi := min (c.a + c.count) ((c.a / 256 + k + 1) * 256)
  (lo - c.a, hi - lo)

/-- The words of a granule by their position in it, as an F32 sum takes them (R109). -/
def granuleSum (c : Churn) (k : Nat) : Part :=
  let p := c.piece k
  let bs := Tab.getD c.vals k []
  let first := (c.a + p.1) % 256 / 4
  laneTree (redOp 2 0) (fun i =>
    if first ≤ i && i < first + bs.length / 4 then some (ofBytes ((bs.drop (4 * (i - first))).take 4), 0) else none) 6 0

/-- Combine a list of parts in order. -/
def foldParts (op : Nat → Nat → Nat × Nat) (l : List Part) : Part := l.foldl (combine op) none

/-- CHRED's result (R170): type, operation, in the order of R109. -/
def churnReduce (c : Churn) : Nat :=
  let all := (List.range c.granules).flatMap fun k => Tab.getD c.vals k []
  let w := if c.ty = 1 then 8 else 4
  let elems := (List.range (all.length / w)).map fun i => ofBytes ((all.drop (w * i)).take w)
  let op := if c.op = 3 then (fun a b : Nat => (a ^^^ b, 0)) else redOp c.ty c.op
  let r := if c.ty = 2 && c.op == 0 then foldParts op ((List.range c.granules).map (granuleSum c))
    else foldParts op (elems.map fun v => some (v, 0))
  match r with
  | some (v, _) => if c.ty = 0 then wrap 64 (sgn 32 v) else v
  | none => if c.ty = 2 && (c.op == 1 || c.op == 2) then f32.nanBits else 0

/-- The Q4 entry of a job that has ended (R170). -/
def churnResult (c : Churn) : Nat :=
  match c.kind with
  | 2 => match c.diff with
    | some d => d
    | none => 2 ^ 64 - 1
  | 3 => churnReduce c
  | _ => c.count

/-- A job whose granules are all done and whose probes are all answered ends: its entry is written (R169, R252). -/
def finishChurn (s : State) (id : Nat) : State :=
  match Tab.get? s.churns id with
  | none => s
  | some c =>
    if c.done.length < c.granules || jobProbed s id then s
    else setResult { s with churns := Tab.del s.churns id } c.uid 4 id (qWords (churnResult c))

/-! ### Issuing a job -/

/-- Issue a Churn job once every earlier memory instruction is translated (R149): an entry of Q4 is reserved, the flag joined; a byte
count of 0 has its entry at once (R169). -/
def runChurn (s : State) (minor kind : Nat) (f : Lg) : Host.Outcome State Fault Refusal :=
  let os := churnOps kind
  runLg s 0x13 minor anyone f os fun x s1 =>
    let a := uval s x f os .a
    let b := uval s x f os .b
    let count := uval s x f os .c
    let ty := f.mod.toNat / 8
    match churnBad kind a b count ty with
    | some (v, k) => takeTrap s x 0x07 v k
    | none => withFlag s x f fun fl =>
      if !allTranslated s x.g.uid then park s x .order
      else if queueFree x.g 4 = 0 then park s x (.entries 4 1)
      else
        let id := s1.nextOp
        let job : Churn :=
          { kind := kind, gid := x.gid, uid := x.g.uid, part := x.g.part, cls := x.g.cls, launch := x.g.launch, hmode := false
            a := a, b := if kind = 0 then 0 else b, count := count, word := b % 2 ^ 32, ty := ty, op := f.mod.toNat % 4
            done := [], asked := [], got := [], diff := none, vals := [], pts := x.g.pts, event := none }
        let s2 := { s1 with nextOp := id + 1, churns := Tab.set s1.churns id job }
        let s3 := s2.modGroup x.gid fun g => countFlag (reserveQueue g 4 id fl) fl
        nextLg (if count = 0 then finishChurn s3 id else s3) x f

/-- CHFILL (R170). -/
def execChfill (f : Lg) (s : State) : Host.Outcome State Fault Refusal := runChurn s 10 0 f
/-- CHCOPY (R170). -/
def execChcopy (f : Lg) (s : State) : Host.Outcome State Fault Refusal := runChurn s 11 1 f
/-- CHCMP (R170). -/
def execChcmp (f : Lg) (s : State) : Host.Outcome State Fault Refusal := runChurn s 12 2 f
/-- CHRED (R170). -/
def execChred (f : Lg) (s : State) : Host.Outcome State Fault Refusal := runChurn s 13 3 f

/-! ### Granules -/

/-- The translator of a Churn engine: the engine TLB of a memory chiplet (R293, R295), under the job's class (R252). -/
def churnXer (c : Churn) (mc : Nat) : Xer :=
  { part := c.part, core := none, chip := none, eng := some (1024 + portMC mc), hmode := false, cls := some c.cls }

/-- A job stops at faulting pages (R169, R300). -/
def stopChurn (s : State) (id mc : Nat) (c : Churn) (bad : List (Nat × Nat × XFault)) : State :=
  if bad.isEmpty then s
  else
    let r := agentFault s c.part (portMC mc) (coreOf c.gid) (slotOf c.gid) (c.launch / 32) 8 mc 0 (.churn id) bad
    { r.1 with churns := Tab.upd r.1.churns id fun c => { c with event := some r.2 } }

/-- A read on SO pages renews the lines' leases and advances the job's clock (R239, R251). -/
def soReads (s : State) (pts : Nat) (pas : List Nat) : State × Nat :=
  ((pas.map lineOf).eraseDups).foldl (fun (st : State × Nat) l =>
    let r := soLoadAt st.1 l st.2
    (r.1, max st.2 r.2)) (s, pts)

/-- Read bytes for a job: the state, its clock, the bytes, or the faulting pages; none of them where the read waits. -/
def churnRead (s : State) (x : Xer) (pts : Nat) (va n : Nat) : State × Nat × Except (List (Nat × Nat × XFault)) (List Byte) :=
  let vas := (List.range n).map fun i => (va + i) % 2 ^ 64
  let r := vaGather s x .load true vas
  match r.2 with
  | .error bad => (r.1, pts, .error (badOf vas bad))
  | .ok bs =>
    let m := (translatePages r.1 x .load true ((vas.map (· / 4096)).eraseDups)).2.1
    let q := soReads r.1 pts ((vas.filter fun v => kindAt m v == 1).map (placed m))
    (q.1, q.2, .ok bs)

/-- Write bytes for a job, line by line (R251): the state, and its clock or the faulting pages; none of them where the write waits, for a
snoop, for sequence room or for its class budget (R232, R288, R320). -/
def churnWrite (s : State) (x : Xer) (id pts : Nat) (c : Churn) (va : Nat) (bs : List Byte) :
    State × Except (List (Nat × Nat × XFault)) Nat :=
  let vas := (List.range bs.length).map fun i => (va + i) % 2 ^ 64
  let r := translatePages s x .store true ((vas.map (· / 4096)).eraseDups)
  let pas := vas.map (placed r.2.1)
  if !r.2.2.isEmpty then (r.1, .error (badOf vas (faultsOf r.2.2)))
  else match writeWaits r.1 c.part (some c.cls) pas with
    | some t => (t, .error [])
    | none =>
      let cells := vas.zip bs
      let q := (pas.map lineOf).eraseDups.foldl (fun (st : State × Nat) l =>
        let here := cells.filter fun y => lineOf (placed r.2.1 y.1) == l
        let bytes : Tab Byte := here.foldl (fun m y => Tab.set m (placed r.2.1 y.1 % 128) y.2) []
        let kind : Nat := match here with
          | y :: _ => kindAt r.2.1 y.1
          | [] => 0
        let w := engineWrite st.1 id c.part (2 ^ 64) l bytes (if kind = 1 then some st.2 else none) (gidOf c.gid)
        (w.1, max st.2 w.2)) (writeCounts r.1 c.part c.cls pas, pts)
      (q.1, .ok q.2)

/-- The lowest offset at which two byte lists differ. -/
def firstDiff (a b : List Byte) : Option Nat := (a.zip b).findIdx? fun p => p.1 != p.2

/-- Ranges of a copy overlap (R170). -/
def Churn.overlaps (c : Churn) : Bool := c.kind == 1 && c.a < c.b + c.count && c.b < c.a + c.count && c.a != c.b

/-- The memory chiplet whose engine takes a granule (R251); for a page not mapped, that of its virtual address (log 39). -/
def granuleMc (s : State) (c : Churn) (va : Nat) (kind : AccKind) : Nat :=
  homeMc ((peek s (churnXer c (homeMc va)) va kind).getD va)

/-- Change a job. -/
def modChurn (s : State) (id : Nat) (h : Churn → Churn) : State := { s with churns := Tab.upd s.churns id h }

/-- Granule `k` of a job is done. -/
def granuleDone (s : State) (id k : Nat) (h : Churn → Churn) : State := modChurn s id fun c => { h c with done := c.done ++ [k] }

/-! ### The second range -/

/-- The bytes of granule `k` of the second range: address and count (R251). -/
def Churn.second (c : Churn) (k : Nat) : Nat × Nat :=
  let lo := max c.b ((c.b / 256 + k) * 256)
  (lo, min (c.b + c.count) ((c.b / 256 + k + 1) * 256) - lo)

/-- The granules of the second range that granule `k` of the first needs: those under it; for an overlapping copy all of them, since the
whole source is read before any byte is written (R170). -/
def Churn.needs (c : Churn) (k : Nat) : List Nat :=
  if c.kind ≠ 1 && c.kind ≠ 2 then []
  else if c.overlaps then List.range ((c.b + c.count - 1) / 256 - c.b / 256 + 1)
  else
    let p := c.piece k
    let a := (c.b + p.1) / 256 - c.b / 256
    let e := (c.b + p.1 + p.2 - 1) / 256 - c.b / 256
    (List.range (e - a + 1)).map (· + a)

/-- The bytes of the second range under granule `k` of the first, got before. -/
def Churn.opposite (c : Churn) (k : Nat) : List Byte :=
  let p := c.piece k
  (List.range p.2).map fun i =>
    let y := c.b + p.1 + i
    let g := y / 256 - c.b / 256
    nth (Tab.getD c.got g []) (y - (c.second g).1) 0

/-- An engine reads granule `k` of the second range, homed with it: the bytes, none where it stops or must wait (R251). -/
def readSecond (s : State) (id k mc : Nat) (c : Churn) : State × Option (List Byte) :=
  let p := c.second k
  match churnRead s (churnXer c mc) c.pts (p.1 % 2 ^ 64) p.2 with
  | (t, ts, .ok bs) => (modChurn t id fun c => { c with pts := max c.pts ts }, some bs)
  | (t, _, .error bad) => (stopChurn t id mc c bad, none)

/-- Get the granules of the second range that are missing (R251): each one homed with another engine is asked for over the pair, one homed here
is read; each read is a step of its own. -/
def getSecond (s : State) (id mc : Nat) (c : Churn) (missing : List Nat) : State :=
  let homeOf (k : Nat) : Nat := granuleMc s c ((c.second k).1 % 2 ^ 64) .load
  let far := missing.filter fun k => homeOf k != mc && !c.asked.contains k
  let s1 := far.foldl (fun t k => modChurn (send t (portMC mc) (portMC (homeOf k)) (.granReq id k)) id fun c =>
    { c with asked := c.asked ++ [k] }) s
  match missing.find? fun k => homeOf k == mc with
  | none => s1
  | some k => match readSecond s1 id k mc c with
    | (t, some bs) => modChurn t id fun c => { c with got := Tab.set c.got k bs }
    | (t, none) => t

/-- What a message between engines is to a job. -/
def granuleMsg (id : Nat) : Msg → Bool
  | .granReq job _ => job == id
  | .granData job _ _ => job == id
  | _ => false

/-- A message of a job that has reached an engine: sending and receiving chiplet, its place, and itself. -/
def granuleMsgs (s : State) (id : Nat) : Option (Nat × Nat × Nat × Msg) :=
  (List.range 256).findSome? fun n =>
    ((s.pair (portMC (n / 16)) (portMC (n % 16))).inbox.zipIdx.find? fun e => granuleMsg id e.1.2).map fun e => (n / 16, n % 16, e.2, e.1.2)

/-- A granule asked for is read and sent, or arrives (R251). One whose read faults is asked for again after the resume. -/
def takeGranule (s : State) (id : Nat) (c : Churn) (i j n : Nat) (m : Msg) : State :=
  let t := takeInbox s (portMC i) (portMC j) n
  match m with
  | .granReq _ k => match readSecond s id k j c with
    | (u, some bs) => send (takeInbox u (portMC i) (portMC j) n) (portMC j) (portMC i) (.granData id k bs)
    | (u, none) => match (Tab.get? u.churns id).bind (·.event) with
      | some _ => modChurn (takeInbox u (portMC i) (portMC j) n) id fun c => { c with asked := c.asked.filter (· != k) }
      | none => u
  | .granData _ k bs => modChurn t id fun c => { c with got := Tab.set c.got k bs, asked := c.asked.filter (· != k) }
  | _ => s

/-- Messages of jobs that are gone are dropped. -/
def dropGranules (s : State) : State :=
  let gone (m : Msg) : Bool := match m with
    | .granReq job _ => (Tab.get? s.churns job).isNone
    | .granData job _ _ => (Tab.get? s.churns job).isNone
    | _ => false
  s.pairs.foldl (fun t p => match p.2.inbox.findIdx? fun e => gone e.2 with
    | some n => takeInbox t (p.1 / 34) (p.1 % 34) n
    | none => t) s

/-! ### Granules -/

/-- One granule step on the first range (R169, R251); what it needs of the second has been got. -/
def churnStep (s : State) (id k mc : Nat) (c : Churn) : State :=
  let p := c.piece k
  let va := (c.a + p.1) % 2 ^ 64
  let x := churnXer c mc
  let write (bs : List Byte) : State := match churnWrite s x id c.pts c va bs with
    | (t, .ok ts) => granuleDone t id k fun c => { c with pts := ts }
    | (t, .error bad) => stopChurn t id mc c bad
  let read (h : Churn → List Byte → Churn) : State := match churnRead s x c.pts va p.2 with
    | (t, _, .error bad) => stopChurn t id mc c bad
    | (t, ts, .ok bs) => granuleDone t id k fun c => { h c bs with pts := ts }
  match c.kind with
  | 0 => write ((List.range p.2).map fun i => BitVec.ofNat 8 (c.word / 2 ^ (8 * ((p.1 + i) % 4))))
  | 1 => write (c.opposite k)
  | 2 => read fun c as =>
      let d := (firstDiff as (c.opposite k)).map (· + p.1)
      let m := match c.diff, d with
        | some a, some b => some (min a b)
        | none, y => y
        | y, none => y
      { c with diff := m }
  | _ => read fun c bs => { c with vals := Tab.set c.vals k bs }

/-- CHURN_GRANULE (R251): a message between engines of the job is handled, a granule of the second range is got, or a granule of the first is
done. -/
def execChurnGranule (op k : Nat) (s : State) : Host.Outcome State Fault Refusal :=
  .next (match Tab.get? s.churns op with
    | none => s
    | some c =>
      if c.granules ≤ k || c.done.contains k || c.event.isSome || fenceHolds s c.uid op 3 then s
      else match granuleMsgs s op with
        | some (i, j, n, m) => takeGranule s op c i j n m
        | none =>
          let mc := granuleMc s c ((c.a + (c.piece k).1) % 2 ^ 64) (if c.kind ≤ 1 then .store else .load)
          match (c.needs k).filter fun g => (Tab.get? c.got g).isNone with
          | [] => finishChurn (churnStep s op k mc c) op
          | missing => getSecond s op mc c missing)

end Sys2Proof.Machine
end

