-- ==== Sys2Proof/Machine/Tiles.lean ====
section
/-! DEFINITION. Matrix arithmetic (R93 to R105): operand codes, products, the accumulator and the drain conversions, on numbers. -/

namespace Sys2Proof.Machine

/-! ### Operands (R96, R97, R178) -/

/-- Bits of a product's unit: a product is an integer times 2^-300, which holds every BF16 product exactly. -/
def prodUnit : Int := 300

/-- K of a shape (R177). -/
def shapeK (shape : Nat) : Nat := if shape = 0 then 64 else if shape = 1 then 32 else 128

/-- Bytes of a row of A or a column of B (R178). -/
def rowBytes (fmt : Nat) : Nat := if fmt = 1 then 96 else 64

/-- Element k of a row or column (R95, R178). -/
def elemCode (fmt : Nat) (bs : List Byte) (k : Nat) : Nat :=
  match fmt with
  | 1 => bitsAt (ofBytes ((bs.drop (12 * (k / 16))).take 12)) (6 * (k % 16)) 6
  | 3 => ofBytes ((bs.drop (2 * k)).take 2)
  | 4 => ofBytes ((bs.drop (2 * k)).take 2)
  | _ => (nth bs k 0).toNat

/-- Block length of a code (R96, R175): 0 for none. -/
def blockLen (code : Nat) : Nat := if code = 0 then 0 else 8 * 2 ^ code

/-- Scale bytes of a row or column. -/
def scaleCount (shape code : Nat) : Nat := if code = 0 then 0 else shapeK shape / blockLen code

/-- A scale byte as it is used, and whether it was clamped (R98). -/
def scaleOf (b : Byte) : Int × Bool :=
  let v := sgn 8 b.toNat
  if v < -32 then (-32, true) else if 31 < v then (31, true) else (v, false)

/-- The exponent of element k's block (R98). -/
def scaleAt (code : Nat) (scales : List Byte) (k : Nat) : Int :=
  if code = 0 then 0 else (scaleOf (nth scales (k / blockLen code) 0)).1

/-! ### Products (R99) -/

/-- m × 2^e in units of 2^-300. -/
def inUnits (neg : Bool) (m : Nat) (e : Int) : Int :=
  let v : Int := ((m * 2 ^ (prodUnit + e).toNat : Nat) : Int)
  if neg then -v else v

/-- A logarithmic product: `six` for LG6; none where an operand is NaR. -/
def lgProduct (six : Bool) (a b : Nat) (sc : Int) : Option Int :=
  let sg := lgSign six
  let ma := a % sg
  let mb := b % sg
  let na : Bool := sg ≤ a
  let nb : Bool := sg ≤ b
  if (na && ma == 0) || (nb && mb == 0) then none
  else if ma = 0 || mb = 0 then some 0
  else
    let e : Int := (ma : Int) + mb - (if six then 32 else 128)
    let d : Int := if six then 4 else 8
    let k := (e % d).toNat
    some (inUnits (na != nb) (lgT (if six then 2 * k else k)) (e / d - 16 + sc))

/-- A float product; none where an operand is an infinity or a NaN (R103). -/
def fpProduct (t : FpFmt) (a b : Nat) : Option Int :=
  match unpack t a, unpack t b with
  | .fin na ma ea, .fin nb mb eb => some (inUnits (na != nb) (ma * mb) (ea + eb))
  | _, _ => none

/-- product(i, j, k) of R99 from two codes and the sum of the scales; none where the element becomes NaR (R103). -/
def product (fmt a b : Nat) (sc : Int) : Option Int :=
  match fmt with
  | 0 =>
    let v := sgn 8 a * sgn 8 b
    some (inUnits (v < 0) v.natAbs sc)
  | 1 => lgProduct true a b sc
  | 2 => lgProduct false a b sc
  | 3 => fpProduct f16 a b
  | _ => fpProduct bf16 a b

/-! ### The accumulator (R100 to R103) -/

/-- NaR as an X224 pattern (R100). -/
def x224NaR : Nat := 2 ^ 223

/-- The greatest X of an X224 element (R100). -/
def x224Max : Int := 2 ^ 223 - 1

/-- One EXACT addition (R101): the element and ACCSAT. -/
def satAdd (x : Nat) (p : Int) : Nat × Bool :=
  let v := sgn 224 x + p / 2 ^ 188
  if x224Max < v then (wrap 224 x224Max, true)
  else if v < -x224Max then (wrap 224 (-x224Max), true)
  else (wrap 224 v, false)

/-- An EXACT element over its products in increasing k (R101, R103). -/
def exactElem (x : Nat) (ps : List (Option Int)) : Nat × Bool :=
  ps.foldl (fun (st : Nat × Bool) p =>
    if st.1 = x224NaR then st
    else match p with
      | none => (x224NaR, st.2)
      | some v => let r := satAdd st.1 v; (r.1, st.2 || r.2)) (x, false)

/-- Lists of eight. -/
def octets : Nat → List (Option Int) → List (List (Option Int))
  | 0, _ => []
  | n + 1, l => if l.isEmpty then [] else l.take 8 :: octets n (l.drop 8)

/-- One F32TREE step (R102): an octet's exact sum, rounded once, is added. -/
def treeAdd (x : Nat) (o : List (Option Int)) : Nat × Bool :=
  if x = f32.nanBits || o.any (·.isNone) then (f32.nanBits, false)
  else
    let v : Int := (o.filterMap id).foldl (· + ·) 0
    let r := roundFp f32 .rne (v < 0) v.natAbs (-prodUnit)
    let q := fpAdd f32 .rne x r.1
    let ovf (fl : Nat) : Bool := fl / fOF % 2 == 1
    if isNan (unpack f32 q.1) then (f32.nanBits, ovf r.2) else (q.1, ovf r.2 || ovf q.2)

/-- An F32TREE element over its products (R102, R103). -/
def treeElem (x : Nat) (ps : List (Option Int)) : Nat × Bool :=
  (octets 16 ps).foldl (fun (st : Nat × Bool) o => let r := treeAdd st.1 o; (r.1, st.2 || r.2)) (x, false)

/-- An element is NaR, in a tile of a mode (1 EXACT, 2 F32TREE, 0 unset). -/
def isNaR (mode x : Nat) : Bool := if mode = 2 then x == f32.nanBits else x == x224NaR

/-! ### Drains (R105) -/

/-- A finite value rounded toward zero to a float format: the largest finite for what lies above it, +0 for zero. -/
def truncTo (t : FpFmt) (neg : Bool) (m : Nat) (e : Int) : Nat :=
  let r := (roundFp t .rtz neg m e).1
  if r % t.signW = 0 then 0 else r

/-- A value truncated to a 32-bit integer, symmetric. -/
def truncI32 (neg : Bool) (m : Nat) (e : Int) : Nat :=
  let v : Nat := if 0 ≤ e then m * 2 ^ e.toNat else m / 2 ^ (-e).toNat
  let c : Int := min v (2 ^ 31 - 1)
  wrap 32 (if neg then -c else c)

/-- The LG8 code of the largest table-based magnitude not above the value's. -/
def truncLg8 (neg : Bool) (m : Nat) (e : Int) : Nat :=
  let k := ((List.range 128).filter fun k => k != 0 && cmpMag m e (lgMag false k) != .lt).foldl max 0
  if k = 0 then 0 else k + (if neg then 128 else 0)

/-- What an element is: NaR, or a sign, magnitude and exponent; an F32TREE infinity counts as a magnitude above all formats'. -/
def elemValue (mode x : Nat) : Option (Bool × Nat × Int) :=
  if isNaR mode x then none
  else if mode = 2 then
    match unpack f32 x with
    | .fin n m e => some (n, m, e)
    | .inf n => some (n, 1, 400)
    | .nan _ => none
  else
    let v := sgn 224 x
    some (v < 0, v.natAbs, -112)

/-- Bytes of an element in a drain format (R185). -/
def drainWidth (fmt : Nat) : Nat :=
  match fmt with
  | 0 => 4
  | 1 => 2
  | 2 => 2
  | 3 => 4
  | 4 => 1
  | _ => 28

/-- An element in a drain format: 0 F32, 1 F16, 2 BF16, 3 I32, 4 LG8, 5 X224. -/
def drainElem (fmt mode x : Nat) : Nat :=
  match fmt, elemValue mode x with
  | 0, none => f32.nanBits
  | 1, none => f16.nanBits
  | 2, none => bf16.nanBits
  | 3, none => 2 ^ 31
  | 4, none => 128
  | 0, some (n, m, e) => truncTo f32 n m e
  | 1, some (n, m, e) => truncTo f16 n m e
  | 2, some (n, m, e) => truncTo bf16 n m e
  | 3, some (n, m, e) => truncI32 n m e
  | 4, some (n, m, e) => truncLg8 n m e
  | _, _ => x

/-! ### Rows (R180) -/

/-- A row or column as fetched: its element bytes and its scale bytes. -/
structure MLine where
  bytes : List Byte
  scales : List Byte
  deriving DecidableEq, Repr

/-- The format word (R175): format, A and B block codes, mode. -/
structure MFmt where
  fmt : Nat
  ablk : Nat
  bblk : Nat
  tree : Bool
  shape : Nat
  deriving DecidableEq, Repr

/-- A scale byte of a line is clamped (R98). -/
def MLine.clamped (l : MLine) : Bool := l.scales.any fun b => (scaleOf b).2

/-- The products of element (i, j) in increasing k. -/
def products (m : MFmt) (a b : MLine) : List (Option Int) :=
  (List.range (shapeK m.shape)).map fun k =>
    product m.fmt (elemCode m.fmt a.bytes k) (elemCode m.fmt b.bytes k)
      (scaleAt m.ablk a.scales k + scaleAt m.bblk b.scales k)

/-- A row of 32 elements updated as one unit: the elements and ACCSAT (R180). -/
def rowUpdate (m : MFmt) (old : List Nat) (a : MLine) (bs : List MLine) : List Nat × Bool :=
  let r := (old.zip bs).map fun p => (if m.tree then treeElem else exactElem) p.1 (products m a p.2)
  (r.map (·.1), r.any (·.2))

end Sys2Proof.Machine
end

