-- ==== Sys2Proof/Machine/Matrix.lean ====
section
/-! DEFINITION. MTRX (R172 to R187): issue, tile renaming, turns, and the steps of the matrix engines. -/

namespace Sys2Proof.Machine

/-! ### Tiles -/

/-- Change a physical tile of a core. -/
def modTile (s : State) (core t : Nat) (h : Tile → Tile) : State :=
  s.modCore core fun c =>
    let y := h (Tab.getD c.tiles t Tile.empty)
    { c with tiles := if y = Tile.empty then Tab.del c.tiles t else Tab.set c.tiles t y }

/-- The physical tile that a name maps to. -/
def physTile (g : Group) (name : Nat) : Nat := nth g.tiles name 0

/-- A name is remapped to a cleared spare tile; the old tile returns to the pool, at once if no turn is pending on it (R173). -/
def remapTile (s : State) (x : Ctx) (name spare : Nat) : State :=
  let core := coreOf x.gid
  let s1 := modTile s core (physTile x.g name) fun t => if t.turns.isEmpty then Tile.empty else { t with owner := none }
  let s2 := modTile s1 core spare fun _ => { Tile.empty with owner := some x.g.uid }
  s2.modGroup x.gid fun g => { g with tiles := setNth g.tiles name spare }

/-- A turn on a tile has ended; a tile that no group holds returns to the pool cleared after its last one (R173, R174). -/
def endTurn (s : State) (core t job : Nat) : State :=
  modTile s core t fun y =>
    let r := y.turns.filter (· != job)
    if r.isEmpty && y.owner.isNone then Tile.empty else { y with turns := r }

/-! ### Issue -/

/-- Words of an LX instruction. -/
def lxLen (f : Lx) : Nat := 2 + tailLen f.lit f.sp

/-- Issue an MTRX instruction up to its operand checks (R75): operands, tile (R172), waits. -/
def runLx (s : State) (minor : Nat) (f : Lx) (u : Use) (k : Ctx → State → State) : Host.Outcome State Fault Refusal :=
  withIssuer s fun x =>
    if !lxOk minor f then takeTrap s x 0x01 0 0
    else if u.bad || 2 ≤ u.lits then takeTrap s x 0x02 0 0
    else if x.g.tiles.length ≤ f.tile.toNat then takeTrap s x 0x05 f.tile.toNat 2
    else match operandGate s x u with
      | .go => k x (useRegs s x u.rd)
      | g => stopAt s x g

/-- The instruction has issued. -/
def nextLx (s : State) (x : Ctx) (f : Lx) : State := advance s x (lxLen f) f.sp.isSome

/-- It parks while its flag is full or its group has sixteen matrix jobs (R31, R307). -/
def withJob (s : State) (x : Ctx) (fl : Option Nat) (k : State) : State :=
  match flagFull x.g fl with
  | some w => park s x w
  | none => if 16 ≤ jobCount s x.g.uid then park s x .jobs else k

/-- A job of the issuing group on a tile's name. -/
def blankJob (x : Ctx) (kind : Nat) (f : Lx) (fl : Option Nat) : MJob :=
  { kind := kind, gid := x.gid, uid := x.g.uid, part := x.g.part, cls := x.g.cls, launch := x.g.launch, team := x.g.team
    hmode := false, name := f.tile.toNat, tile := none, shape := f.shape.toNat, queue := 0, half := false, dest := 0, flag := fl
    fb := [], a := 0, b := 0, row := 0, begun := false, kept := [], keptMode := 0, event := none }

/-- Issue a job: it takes its place among the turns of the tile its name maps to (R174). -/
def addJob (s : State) (x : Ctx) (j : MJob) : State :=
  let id := s.nextOp
  match Tab.get? s.groups x.gid with
  | none => s
  | some g =>
    let t := physTile g j.name
    let s1 := modTile { s with nextOp := id + 1, mjobs := Tab.set s.mjobs id { j with tile := some t } } (coreOf x.gid) t
      fun y => { y with turns := y.turns ++ [id] }
    s1.modGroup x.gid fun g => countFlag g j.flag

/-- An S register as a signed stride (R175, R184, R185). -/
def strideOf (w : Nat) : Int := sgn 32 w

/-- A base address is in scratchpad form (R179). -/
def padForm (a : Nat) : Bool := bitsAt a 56 8 == 2

/-- A scratchpad-form base has its must-be-zero bits clear, and every byte lies in the scratchpad (R179): `n` lines of `len` bytes,
`stride` apart. -/
def padLinesOk (size a n len : Nat) (stride : Int) : Bool :=
  !padForm a || (bitsAt a 32 24 == 0 && (List.range n).all fun i =>
    let lo : Int := ((a % 2 ^ 32 : Nat) : Int) + (i : Int) * stride
    decide (0 ≤ lo) && decide (lo + len ≤ size))

/-- The scratchpad size of a group's team. -/
def padSize (s : State) (team : Nat) : Nat :=
  match Tab.get? s.teams team with
  | some t => t.size
  | none => 0

/-- The format block (R175, R176): none where it takes FMTRSV. -/
def formatOf (w shape : Nat) : Option MFmt :=
  let fmt := bitsAt w 0 4
  let ablk := bitsAt w 8 4
  let bblk := bitsAt w 12 4
  let mode := bitsAt w 16 4
  let shapeOk := match shape with
    | 0 => fmt == 0 || fmt == 2
    | 1 => fmt == 3 || fmt == 4
    | 2 => fmt == 1
    | _ => false
  if shapeOk && bitsAt w 4 4 == fmt && ablk ≤ 3 && bblk ≤ 3 && mode ≤ 1 && bitsAt w 20 12 == 0 &&
      !(fmt == 4 && mode == 0) && !((fmt == 3 || fmt == 4) && (ablk != 0 || bblk != 0)) then
    some { fmt := fmt, ablk := ablk, bblk := bblk, tree := mode == 1, shape := shape }
  else none

/-- The four bases of an MMA with their line strides and lengths (R178): A, B, and the scales that are read. -/
def mmaSpans (m : MFmt) (fb : List Nat) (a b : Nat) : List (Nat × Int × Nat) :=
  [(a, strideOf (nth fb 1 0), rowBytes m.fmt), (b, strideOf (nth fb 2 0), rowBytes m.fmt)] ++
  (if m.ablk = 0 then [] else
    [(nth fb 4 0 + nth fb 5 0 * 2 ^ 32, ((nth fb 3 0 % 2 ^ 16 : Nat) : Int), scaleCount m.shape m.ablk)]) ++
  (if m.bblk = 0 then [] else
    [(nth fb 6 0 + nth fb 7 0 * 2 ^ 32, ((nth fb 3 0 / 2 ^ 16 : Nat) : Int), scaleCount m.shape m.bblk)])

/-- The first misaligned value of a list and its position (R179, R184, R185, R218). -/
def firstOdd (vs : List Nat) : Option (Nat × Nat) :=
  ((vs.zip (List.range vs.length)).find? fun p => p.1 % 4 != 0)

/-- FB: an S register whose index is a multiple of 8, S0 to S376, with its eight registers (R70, R175). -/
def fbUse : Sel → Use
  | .s n => if n % 8 ≠ 0 || 376 < n then Use.illegal else { Use.none with rd := (regSpan n 8).map keyS }
  | _ => Use.illegal

/-- The words of a register block. -/
def blockWords (x : Ctx) (n : Nat) : Sel → List Nat
  | .s r => (regSpan r n).map fun k => (x.g.sreg k).toNat
  | _ => []

/-- A source value of an LX instruction. -/
def lxVal (s : State) (x : Ctx) (t : OpTy) (sel : Sel) : Nat := readSel s x none t sel 0

/-- A precise FMTRSV. -/
def fmtRsv (s : State) (x : Ctx) : State := takeTrap s x 0x08 0 0

/-- Scratchpad lines of a list of spans, as a job reads or writes them: offset and length. -/
def spanLines (spans : List (Nat × Int × Nat)) : List (Nat × Nat) :=
  spans.flatMap fun p => if padForm p.1 then
      (List.range 32).map fun (i : Nat) => ((((p.1 % 2 ^ 32 : Nat) : Int) + (i : Int) * p.2.1).toNat, p.2.2)
    else []

/-- Touch the windows that a job's lines lie in (R166, R248). -/
def touchSpans (s : State) (team gid uid : Nat) (spans : List (Nat × Int × Nat)) : State :=
  (spanLines spans).foldl (fun t l => (meetRegions t team l.1 l.2 gid uid t.nextOp none).1) s

/-- MMA (R175 to R180). -/
def execMma (f : Lx) (s : State) : Host.Outcome State Fault Refusal :=
  let sfb := sel10 f.x
  let sa := sel10 f.y
  let sb := sel10 f.z
  let u := Use.and (fbUse sfb) (Use.and (useOf (.spair false) sa) (useOf (.spair false) sb))
  runLx s 0 f u fun x s1 =>
    let fb := blockWords x 8 sfb
    let a := lxVal s x .n64 sa
    let b := lxVal s x .n64 sb
    let t := tileOf s (coreOf x.gid) (physTile x.g f.tile.toNat)
    match formatOf (nth fb 0 0) f.shape.toNat with
    | none => fmtRsv s x
    | some m =>
      let mode := if m.tree then 2 else 1
      if t.imode ≠ 0 && t.imode ≠ mode then fmtRsv s x
      else match firstOdd [a, b, nth fb 1 0, nth fb 2 0] with
        | some (v, k) => takeTrap s x 0x07 v k
        | none =>
          let spans := mmaSpans m fb a b
          if !(spans.all fun p => padLinesOk (padSize s x.g.team) p.1 32 p.2.2 p.2.1) then illOpnd s x
          else
            let fl := joinFlag x.f f.fs
            if !queueRoom s (coreOf x.gid) then park s x .engines
            else withJob s x fl (
              let j := { blankJob x 1 f fl with fb := fb, a := a, b := b }
              let s2 := modTile s1 (coreOf x.gid) (physTile x.g f.tile.toNat) fun t => { t with imode := mode }
              nextLx (touchSpans (addJob s2 x j) x.g.team x.gid x.g.uid spans) x f)

/-- MZERO (R173, R184). -/
def execMzero (f : Lx) (s : State) : Host.Outcome State Fault Refusal :=
  runLx s 1 f Use.none fun x s1 =>
    match spareTile s (coreOf x.gid) with
    | some p => nextLx (remapTile s1 x f.tile.toNat p) x f
    | none =>
      if tileReturning s (coreOf x.gid) then park s x (.back 4)
      else withJob s x none (
        let s2 := modTile s1 (coreOf x.gid) (physTile x.g f.tile.toNat) fun t => { t with imode := 0 }
        nextLx (addJob s2 x (blankJob x 7 f none)) x f)

/-- MLDACC (R173, R184): every row is 896 bytes. -/
def execMldacc (f : Lx) (s : State) : Host.Outcome State Fault Refusal :=
  runLx s 4 f (Use.and (useOf .sreg (sel10 f.x)) (useOf (.spair false) (sel10 f.y))) fun x s1 =>
    let stride := lxVal s x .n32 (sel10 f.x)
    let a := lxVal s x .n64 (sel10 f.y)
    match firstOdd [a, stride] with
    | some (v, k) => takeTrap s x 0x07 v k
    | none =>
      if !padLinesOk (padSize s x.g.team) a 32 896 (strideOf stride) then illOpnd s x
      else
        let fl := joinFlag x.f f.fs
        let j := { blankJob x 2 f fl with fb := [stride], a := a }
        let go (t : State) : State :=
          let t1 := match Tab.get? t.groups x.gid with
            | some g => modTile t (coreOf x.gid) (physTile g f.tile.toNat) fun y => { y with imode := 1 }
            | none => t
          nextLx (touchSpans (addJob t1 x j) x.g.team x.gid x.g.uid [(a, strideOf stride, 896)]) x f
        withJob s x fl (match spareTile s (coreOf x.gid) with
          | some p => go (remapTile s1 x f.tile.toNat p)
          | none => if tileReturning s (coreOf x.gid) then park s x (.back 4) else go s1)

/-- MDRAIN (R185). -/
def execMdrain (f : Lx) (s : State) : Host.Outcome State Fault Refusal :=
  runLx s 2 f (Use.and (useOf .sreg (sel10 f.x)) (useOf (.spair false) (sel10 f.y))) fun x s1 =>
    let fmt := f.shape.toNat
    let stride := lxVal s x .n32 (sel10 f.x)
    let a := lxVal s x .n64 (sel10 f.y)
    let t := tileOf s (coreOf x.gid) (physTile x.g f.tile.toNat)
    if 5 < fmt || (fmt == 5 && t.imode == 2) then fmtRsv s x
    else match firstOdd [a, stride] with
      | some (v, k) => takeTrap s x 0x07 v k
      | none =>
        let n := 32 * drainWidth fmt
        if !padLinesOk (padSize s x.g.team) a 32 n (strideOf stride) then illOpnd s x
        else
          let fl := joinFlag x.f f.fs
          withJob s x fl (
            let j := { blankJob x 4 f fl with fb := [stride], a := a }
            nextLx (touchSpans (addJob s1 x j) x.g.team x.gid x.g.uid [(a, strideOf stride, n)]) x f)

/-- The drain queue of an MDRAINQ (R70, R186). -/
def drainQueue : Sel → Option Nat
  | .q n => if n ≤ 3 then some n else none
  | _ => none

/-- MDRAINQ (R186): eight entries are reserved at issue. -/
def execMdrainq (f : Lx) (s : State) : Host.Outcome State Fault Refusal :=
  runLx s 3 f (if (drainQueue (sel10 f.y)).isSome then Use.none else Use.illegal) fun x s1 =>
    let q := (drainQueue (sel10 f.y)).getD 0
    if 4 < f.shape.toNat then fmtRsv s x
    else if queueFree x.g q < 8 then park s x (.entries q 8)
    else withJob s x none (
      let id := s1.nextOp
      let s2 := addJob s1 x { blankJob x 3 f none with queue := q, half := f.z == 1 }
      let s3 := s2.modGroup x.gid fun g => (List.range 8).foldl (fun g _ => reserveQueue g q id none) g
      nextLx s3 x f)

/-- MSTAT and MRPROG (R187): the destination becomes pending. MSTAT asks for an even S register, and NULL is none; MRPROG into NULL
executes and discards (R48): job destination 512. -/
def runStatus (s : State) (minor kind : Nat) (wide : Bool) (f : Lx) : Host.Outcome State Fault Refusal :=
  let d := sel10 f.x
  runLx s minor f (useOf (.dstS wide (!wide)) d) fun x s1 =>
    withJob s x none (
      let id := s1.nextOp
      let key := (destKey d).getD 512
      let s2 := addJob s1 x { blankJob x kind f none with dest := key }
      nextLx (s2.modGroup x.gid fun g => markPend g id (spanKeys (if wide then 2 else 1) d)) x f)

/-- MSTAT (R187). -/
def execMstat (f : Lx) (s : State) : Host.Outcome State Fault Refusal := runStatus s 5 5 true f
/-- MRPROG (R187). -/
def execMrprog (f : Lx) (s : State) : Host.Outcome State Fault Refusal := runStatus s 6 6 false f

/-! ### The engines -/

/-- The engine that takes the jobs of a physical tile (R181 leaves it open; log 40). -/
def engineOf (t : Nat) : Nat := t % 4

/-- The translator of a matrix engine: its micro-TLB (R293, R295); its reads of SO pages are its group's (R183, R239), and its class is
its group's (R288). -/
def matrixXer (j : MJob) (core t : Nat) : Xer :=
  { part := j.part, core := none, chip := some (chipOfCore core), eng := some (core * 4 + engineOf t), hmode := false
    uid := some j.uid, cls := some j.cls }

/-- The address of byte `k` of line `i` of a base (R179), and whether it is a scratchpad offset. -/
def lineByte (a : Nat) (stride : Int) (i k : Nat) : Bool × Nat :=
  if padForm a then (true, (((a % 2 ^ 32 : Nat) : Int) + i * stride + k).toNat)
  else (false, (((a : Int) + i * stride + k) % (2 ^ 64 : Nat)).toNat)

/-- The addresses of a line's bytes. -/
def lineBytesAt (a : Nat) (stride : Int) (i n : Nat) : List (Bool × Nat) := (List.range n).map (lineByte a stride i)

/-- Read bytes at addresses of both forms (R179, R183): the bytes, or the faulting pages; a poisoned scratchpad word stops the job
like a faulting page (R371). -/
def mixedRead (s : State) (x : Xer) (team : Nat) (as : List (Bool × Nat)) :
    State × Except (List (Nat × Nat × XFault)) (List Byte) :=
  let vas := (as.filter fun p => !p.1).map (·.2)
  let bad := (as.filter fun p => p.1 && padPoison s team p.2 1).map fun p => (p.2 / 4096, p.2, (⟨0x25, 0, 0⟩ : XFault))
  match bad with
  | b :: _ => (s, .error [b])
  | [] =>
    let r := vaGather s x .load false vas
    match r.2 with
    | .error e => (r.1, .error (badOf vas e))
    | .ok bs =>
      let w := as.foldl (fun (st : List Byte × List Byte) p =>
        if p.1 then (st.1 ++ padRead r.1 team p.2 1, st.2)
        else (st.1 ++ [nth st.2 0 0], st.2.drop 1)) ([], bs)
      (r.1, .ok w.1)

/-- Change a job. -/
def modJob (s : State) (id : Nat) (h : MJob → MJob) : State := { s with mjobs := Tab.upd s.mjobs id h }

/-- A job stops at a fault event (R182, R184, R185, R300). -/
def stopJob (s : State) (id core t kind : Nat) (j : MJob) (bad : List (Nat × Nat × XFault)) : State :=
  if bad.isEmpty then s
  else
    let r := agentFault s j.part (chipOfCore core) core (slotOf j.gid) (j.launch / 32) kind (engineOf t) 0 (.matrix core id) bad
    let s1 := modJob r.1 id fun j => { j with event := some r.2 }
    if kind = 6 then s1 else modTile s1 core t fun y => { y with stop := true }

/-- A job has completed: its flag drops, its turn ends, it is gone (R180, R184). -/
def completeJob (s : State) (id core t : Nat) (j : MJob) : State :=
  let s1 := dropFlag { s with mjobs := Tab.del s.mjobs id } j.uid j.flag
  endTurn s1 core t id

/-- What a job has met on a scratchpad line: the regions that it awaits, and those with a WBIND still open. -/
def MJob.met (j : MJob) (l : Nat × Nat) : Option (Nat × Nat) := (j.seen.find? fun e => e.1 == l).map (·.2)

/-- Scratchpad lines of a job that wait for chunks or for a WBIND (R165, R179, R270). -/
def jobWaits (s : State) (id : Nat) (j : MJob) (spans : List (Nat × Int × Nat)) : Bool :=
  (spanLines spans).any fun l => (meetRegions s j.team l.1 l.2 j.gid j.uid id (j.met l)).2 != (0, 0)

/-- Scratchpad spans of a job: of its reads or, for a drain, of its writes. -/
def jobSpans (j : MJob) : List (Nat × Int × Nat) :=
  match j.kind with
  | 1 => match formatOf (nth j.fb 0 0) j.shape with
    | some m => mmaSpans m j.fb j.a j.b
    | none => []
  | 2 => [(j.a, strideOf (nth j.fb 0 0), 896)]
  | 4 => [(j.a, strideOf (nth j.fb 0 0), 32 * drainWidth j.shape)]
  | _ => []

/-- The scratchpad lines of a job meet their windows (R165, R179, R248, R270). -/
def noticeJob (s : State) (id : Nat) (j : MJob) : State :=
  if (spanLines (jobSpans j)).all fun l => j.met l == some (0, 0) then s
  else
    let r := (spanLines (jobSpans j)).foldl (fun (st : State × List ((Nat × Nat) × Nat × Nat)) l =>
      let q := meetRegions st.1 j.team l.1 l.2 j.gid j.uid id (j.met l)
      (q.1, st.2 ++ [(l, q.2)])) (s, [])
    modJob r.1 id fun j => { j with seen := r.2 }

/-- The same for every job that lives in a core. -/
def noticeJobs (s : State) : State := (s.mjobs.filter fun e => e.2.tile.isSome).foldl (fun t e => noticeJob t e.1 e.2) s

/-- Row `i` of a tile's elements. -/
def tileRow (t : Tile) (i : Nat) : List Nat := (List.range 32).map fun j => Tab.getD t.elems (32 * i + j) 0

/-- Put row `i` of a tile. -/
def putRow (t : Tile) (i : Nat) (es : List Nat) : Tile :=
  { t with elems := (es.zip (List.range 32)).foldl (fun m p => if p.1 = 0 then Tab.del m (32 * i + p.2) else Tab.set m (32 * i + p.2) p.1) t.elems }

/-- A fetched line split into elements and scales. -/
def splitLine (n : Nat) (bs : List Byte) : MLine := { bytes := bs.take n, scales := bs.drop n }

/-- The addresses of line `i` of A or B with its scale bytes (R178): `which` 0 for A, 1 for B. -/
def mmaLine (m : MFmt) (j : MJob) (which i : Nat) : List (Bool × Nat) :=
  let n := rowBytes m.fmt
  let blk := if which = 0 then m.ablk else m.bblk
  let base := if which = 0 then j.a else j.b
  let sbase := nth j.fb (4 + 2 * which) 0 + nth j.fb (5 + 2 * which) 0 * 2 ^ 32
  let sstr : Int := ((bitsAt (nth j.fb 3 0) (16 * which) 16 : Nat) : Int)
  lineBytesAt base (strideOf (nth j.fb (1 + which) 0)) i n ++
    (if blk = 0 then [] else lineBytesAt sbase sstr i (scaleCount m.shape blk))

/-- Row `i` of an MMA takes effect as one unit (R180, R103, R104). -/
def applyRow (t : Tile) (m : MFmt) (i : Nat) (a : MLine) (bs : List MLine) : Tile :=
  let mode := if m.tree then 2 else 1
  let r := rowUpdate m (tileRow t i) a bs
  let t1 := putRow t i r.1
  { t1 with
    mode := mode, rows := i + 1, accsat := t.accsat || r.2, sclamp := t.sclamp || a.clamped || bs.any MLine.clamped
    narp := t.narp || r.1.any (isNaR mode) }

/-- The columns of B as fetched, line by line (R178, R180). -/
def colLines (m : MFmt) (bs : List Byte) : List MLine :=
  let n := rowBytes m.fmt + scaleCount m.shape m.bblk
  (List.range 32).map fun k => splitLine (rowBytes m.fmt) ((bs.drop (n * k)).take n)

/-- The first step of an MMA's turn, or of its resumption (R180, R182): B's columns are fetched. -/
def mmaFetch (s : State) (id core t : Nat) (j : MJob) (m : MFmt) : State :=
  let s0 := modTile (modJob s id fun j => { j with begun := true }) core t fun y => { y with
    mode := if m.tree then 2 else 1, rows := j.row }
  let r := mixedRead s0 (matrixXer j core t) j.team ((List.range 32).flatMap (mmaLine m j 1))
  match r.2 with
  | .error bad => stopJob r.1 id core t 5 j bad
  | .ok bs => modTile (modJob r.1 id fun j => { j with cols := some bs }) core t fun y => { y with stop := false }

/-- The next row of an MMA takes effect (R180); with the last one the job is complete. A fault on its operands stops the job there, and a
resumption fetches B anew (R182). -/
def mmaRow (s : State) (id core t : Nat) (j : MJob) (m : MFmt) (bs : List Byte) : State :=
  let r := mixedRead s (matrixXer j core t) j.team (mmaLine m j 0 j.row)
  match r.2 with
  | .error [] => r.1
  | .error bad => modJob (stopJob r.1 id core t 5 j bad) id fun j => { j with cols := none }
  | .ok a =>
    let s1 := modTile r.1 core t fun y => applyRow y m j.row (splitLine (rowBytes m.fmt) a) (colLines m bs)
    if j.row < 31 then modJob s1 id fun j => { j with row := j.row + 1 }
    else completeJob (modTile s1 core t fun y => { y with stop := false }) id core t j

/-- One step of an MMA's job (R180, R182): a save meets it between two rows. -/
def mmaJob (s : State) (id core t : Nat) (j : MJob) : State :=
  match formatOf (nth j.fb 0 0) j.shape with
  | none => s
  | some m =>
    if jobWaits s id j (mmaSpans m j.fb j.a j.b) then s
    else match j.cols with
      | none => mmaFetch s id core t j m
      | some bs => mmaRow s id core t j m bs

/-- The job whose turn is first on a tile (R174). -/
def frontJob (s : State) (core t kind : Nat) : Option (Nat × MJob) :=
  match (tileOf s core t).turns.head? with
  | none => none
  | some id => match Tab.get? s.mjobs id with
    | some j => if j.kind = kind && j.event.isNone && !fenceHolds s j.uid id 2 then some (id, j) else none
    | none => none

/-- MMA_JOB (R180). -/
def execMmaJob (core tile : Nat) (s : State) : Host.Outcome State Fault Refusal :=
  .next (match frontJob s core tile 1 with
    | some (id, j) => mmaJob s id core tile j
    | none => s)

/-- The next row of an MLDACC is loaded (R184). Once it is complete the status is as after MZERO, with rows 0, as R184's table says; R187 speaks
of the rows completed by the latest MMA or MLDACC (DESIGN CHOICE, log 99). -/
def ldaccRow (s : State) (id core t : Nat) (j : MJob) : State :=
  let r := mixedRead s (matrixXer j core t) j.team (lineBytesAt j.a (strideOf (nth j.fb 0 0)) j.row 896)
  match r.2 with
  | .error bad => stopJob r.1 id core t 7 j bad
  | .ok bs =>
    let es := (List.range 32).map fun k => ofBytes ((bs.drop (28 * k)).take 28)
    let s1 := modTile r.1 core t fun y =>
      { putRow y j.row es with rows := j.row + 1, narp := y.narp || es.any (isNaR 1), stop := false }
    if j.row < 31 then modJob s1 id fun j => { j with row := j.row + 1 }
    else completeJob (modTile s1 core t fun y => { y with rows := 0 }) id core t j

/-- MLDACC_JOB (R184): the first step of its turn clears the tile, every step loads one row. -/
def execMldaccJob (core tile : Nat) (s : State) : Host.Outcome State Fault Refusal :=
  .next (match frontJob s core tile 2 with
    | none => s
    | some (id, j) =>
      let spans := [(j.a, strideOf (nth j.fb 0 0), 896)]
      if jobWaits s id j spans then s
      else
        let s1 := if j.begun then s
          else modTile (modJob s id fun j => { j with begun := true }) core tile fun y =>
            { y with elems := [], mode := 1, accsat := false, sclamp := false, narp := false, rows := 0, stop := false }
        ldaccRow s1 id core tile j)

/-- MZERO_TURN (R173, R184). -/
def execMzeroTurn (core tile : Nat) (s : State) : Host.Outcome State Fault Refusal :=
  .next (match frontJob s core tile 7 with
    | none => s
    | some (id, _) =>
      endTurn (modTile { s with mjobs := Tab.del s.mjobs id } core tile fun y =>
        { y with elems := [], mode := 0, accsat := false, sclamp := false, narp := false, rows := 0, stop := false })
        core tile id)

/-! ### Drains -/

/-- The bytes of row `i` of a drain from its kept copy (R185). -/
def drainRow (j : MJob) (i : Nat) : List Byte :=
  (List.range 32).flatMap fun k => toBytes (drainWidth j.shape) (drainElem j.shape j.keptMode (Tab.getD j.kept (32 * i + k) 0))

/-- A registered barrier or lock with waiters would be written (R264): those bytes are dropped and counted. -/
def dropWaited (s : State) (j : MJob) (team : Option Nat) (cells : List (Nat × Byte)) : State × List (Nat × Byte) :=
  let keep := cells.filter fun c => (waitedObject s team c.1 1).isNone
  if keep.length = cells.length then (s, cells)
  else match cells.findSome? fun c => (waitedObject s team c.1 1).map fun e => (e, c.1) with
    | some (e, a) => (countDrop s e j.part (gidOf j.gid) a, keep)
    | none => (s, keep)

/-- Bytes at consecutive addresses joined into runs. -/
def runsOf : List (Nat × Byte) → List (Nat × List Byte)
  | [] => []
  | (a, b) :: r => match runsOf r with
    | (c, bs) :: q => if c = a + 1 then (a, b :: bs) :: q else (a, [b]) :: (c, bs) :: q
    | [] => [(a, [b])]

/-- The combine buffer has room for these lines of a drain (R153). -/
def drainRoom (s : State) (core : Nat) (lines : List Nat) : Bool :=
  let cb := (s.core core).cb
  decide (cb.length + lines.length ≤ 64) || decide (lines.length ≤ (cb.filter (canFree s core)).length)

/-- Write row `i` of a drain, once the combine buffer has room: through the combine buffer on path P2, or into the scratchpad (R185). -/
def writeDrainRow (s : State) (id core t i : Nat) (j : MJob) : State × Bool :=
  let bs := drainRow j i
  let as := lineBytesAt j.a (strideOf (nth j.fb 0 0)) i bs.length
  if padForm j.a then
    let r := dropWaited s j (some j.team) ((as.map (·.2)).zip bs)
    ((runsOf r.2).foldl (fun u c => freeDeclared (padWrite u j.team c.1 c.2) (some j.team) c.1 c.2.length) r.1, true)
  else
    let x := matrixXer j core t
    let vas := as.map (·.2)
    let r := translatePages s x .store false ((vas.map (· / 4096)).eraseDups)
    if !r.2.2.isEmpty then (stopJob r.1 id core t 6 j (badOf vas (faultsOf r.2.2)), false)
    else
      let cells := (vas.zip bs).map fun c => (placed r.2.1 c.1, c.2)
      let d := dropWaited r.1 j none cells
      let lines := (d.2.map fun c => lineOf c.1).eraseDups
      let kindOf (l : Nat) : Nat := match (vas.zip cells).find? fun c => lineOf c.2.1 == l with
        | some c => kindAt r.2.1 c.1
        | none => 0
      if !drainRoom d.1 core lines then (r.1, false)
      else (lines.foldl (fun (u : State) (l : Nat) =>
        let bytes : Tab Byte := (d.2.filter fun c => lineOf c.1 == l).foldl (fun m c => Tab.set m (c.1 % 128) c.2) []
        cbInsert u core l bytes (if kindOf l == 1 then some j.uid else none) (kindOf l == 2) (some id) [] j.part j.cls j.gid [j.uid]) d.1, true)

/-- Lines with bytes of a drain on whose flag a clause waits are posted at once (R153). -/
def postDrained (s : State) (id core : Nat) (j : MJob) : State :=
  if flagAwaited s j.uid j.flag then postWanted 64 (wantEntries s core fun e => e.ops.contains id) core else s

/-- The rows of a drain from `i` on, with fuel for 32. -/
def drainRows : Nat → State → Nat → Nat → Nat → Nat → State
  | 0, s, _, _, _, _ => s
  | n + 1, s, id, core, t, i =>
    if 32 ≤ i then s
    else match Tab.get? s.mjobs id with
      | none => s
      | some j =>
        match writeDrainRow s id core t i j with
        | (u, true) => drainRows n (modJob (postDrained u id core j) id fun j => { j with row := i + 1 }) id core t (i + 1)
        | (u, false) => u

/-- A drain whose rows are all written completes when every byte has been acknowledged (R150, R185). -/
def finishDrain (s : State) (id : Nat) : State :=
  match Tab.get? s.mjobs id, Tab.get? s.ops id with
  | some j, some o =>
    if j.kind = 4 && j.begun && 32 ≤ j.row && o.waits = 0 then
      dropFlag { s with mjobs := Tab.del s.mjobs id, ops := Tab.del s.ops id } j.uid j.flag
    else s
  | _, _ => s

/-- The operation under which a drain's stores are counted; its flag is that of the job, which counts it down (R153, R185). -/
def drainOp (s : State) (j : MJob) : Op :=
  { kind := .drain, gid := j.gid, uid := j.uid, frag := 0, part := j.part, cls := j.cls, hmode := false, flag := j.flag, dest := none
    lanes := 0, uni := false, size := 0, sx := false, nt := false, order := 0, scope := 0, uo := false, src := [], dst := []
    acc := [], aop := 0, ty := 0, data := [], cmp := [], tags := [], stage := .active, pages := [], walk := none, found := []
    bad := [], waits := 0, born := s.clock, pc := 0, iw := [], launch := j.launch, pts := 0 }

/-- A drain that has taken its turn goes on with its stores (R185). -/
def goDrain (s : State) (id core t : Nat) (j : MJob) : State :=
  if jobWaits s id j (jobSpans j) then s
  else finishDrain (drainRows 33 s id core t j.row) id

/-- A drain takes its turn: it reads the whole tile at once, and its turn has ended (R174, R185). -/
def takeDrain (s : State) (id core t : Nat) : State :=
  let y := tileOf s core t
  let s1 := endTurn (modJob s id fun j => { j with begun := true, kept := y.elems, keptMode := y.mode }) core t id
  match Tab.get? s1.mjobs id with
  | some j => { s1 with ops := Tab.set s1.ops id (drainOp s1 j) }
  | none => s1

/-- The drain of a tile that has taken its turn and has rows to write. -/
def begunDrain (s : State) (core t : Nat) : Option (Nat × MJob) :=
  s.mjobs.find? fun e => e.2.kind == 4 && e.2.begun && e.2.event.isNone && decide (e.2.row < 32) && e.2.tile == some t &&
    coreOf e.2.gid == core

/-- The drain of a tile that has taken its turn goes on; its rows are written before those of a later one. -/
def goBegun (s : State) (core t : Nat) : State :=
  match begunDrain s core t with
  | some (id, j) => goDrain s id core t j
  | none => s

/-- MDRAIN_JOB (R185): a drain at the head of the tile's turns takes its own, whatever stores of an earlier one still wait (R174). -/
def execMdrainJob (core tile : Nat) (s : State) : Host.Outcome State Fault Refusal :=
  let s1 := goBegun s core tile
  .next (match frontJob s1 core tile 4 with
    | none => s1
    | some (id, _) => goBegun (takeDrain s1 id core tile) core tile)

/-- The lanes of entry `e` of an MDRAINQ (R186). -/
def queueLanes (t : Tile) (fmt : Nat) (half : Bool) (e : Nat) : List Word :=
  (List.range 64).map fun l =>
    let row := (if half then 16 else 0) + 2 * e + l / 32
    BitVec.ofNat 32 (drainElem fmt t.mode (Tab.getD t.elems (32 * row + l % 32) 0))

/-- MDRAINQ_TURN (R186). -/
def execMdrainqTurn (core tile : Nat) (s : State) : Host.Outcome State Fault Refusal :=
  .next (match frontJob s core tile 3 with
    | none => s
    | some (id, j) =>
      let t := tileOf s core tile
      let s1 := (List.range 8).foldl (fun u e => setResult u j.uid j.queue id (queueLanes t j.shape j.half e))
        { s with mjobs := Tab.del s.mjobs id }
      endTurn s1 core tile id)

/-! ### Status -/

/-- MSTAT's value (R187). -/
def statusWord (t : Tile) : Nat :=
  bitOf t.accsat + 2 * bitOf t.sclamp + 4 * bitOf t.narp + (if t.mode = 0 then 0 else 8) + (if t.mode = 2 then 16 else 0) +
    32 * bitOf t.stop + 64 * (t.rows % 64)

/-- MRPROG's value (R187). -/
def progressWord (t : Tile) : Nat := t.rows % 64 + 64 * bitOf t.stop

/-- The status job of a tile whose turn can end: every earlier MMA, MLDACC and MZERO has completed or is stopped (R174). -/
def statusJob (s : State) (core t : Nat) : Option (Nat × MJob) :=
  let rec go : List Nat → Option (Nat × MJob)
    | [] => none
    | id :: r => match Tab.get? s.mjobs id with
      | none => go r
      | some j =>
        if j.kind = 5 || j.kind = 6 then some (id, j)
        else if (j.kind = 1 || j.kind = 2 || j.kind = 7) && j.event.isNone then none
        else go r
  go (tileOf s core t).turns

/-- TILE_STATUS_TURN (R187). -/
def execTileStatusTurn (core tile : Nat) (s : State) : Host.Outcome State Fault Refusal :=
  .next (match statusJob s core tile with
    | none => s
    | some (id, j) =>
      let t := tileOf s core tile
      let s1 := endTurn { s with mjobs := Tab.del s.mjobs id } core tile id
      match groupBy s1 j.uid with
      | none => s1
      | some (gid, _) =>
        let v := if j.kind = 5 then statusWord t else progressWord t
        if 512 ≤ j.dest then s1
        else
          let s2 := writeKey s1 gid j.dest 1 fun _ => v
          let s3 := if j.kind = 5 then writeKey s2 gid (j.dest + 1) 1 fun _ => v / 2 ^ 32 else s2
          clearPend s3 gid id)

end Sys2Proof.Machine
end

