-- ==== Sys2Proof/Machine/Resume.lean ====
section
/-! DEFINITION. The fault queue's head, resumes and TLB invalidations (R298, R302, R303). -/

namespace Sys2Proof.Machine

/-! ### Resuming -/

/-- An operation retries from translation (R149), also where its group has retired meanwhile; one of a group that is saved or
being saved at its restore (R314). -/
def retryOp (s : State) (id : Nat) : State :=
  match Tab.get? s.ops id with
  | none => s
  | some o =>
    let live := match groupBy s o.uid with
      | some (_, g) => g.state != .saved && g.grace.isNone
      | none => true
    if !live then s
    else if o.kind.pads then s.modOp id fun o => { o with
      stage := .ready, acc := o.acc.map fun a => if o.kind == .sload && a.team.isSome then { a with done := false } else a }
    else beginTranslate s id

/-- The agent of an event retries or goes on (R303). Fragments parked on the event wake by its absence. -/
def retryAgent (s : State) (a : Agent) : State :=
  match a with
  | .op id => retryOp s id
  | .fetch _ _ => s
  | .launchBlock _ _ => s
  | .access _ _ => s
  | .debug gid id => match (Tab.get? s.groups gid).bind fun g => g.namedFrag id with
    | some (fi, f) => finishWait s gid fi f.scc
    | none => s
  | .object _ _ => s
  | .matrix core job =>
    match Tab.get? s.mjobs job with
    | none => s
    | some j =>
      let s1 := modJob s job fun j => { j with event := none }
      match j.tile with
      | some t => if j.kind = 4 then s1 else modTile s1 core t fun y => { y with stop := false }
      | none => s1
  | .window team b =>
    match Tab.get? s.teams team with
    | none => s
    | some t => putRegion s team b { t.region b with event := none, stopped := [], flt := false }
  | .churn job => { s with churns := Tab.upd s.churns job fun c => { c with event := none } }
  | .coll job => { s with colls := Tab.upd s.colls job fun c => { c with event := none } }

/-- Resume one SEQ (R303): the state and the result of R212. -/
def resumeSeq (s : State) (part seq : Nat) : State × Nat :=
  let r := resumeResult s part seq
  if r ≠ 0 then (s, r)
  else
    let s1 := markResumed s part seq
    match s1.events.find? fun e => e.2.part == part && (Tab.get? e.2.seqs seq).isSome with
    | none => (s1, 0)
    | some e =>
      if e.2.allResumed then (retryAgent (endEvent s1 e.1 e.2) e.2.agent, 0) else (s1, 0)

/-- FE_FRESUME (R303): the result goes to FE_FRSTAT. -/
def execFeFresume (fe : Nat) (v : DWord) (s : State) : Host.Outcome State Fault Refusal :=
  let r := resumeSeq s fe v.toNat
  .next (r.1.modFe fe fun f => { f with frstat := r.2 })

/-- FE_FQHEAD (R302): a value that would pass FE_FQTAIL is ignored; entries that waited are written. -/
def execFeFqhead (fe : Nat) (v : DWord) (s : State) : Host.Outcome State Fault Refusal :=
  let f := s.fe fe
  let n := v.toNat % 8192
  .next (
    if (f.fqtail + 8192 - f.fqhead) % 8192 < (n + 8192 - f.fqhead) % 8192 then s
    else drainFaults f.fqWaiting.length (s.modFe fe fun f => { f with fqhead := n }) fe)

/-! ### Invalidation -/

/-- The virtual addresses that an invalidation covers (R298): from, count; all of them for extent 2. -/
def invRange (va extent : Nat) : Option (Nat × Nat) :=
  match extent with
  | 0 => some (va / 2 ^ 12 * 2 ^ 12, 2 ^ 12)
  | 1 => some (va / 2 ^ 21 * 2 ^ 21, 2 ^ 21)
  | _ => none

/-- A range of virtual addresses meets the extent; bits [63:57] repeat bit 56 (R290). -/
def invHits (r : Option (Nat × Nat)) (lo n : Nat) : Bool :=
  match r with
  | none => true
  | some (a, m) => decide (lo % 2 ^ 57 < a + m) && decide (a < lo % 2 ^ 57 + n)

/-- Leaves that the extent does not cover. -/
def keepLeaves (part : Nat) (r : Option (Nat × Nat)) (ls : List Leaf) : List Leaf :=
  ls.filter fun l => !(l.part == part && invHits r l.vbase (2 ^ l.bits))

/-- Walk-cache entries that the extent does not cover (R298, R342). -/
def keepWalks (part : Nat) (r : Option (Nat × Nat)) (ws : List (Nat × Nat × Nat × Nat)) : List (Nat × Nat × Nat × Nat) :=
  ws.filter fun w => !(w.1 == part && (match r with
    | none => true
    | some (a, _) => w.2.2.1 == walkTag a w.2.1))

/-- Drop every covered entry of every structure of R295. -/
def dropCovered (s : State) (part : Nat) (r : Option (Nat × Nat)) : State :=
  { s with
    cores := s.cores.map fun (c : Nat × Core) => (c.1, { c.2 with tlb := keepLeaves part r c.2.tlb })
    chips := s.chips.map fun (c : Nat × Chip) =>
      (c.1, { c.2 with tlb := keepLeaves part r c.2.tlb, walks := keepWalks part r c.2.walks })
    etlbs := s.etlbs.map fun (e : Nat × List Leaf) => (e.1, keepLeaves part r e.2) }

/-- Rows that a drain has written lie in the extent. -/
def drainCovered (s : State) (r : Option (Nat × Nat)) (id : Nat) : Bool :=
  match Tab.get? s.mjobs id with
  | some j => !padForm j.a && (List.range j.row).any fun i =>
      (lineBytesAt j.a (strideOf (nth j.fb 0 0)) i (32 * drainWidth j.shape)).any fun b => invHits r b.2 1
  | none => false

/-- An operation was or is being translated through an entry that the extent covers (R298). One stopped at a fault translates anew. -/
def opCovered (s : State) (r : Option (Nat × Nat)) (id : Nat) (o : Op) : Bool :=
  match o.kind, o.stage with
  | .drain, _ => drainCovered s r id
  | _, .faulted _ => false
  | _, .translate => (o.found.any fun p => invHits r (p.1 * 4096) 4096) || o.walk.any fun w => invHits r (w.va / 4096 * 4096) 4096
  | _, _ => o.acc.any fun a => invHits r a.va a.n

/-- What an invalidation waits for (R298): the operations of the partition that used a covered entry, and its Churn and collective jobs and
its cycle reports with writes not acknowledged. -/
def coveredOps (s : State) (part : Nat) (r : Option (Nat × Nat)) : List Nat :=
  let jobs := ((s.churns.filter fun c => c.2.part == part).map (·.1)) ++ ((s.colls.filter fun c => c.2.part == part).map (·.1)) ++
    s.chips.filterMap fun c => c.2.scan.bind fun z => if z.va != 0 && invHits r z.va 512 then some z.job else none
  (s.ops.filter fun e => e.2.part == part && !e.2.kind.pads && opCovered s r e.1 e.2).map (·.1) ++
    jobs.filter (jobProbed s)

/-- An operation has performed what it translated before an invalidation (R298): it is gone, or has stopped at a fault and translates anew, or
is a drain all of whose posted bytes are acknowledged. -/
def opSettled (s : State) (id : Nat) : Bool :=
  match Tab.get? s.ops id with
  | none => true
  | some o => match o.kind with
    | .drain => o.waits == 0
    | _ => o.isFaulted

/-- Everything that an invalidation waits for is performed (R298). -/
def invDone (s : State) (ids : List Nat) : Bool :=
  ids.all fun id => opSettled s id && s.hwaits.all fun w => w.job != some id

/-- FE_TLBINV (R298). -/
def execFeTlbinv (fe : Nat) (v : DWord) (s : State) : Host.Outcome State Fault Refusal :=
  let f := s.fe fe
  let extent := v.toNat % 4
  .next (
    if f.tlbinvBusy || extent = 3 then s
    else
      let a := bitsAt f.tlbinvVa 12 45 * 2 ^ 12
      let r := invRange a extent
      (dropCovered s fe r).modFe fe fun f => { f with
        tlbinvBusy := true, tlbinvAt := a, tlbinvExt := extent, tlbinvOps := coveredOps s fe r })

/-- TLBINV_COMPLETE (R298): every access translated through a dropped entry has been performed; what a walk under way loaded
meanwhile is dropped too. -/
def execTlbinvComplete (fe : Nat) (s : State) : Host.Outcome State Fault Refusal :=
  let f := s.fe fe
  .next (
    if f.tlbinvBusy && invDone s f.tlbinvOps then
      (dropCovered s fe (invRange f.tlbinvAt f.tlbinvExt)).modFe fe fun f =>
        { f with tlbinvBusy := false, tlbinvOps := [] }
    else s)

end Sys2Proof.Machine
end

