-- ==== Sys2Proof/Machine/Notes.lean ====
section
/-! DEFINITION. NOTE, the register notes (R194 to R199, R265 to R267): passes, arming, sending, arrival and answer. -/

namespace Sys2Proof.Machine

/-! ### Register ranges and passes -/

/-- The first register of a range, by key: a V or S selector that is not read (R194). -/
def rangeBase : Sel → Option Nat
  | .v n => some (keyV n)
  | .s n => some (keyS n)
  | _ => none

/-- What the base of a range asks: V registers are tested against VCOUNT (R59). -/
def baseUse : Sel → Use
  | .v n => { Use.none with vs := [n] }
  | .s _ => Use.none
  | _ => Use.illegal

/-- The first register of a range that is out of bounds: its number and its file (R194, R218). -/
def rangeBad (g : Group) (base count : Nat) : Option (Nat × Nat) :=
  if base < 128 then (if base + count ≤ g.vcount then none else some (max base g.vcount, 0))
  else if base + count ≤ 512 then none else some (max (base - 128) 384, 1)

/-- The trap of a range of `n` registers (R194, R218): ILLOPND for the count or `bad`, REGIDX for a register out of bounds. -/
def rangeTrap (g : Group) (base n most : Nat) (bad : Bool) : Option Gate :=
  if n = 0 || most < n || bad then some (.trap 0x02 0 0)
  else (rangeBad g base n).map fun r => .trap 0x05 r.1 r.2

/-- Operands of CAPMINT, EXPECT and NPOLL beside the base: the count, and D. -/
def rangeOps (d : Opnds) : Opnds := d ++ [(.b, .uni .n32)]

/-- Issue an instruction that names a register range of at most `most` registers (R194). -/
def runRange (s : State) (minor most : Nat) (f : Lg) (d : Opnds) (bad : Bool) (k : Ctx → State → Nat → Nat → State) :
    Host.Outcome State Fault Refusal :=
  let os := rangeOps d
  withIssuer s fun x =>
    if !lgOk 0x20 minor f then takeTrap s x 0x01 0 0
    else
      let base := (rangeBase (sel10 f.a)).getD 0
      let n := uval s x f os .b
      match computedGate s x (Use.and (baseUse (sel10 f.a)) (usesOf (lgView f) os)) (useOf (.uni .n32) (lgView f).b)
          (rangeTrap x.g base n most bad) with
      | .go => k x (readSources s x (lgView f) os) base n
      | g => stopAt s x g

/-- Fields of a pass (R195). -/
structure Pass where
  tag : Nat
  rv : Bool
  ru : Bool
  count : Nat
  base : Nat
  gen : Nat
  slot : Nat
  core : Nat
  deriving DecidableEq, Repr

/-- A pass's fields. -/
def passOf (v : Nat) : Pass :=
  { tag := bitsAt v 0 19, rv := bitAt v 19, ru := bitAt v 20, count := bitsAt v 21 7 + 1, base := bitsAt v 28 9
    gen := bitsAt v 37 12, slot := bitsAt v 49 7, core := bitsAt v 56 8 }

/-- The TAG of a pass's bits [63:19] for a launch of a partition (R195); its value is free (log 10). -/
def tagFor (s : State) (launch part high : Nat) : Nat :=
  Config.tagHash high launch (Config.partitionKey (s.fe part).key) % 2 ^ 19

/-- A slot's GEN (R195; at reset: log 5). -/
def genOf (s : State) (gid : Nat) : Nat := Tab.getD s.gens gid 0

/-- The GEN of a slot advances (R195). -/
def advanceGen (s : State) (gid : Nat) : State := { s with gens := Tab.set s.gens gid ((genOf s gid + 1) % 4096) }

/-- The pass that a group mints (R195). -/
def mintPass (s : State) (x : Ctx) (rights base count : Nat) : Nat :=
  let high := rights % 4 + (count - 1) * 4 + base * 2 ^ 9 + genOf s x.gid * 2 ^ 18 + slotOf x.gid * 2 ^ 30 +
    coreOf x.gid * 2 ^ 37
  tagFor s x.g.launch x.g.part high + high * 2 ^ 19

/-- CAPMINT (R194, R195). -/
def execCapmint (f : Lg) (s : State) : Host.Outcome State Fault Refusal :=
  let rights := f.mod.toNat % 4
  let bad := rights = 0 || (bitAt rights 0 && 128 ≤ (rangeBase (sel10 f.a)).getD 0)
  runRange s 0 128 f [(.d, .dstS true false)] bad fun x s1 base n =>
    nextLg (writeUni s1 x (sel10 f.d) true (mintPass s x rights base n)) x f

/-- CAPREV (R195). -/
def execCaprev (f : Lg) (s : State) : Host.Outcome State Fault Refusal :=
  runLg s 0x20 1 anyone f [] fun x s1 => nextLg (advanceGen s1 x.gid) x f

/-- EXPECT (R196): a register of the range that is pending for a load parks the fragment; then all are EMPTY. -/
def execExpect (f : Lg) (s : State) : Host.Outcome State Fault Refusal :=
  runRange s 4 128 f [] false fun x s1 base n =>
    let ks := (List.range n).map (base + ·)
    let p := ks.filter fun k => (Tab.get? x.g.pend k).isSome
    if !p.isEmpty then park s x (.pend p)
    else nextLg (s1.modGroup x.gid fun g => { g with note := ks.foldl (fun t k => Tab.set t k .empty) g.note }) x f

/-- The NPOLL word: a bit for each register of the range that is not EMPTY (R196). -/
def pollWord (g : Group) (base n : Nat) : Nat :=
  (List.range n).foldl (fun acc i => if Tab.get? g.note (base + i) == some .empty then acc else acc + 2 ^ i) 0

/-- NPOLL (R196). -/
def execNpoll (f : Lg) (s : State) : Host.Outcome State Fault Refusal :=
  runRange s 5 32 f [(.d, .dstS false true)] false fun x s1 base n =>
    let w := pollWord x.g base n
    nextLg (setScc (writeUni s1 x (sel10 f.d) false w) x (w == 2 ^ n - 1)) x f

/-! ### Sending -/

/-- The partition owns a core (R278). -/
def Fe.owns (f : Fe) (core : Nat) : Bool := decide (bitsAt f.cores 0 7 ≤ core) && decide (core ≤ bitsAt f.cores 8 7)

/-- The core a note is sent to. -/
def Note.core (n : Note) : Nat := (passOf n.pass.toNat).core

/-- The first register of a note's target, by key (R197). -/
def Note.target (n : Note) : Nat := (passOf n.pass.toNat).base + n.index

/-- The data operand: a V register of NOTE, a uniform value of NOTEU, pairs with W64 (R194). -/
def noteDataKind (uniform w64 : Bool) : Kind :=
  if uniform then (if w64 then .spair false else .uni .n32) else .src (if w64 then .n64 else .n32)

/-- The operands of NOTE and NOTEU (R194): pass, index, data. A NOTE with EXEC zero does not read the pass (R189). -/
def noteOps (uniform w64 empty : Bool) : Opnds :=
  (if empty then [] else [(.a, .spair false)]) ++ [(.b, .uni .n32), (.c, noteDataKind uniform w64)]

/-- What the operands of NOTE and NOTEU ask: the data of NOTE is a V register (R194). -/
def noteUse (uniform w64 empty : Bool) (i : AluI) : Use :=
  let u := usesOf i (noteOps uniform w64 empty)
  let v := match uniform, i.c with
    | false, .v _ => u
    | true, _ => u
    | false, _ => { u with bad := true }
  if empty then { v with bad := v.bad || (useOf (.spair false) i.a).bad } else v

/-- The pass does not allow the note: a precise ILLOPND (R197). -/
def passRefuses (p : Pass) (uniform w64 : Bool) (index : Nat) : Bool :=
  p.count ≤ index || (w64 && (p.count ≤ index + 1 || (p.base + index) % 2 == 1)) || (if uniform then !p.ru else !p.rv)

/-- An earlier note of the group to the same core is still held (R197). -/
def heldBefore (s : State) (uid id core : Nat) : Bool :=
  s.notes.any fun e => e.1 < id && e.2.uid == uid && e.2.stage == 0 && e.2.core == core

/-- Why a note is not sent yet: its own release at scope dev, one before it, or a fence whose "to" path is P5 (R163, R197). -/
def noteHeld (s : State) (id : Nat) (n : Note) : Bool :=
  (n.rel && relHolds s (coreOf n.gid) n.uid id 3) || heldBefore s n.uid id n.core || fenceHolds s n.uid id 5

/-- Change a note. -/
def State.modNote (s : State) (id : Nat) (h : Note → Note) : State := { s with notes := Tab.upd s.notes id h }

/-- Put a message on the pair between two compute chiplets; one to the chiplet itself crosses no Separator. -/
def sendCC (s : State) (i j : Nat) (m : Msg) : State :=
  if i = j then s.modPair i j fun p => { p with inbox := p.inbox ++ [(s.clock, m)] } else send s (portCC i) (portCC j) m

/-- Post a note on path P5 (R197). -/
def postNote (s : State) (id : Nat) (n : Note) : State :=
  sendCC (s.modNote id fun n => { n with stage := 1 }) (chipOfCore (coreOf n.gid)) (chipOfCore n.core) (.note id)

/-- Send the notes held, in the order of their issue, as far as they may go; what a release waits for is posted (R197). -/
def sendNotes (s : State) : State :=
  (s.notes.filter fun e => e.2.stage == 0).foldl (fun t e =>
    match groupBy t e.2.uid with
    | none => t
    | some (_, g) =>
      if g.state == .saved then t
      else if noteHeld t e.1 e.2 then (if e.2.rel then wantRelease t (coreOf e.2.gid) e.2.uid false else t)
      else postNote t e.1 e.2) s

/-- Issue NOTE or NOTEU (R189, R194, R197). -/
def runNote (s : State) (minor : Nat) (uniform : Bool) (f : Lg) : Host.Outcome State Fault Refusal :=
  let w64 := bitAt f.mod.toNat 0
  let i := lgView f
  withIssuer s fun x =>
    if !lgOk 0x20 minor f then takeTrap s x 0x01 0 0
    else
      let empty := !uniform && x.f.exec == 0
      let os := noteOps uniform w64 empty
      match operandGate s x (noteUse uniform w64 empty i) with
      | .go =>
        if empty then nextLg (readSources s x i os) x f
        else
          let pass := uval s x f os .a
          let index := uval s x f os .b
          let p := passOf pass
          let fl := joinFlag x.f f.fs
          if passRefuses p uniform w64 index then illOpnd s x
          else if !(s.fe x.g.part).owns p.core then
            takeTrap s x 0x0F pass (fl.getD 15 + 5 * 2 ^ 8)
          else match flagFull x.g fl with
            | some w => park s x w
            | none =>
              let v (l : Nat) : DWord := BitVec.ofNat 64 (opVal s x i os .c l)
              let n : Note :=
                { gid := x.gid, uid := x.g.uid, part := x.g.part, flag := fl, pass := BitVec.ofNat 64 pass, index := index
                  w64 := w64, rel := bitAt f.mod.toNat 1, uniform := uniform, lanes := x.f.exec
                  vals := if uniform then [v 0] else (List.range 64).map v, stage := 0
                  pc := x.f.pc0, iw := formatWords x.f }
              if noteHeld s s.nextOp n && 16 ≤ replayable s x.g.uid then park s x (.back 5)
              else
                let s2 := (readSources s x i os).modGroup x.gid fun g => countFlag g fl
                nextLg { s2 with nextOp := s.nextOp + 1, notes := Tab.set s2.notes s.nextOp n } x f
      | g => stopAt s x g

/-- NOTE (R197). -/
def execNote (f : Lg) (s : State) : Host.Outcome State Fault Refusal := runNote s 2 false f
/-- NOTEU (R197). -/
def execNoteu (f : Lg) (s : State) : Host.Outcome State Fault Refusal := runNote s 3 true f

/-! ### Arrival -/

/-- The registers a note fills, by key (R197). -/
def Note.regs (n : Note) : List Nat := if n.w64 then [n.target, n.target + 1] else [n.target]

/-- Why the registers do not accept a note: 2 NOTARMED, 3 FULL (R196, R198); 0 where they do. -/
def noteState (g : Group) (ks : List Nat) : Nat :=
  match ks.findSome? fun k => match Tab.get? g.note k with
    | some .empty => none
    | some .full => some 3
    | _ => some 2 with
  | some c => c
  | none => 0

/-- The word of a note for its k-th register and a lane. -/
def Note.word (n : Note) (k l : Nat) : Nat := (nth n.vals (if n.uniform then 0 else l) 0).toNat / 2 ^ (32 * k)

/-- Fill one register: the lanes sent, or all 64 of a V register, or an S register (R196, R197). -/
def fillReg (s : State) (gid : Nat) (n : Note) (k key : Nat) : State :=
  let m : LaneMask := if n.uniform then BitVec.ofNat 64 (2 ^ 64 - 1) else n.lanes
  (writeKey s gid key m (n.word k)).modGroup gid fun g => { g with note := Tab.set g.note key .full }

/-- An accepted arrival is applied in one cycle (R198). -/
def fillNote (s : State) (gid : Nat) (n : Note) : State :=
  let s1 := fillReg s gid n 0 n.target
  if n.w64 then fillReg s1 gid n 1 (n.target + 1) else s1

/-- The fragments of a saved group whose NOTESTALL wait has ended are ready in its image (R255, R315). -/
def wakeNoted (s : State) (gid : Nat) : State :=
  s.modGroup gid fun g =>
    if g.state != .saved then g
    else { g with split := g.split.map fun (y : Nat × SplitEntry) => match y.2 with
      | .frag f => (y.1, .frag (match f.cond with
          | .parked (.note ks) _ _ => if ks.all fun k => Tab.get? g.note k != some .empty then { f with cond := .ready } else f
          | _ => f))
      | .region r => (y.1, .region r) }

/-- A note's checks before its target's state (R198): 4 STALE, 5 TAG, 0 where it passes. -/
def passCheck (s : State) (n : Note) : Nat :=
  let p := passOf n.pass.toNat
  let gid := p.core * 128 + p.slot
  match Tab.get? s.groups gid with
  | none => 4
  | some g =>
    if g.state == .retired || genOf s gid ≠ p.gen then 4
    else if tagFor s g.launch g.part (n.pass.toNat / 2 ^ 19) ≠ p.tag then 5
    else 0

/-- Answer a note: an acknowledgement for cause 0, else a NACK with its Proctor event (R198, R337). -/
def answerNote (s : State) (id : Nat) (n : Note) (cause : Nat) : State :=
  let p := passOf n.pass.toNat
  let chip := chipOfCore n.core
  let s1 := s.modNote id fun n => { n with stage := 4 }
  let s2 := if cause = 0 then s1
    else tap s1 chip 7 (some n.part) [gidOf n.gid, gidOf (p.core * 128 + p.slot), cause, n.target]
  sendCC s2 chip (chipOfCore (coreOf n.gid)) (.noteAck id cause)

/-- The save of a group has begun and its image is not complete (R306, R310). -/
def Group.saving (g : Group) : Bool := g.grace.isSome && !(g.state == .saved)

/-- A note must wait in its target core's buffer: its target is being saved, or one of its sender waits there before it (R198, R266,
R267). -/
def noteWaits (s : State) (id : Nat) (n : Note) : Bool :=
  let p := passOf n.pass.toNat
  (match Tab.get? s.groups (p.core * 128 + p.slot) with
    | some g => passCheck s n == 0 && g.saving
    | none => false) ||
  s.notes.any fun e => e.1 < id && e.2.uid == n.uid && e.2.core == n.core && (e.2.stage == 3 || (s.core n.core).notes.contains e.1)

/-- Check a note against its target as it now is, apply it, answer it (R198, R266). A saved target is checked and written in its
image. -/
def applyNote (s : State) (id : Nat) (n : Note) : State :=
  let p := passOf n.pass.toNat
  let gid := p.core * 128 + p.slot
  match passCheck s n with
  | 0 => match Tab.get? s.groups gid with
    | some g => match noteState g n.regs with
      | 0 => answerNote (wakeNoted (fillNote s gid n) gid) id n 0
      | c => answerNote s id n c
    | none => answerNote s id n 4
  | c => answerNote s id n c

/-- A note at its target core: applied, or held in the note buffer of 32, or held at the sending chiplet while that is full (R266,
R267). -/
def acceptNote (s : State) (id : Nat) (n : Note) : State :=
  if noteWaits s id n then
    if (s.core n.core).notes.length < 32 &&
        !(s.notes.any fun e => e.1 < id && e.2.uid == n.uid && e.2.core == n.core && e.2.stage == 3) then
      (s.modNote id fun n => { n with stage := 2 }).modCore n.core fun c => { c with notes := c.notes ++ [id] }
    else s.modNote id fun n => { n with stage := 3 }
  else applyNote s id n

/-- Take the head of the receive buffer between two compute chiplets. -/
def popCC (s : State) (i j : Nat) : State :=
  popInbox s (portCC i) (portCC j)

/-- The first chiplet whose packet for a core stands at the head of its receive buffer. -/
def noteAt (s : State) (core : Nat) : Option (Nat × Nat × Note) :=
  (List.range 16).findSome? fun c => match inboxHead s (portCC c) (portCC (chipOfCore core)) with
    | some (.note id) => match Tab.get? s.notes id with
      | some n => if n.core = core then some (c, id, n) else none
      | none => none
    | _ => none

/-- NOTE_ARRIVAL (R198, R266, R267). -/
def execNoteArrival (core : Nat) (s : State) : Host.Outcome State Fault Refusal :=
  .next (match noteAt s core with
    | some (c, id, n) => acceptNote (popCC s c (chipOfCore core)) id n
    | none => s)

/-- NOTE_BUFFER_RETRY (R267): every note held for the core is tried, in the order of their issue. -/
def execNoteBufferRetry (core : Nat) (s : State) : Host.Outcome State Fault Refusal :=
  .next ((s.notes.filter fun e => e.2.stage == 3 && e.2.core == core).foldl (fun t e => acceptNote t e.1 e.2) s)

/-- Apply the notes of a core's buffer that need wait no longer, in arrival order (R266). -/
def drainNotes (s : State) (core : Nat) : State :=
  (s.core core).notes.foldl (fun t id =>
    match Tab.get? t.notes id with
    | none => t.modCore core fun c => { c with notes := c.notes.filter (· != id) }
    | some n =>
      let t1 := t.modCore core fun c => { c with notes := c.notes.filter (· != id) }
      if blocked t id n then t else applyNote t1 id n) s
where
  /-- Its target is being saved, or an earlier one of its sender waits before it. -/
  blocked (s : State) (id : Nat) (n : Note) : Bool :=
    let p := passOf n.pass.toNat
    (match Tab.get? s.groups (p.core * 128 + p.slot) with
      | some g => passCheck s n == 0 && g.saving
      | none => false) ||
    ((s.core core).notes.takeWhile (· != id)).any fun k => match Tab.get? s.notes k with
      | some m => m.uid == n.uid
      | none => false

/-! ### Answers -/

/-- Record the failure of a note by name against the sender's flag (R199): one after the first of a flag counts in NFAIL. The failure of a note
that joined no flag is kept by itself, since R199 allows one trap only to a flag. -/
def recordFail (g : Group) (id : Nat) (n : Note) (cause : Nat) : Group :=
  let k := n.flag.getD (16 + id)
  match Tab.get? g.nrec k with
  | some r => if r.raised then { g with nrec := Tab.set g.nrec k { pass := n.pass, cause := cause, raised := false } }
              else { g with nfail := (g.nfail + 1) % 2 ^ 32 }
  | none => { g with nrec := Tab.set g.nrec k { pass := n.pass, cause := cause, raised := false } }

/-- The answer reaches the sender, if it still is there (R199). -/
def takeAnswer (s : State) (id : Nat) (n : Note) (cause : Nat) : State :=
  let s1 := dropFlag { s with notes := Tab.del s.notes id } n.uid n.flag
  if cause = 0 then s1
  else match groupBy s1 n.uid with
    | some (gid, _) => s1.modGroup gid fun g => recordFail g id n cause
    | none => s1

/-- NOTE_ACK_RECEIVE (R199). -/
def execNoteAckReceive (op : Nat) (s : State) : Host.Outcome State Fault Refusal :=
  .next (match Tab.get? s.notes op with
    | none => s
    | some n =>
      let i := chipOfCore n.core
      let j := chipOfCore (coreOf n.gid)
      match inboxHead s (portCC i) (portCC j) with
      | some (.noteAck k cause) => if k = op then takeAnswer (popCC s i j) op n cause else s
      | _ => s)

end Sys2Proof.Machine
end

