-- ==== Sys2Proof/Machine/Attn.lean ====
section
/-! DEFINITION. ATTN (R200 to R206): waits, locks, barriers, declarations; the waking of entries (R202, R204, R255); holders and
priority inheritance (R256, R257); deadlock detection (R258 to R262). -/

namespace Sys2Proof.Machine

/-! ### Issue -/

/-- KIND and SCOPE of an ATTN instruction (R200). -/
def attKind (f : Lg) : Nat := f.mod.toNat % 8

/-- SCOPE (R200): 0 team, 1 coh, 2 dev, 3 sys. -/
def attScope (f : Lg) : Nat := f.mod.toNat / 8 % 4

/-- The scope, as R147 numbers it, under which an operation on an object of `n` bytes waits for other accesses: 0 for WAIT, on a word, at team
scope, where it reads the L1 or the combine buffer (R234). -/
def objScope (n : Nat) (f : Lg) : Nat := if n == 4 && attScope f == 0 then 0 else wideScope (attScope f)

/-- An object that the instruction found. -/
structure Obj where
  va : Nat
  team : Option Nat
  pa : Nat
  ord : Nat
  deriving DecidableEq, Repr

/-- Issue an instruction on an object of `n` bytes (R75, R200, R201). `k` gets the object and, where it completes, reads its sources
by `readSources`. -/
def runObj (s : State) (minor n scope : Nat) (kind : AccKind) (device : Bool) (f : Lg) (os : Opnds)
    (k : Ctx → Obj → State → State) : Host.Outcome State Fault Refusal :=
  withIssuer s fun x =>
    if !lgOk 0x21 minor f then takeTrap s x 0x01 0 0
    else match operandGate s x (usesOf (lgView f) os) with
      | .go =>
        let va := uval s x f os .a
        match resolveObj s x va n (some scope) kind device with
        | .stop t => t
        | .ok t team pa ord => k x { va := va, team := team, pa := pa, ord := ord } t
      | g => stopAt s x g

/-- The object operand. -/
def objOps : Opnds := [(.a, .spair false)]

/-- An object operand and a uniform value. -/
def objValOps : Opnds := [(.a, .spair false), (.b, .uni .n32)]

/-- The instruction completes with SCC, its sources read. -/
def endObj (t : State) (x : Ctx) (f : Lg) (os : Opnds) (scc : Bool) : State :=
  nextLg (setScc (readSources t x (lgView f) os) x scc) x f

/-- Register an entry for the fragment and park with reason ATT, or complete with SCC 0 and WOVF where the table is full (R205). -/
def waitOn (t : State) (x : Ctx) (f : Lg) (os : Opnds) (e : AttEnt) : State :=
  match register t e with
  | (u, true) => parkIssued (readSources u x (lgView f) os) x .att
  | (u, false) => nextLg (overflowed (readSources u x (lgView f) os) x) x f

/-- The group has declared that it holds the object (R204). -/
def declared (s : State) (x : Ctx) (obj : Nat) : Bool :=
  (s.chip (attChip x.gid)).att.any fun e => e.2.uid == x.g.uid && e.2.st == 3 && e.2.obj == obj

/-! ### Registering without waiting -/

/-- Where a named object lies, without an access (R254). -/
def placeOf (s : State) (x : Ctx) (va : Nat) : Option (Option Nat × Nat) :=
  if padForm va then some (some x.g.team, va % 2 ^ 32)
  else (peek s (groupXer x.gid x.g) va .load).map fun pa => (none, pa)

/-- The checks of an object that is only named (R200, R201): a lock object in host memory stops with ATTR. -/
def namedObj (s : State) (x : Ctx) (va kind : Nat) : Option State :=
  let n := objectLen kind
  if padForm va && (bitsAt va 32 24 ≠ 0 || !padIn s x.g.team (va % 2 ^ 32) n) then some (illOpnd s x)
  else if va % n ≠ 0 then some (takeTrap s x 0x07 va 0)
  else match placeOf s x va with
    | some (none, pa) =>
      if kind = 1 && isHost pa then
        let q := leafFault s (groupXer x.gid x.g) va .load 0x24
        some (groupFault q.1 x.gid x.fi x.g 2 (.object x.gid x.f.id) [(va / 4096, va, q.2)])
      else none
    | _ => none

/-- WREG and WHOLD register an entry and go on (R204). -/
def execNamed (s : State) (minor : Nat) (f : Lg) (os : Opnds) (k : Ctx → Nat → State → State) :
    Host.Outcome State Fault Refusal :=
  runLg s 0x21 minor anyone f os fun x s1 =>
    let va := uval s x f os .a
    match namedObj s x va (attKind f) with
    | some t => t
    | none => k x va s1

/-- Register without waiting: a full table gives SCC 0 and WOVF (R205). -/
def registerOnly (s : State) (x : Ctx) (f : Lg) (e : AttEnt) : State :=
  match register s e with
  | (t, true) => nextLg t x f
  | (t, false) => nextLg (overflowed t x) x f

/-- WREG (R204): B is an S register holding the holder's GID, or NULL. -/
def execWreg (f : Lg) (s : State) : Host.Outcome State Fault Refusal :=
  let os : Opnds := objOps ++ (if sel10 f.b = .null then [] else [(.b, .sreg)])
  execNamed s 0 f os fun x va s1 =>
    if declared s1 x va then nextLg s1 x f
    else
      let gid := uval s x f os .b
      registerOnly s1 x f { attBlank x.gid x.f.id x.g (attKind f) 0 va with
        st := 2, hk := gid ≠ 0 && (s.fe x.g.part).owns (coreOf (gid - 1)), holder := gid % 2 ^ 15, place := placeOf s x va }

/-- WHOLD (R204). -/
def execWhold (f : Lg) (s : State) : Host.Outcome State Fault Refusal :=
  execNamed s 8 f objOps fun x va s1 =>
    if bitAt f.mod.toNat 3 then
      nextLg (dropEntries s1 (attChip x.gid) fun e => e.uid == x.g.uid && e.st == 3 && e.obj == va) x f
    else if declared s1 x va then nextLg s1 x f
    else registerOnly s1 x f { attBlank x.gid x.f.id x.g (attKind f) 0 va with st := 3, place := placeOf s x va }

/-- WDROP (R204). -/
def execWdrop (f : Lg) (s : State) : Host.Outcome State Fault Refusal :=
  runLg s 0x21 1 anyone f objOps fun x s1 =>
    let va := uval s x f objOps .a
    if padForm va && (bitsAt va 32 24 ≠ 0 || !padIn s x.g.team (va % 2 ^ 32) 4) then illOpnd s x
    else nextLg (dropEntries s1 (attChip x.gid) fun e =>
      e.uid == x.g.uid && e.frag == x.f.id && e.st == 2 && e.obj == va) x f

/-! ### WAIT -/

/-- WAIT (R204). -/
def execWait (f : Lg) (s : State) : Host.Outcome State Fault Refusal :=
  runObj s 2 4 (attScope f) .load false f objValOps fun x o t =>
    let cmp := uval s x f objValOps .b
    if declared s x o.va then nextLg (readSources t x (lgView f) objValOps) x f
    else match objWaits t x false false (objScope 4 f) o.team o.pa o.ord with
      | some p => p
      | none =>
        let t1 := soObject t x.g.uid o.team o.pa o.ord
        if waitWord t1 x.gid (attScope f) o.team o.pa o.ord ≠ cmp then endObj (acquireAt t1 x.gid (attScope f)) x f objValOps true
        else waitOn t1 x f objValOps { attBlank x.gid x.f.id x.g (attKind f) (attScope f) o.va with
          place := some (o.team, o.pa), ord := o.ord, cmp := cmp }

/-! ### Locks -/

/-- OWNER of a lock object's bytes (R201). -/
def ownerOf (bs : List Byte) : Nat := ofBytes bs % 2 ^ 32

/-- A group becomes the owner of a lock. -/
def takeLock (s : State) (gid uid part : Nat) (obj : Nat) (team : Option Nat) (pa ord : Nat) : State :=
  (objWrite s uid part team pa ord (toBytes 4 (gidOf gid))).modGroup gid fun g =>
    { g with locks := g.locks ++ [(obj, team, pa)] }

/-- LOCK (R203). -/
def execLock (f : Lg) (s : State) : Host.Outcome State Fault Refusal :=
  runObj s 3 16 (attScope f) .atomic true f objOps fun x o t =>
    if declared s x o.va then nextLg (readSources t x (lgView f) objOps) x f
    else match objWaits t x false true (wideScope (attScope f)) o.team o.pa o.ord with
      | some p => p
      | none =>
        let own := ownerOf (objRead t o.team o.pa 16)
        if own = 0 then
          endObj (acquireAt (takeLock t x.gid x.g.uid x.g.part o.va o.team o.pa o.ord) x.gid (attScope f)) x f objOps true
        else if own = gidOf x.gid then endObj (soObject t x.g.uid o.team o.pa o.ord) x f objOps false
        else waitOn (soObject t x.g.uid o.team o.pa o.ord) x f objOps
          { attBlank x.gid x.f.id x.g 1 (attScope f) o.va with
            place := some (o.team, o.pa), ord := o.ord, hk := (s.fe x.g.part).owns (coreOf (own - 1)), holder := own % 2 ^ 15 }

/-- The earliest registered waiter of a lock (R203). -/
def nextLocker (s : State) (team : Option Nat) (pa : Nat) : Option (Nat × AttEnt) :=
  (allEntries s).foldl (fun (b : Option (Nat × AttEnt)) c =>
    if c.2.kind == 1 && c.2.st == 1 && c.2.place == some (team, pa) then
      match b with
      | none => some c
      | some d => if c.2.stamp < d.2.stamp then some c else some d
    else b) none

/-- UNLOCK (R203). -/
def execUnlock (f : Lg) (s : State) : Host.Outcome State Fault Refusal :=
  runObj s 4 16 (attScope f) .atomic true f objOps fun x o t =>
    match objWaits t x true true (wideScope (attScope f)) o.team o.pa o.ord with
    | some p => p
    | none =>
      if ownerOf (objRead t o.team o.pa 16) ≠ gidOf x.gid then endObj (soObject t x.g.uid o.team o.pa o.ord) x f objOps false
      else
        let t1 := t.modGroup x.gid fun g => { g with locks := g.locks.filter fun l => l.2 != (o.team, o.pa) }
        match nextLocker t1 o.team o.pa with
        | none => endObj (objWrite t1 x.g.uid x.g.part o.team o.pa o.ord (toBytes 4 0)) x f objOps true
        | some (chip, e) =>
          let t2 := objWrite t1 x.g.uid x.g.part o.team o.pa o.ord (toBytes 4 (gidOf e.gid))
          let t3 := t2.modGroup e.gid fun g => { g with locks := g.locks ++ [(e.obj, o.team, o.pa)] }
          wakeEntry (endObj t3 x f objOps true) chip e

/-! ### Barriers -/

/-- An arrival at a barrier object (R202): the object written, and at a team's barrier the group noted (R256). -/
def arriveObj (s : State) (uid part : Nat) (team : Option Nat) (pa ord : Nat) : State × Nat :=
  let bs := objRead s team pa 16
  let new := arriveBytes bs
  let s1 := objWrite s uid part team pa ord new
  let s2 := match team with
    | some t => s1.modTeam t fun t => { t with
        arrivals := if phaseOf new = phaseOf bs then t.arrivals ++ [(pa, uid)]
                    else t.arrivals.filter fun a => a.1 != pa }
    | none => s1
  (s2, phaseOf bs)

/-- BARA (R202). -/
def execBara (f : Lg) (s : State) : Host.Outcome State Fault Refusal :=
  let os : Opnds := [(.d, .dstS false true), (.a, .spair false)]
  runObj s 6 16 (attScope f) .atomic true f os fun x o t =>
    match objWaits t x true true (wideScope (attScope f)) o.team o.pa o.ord with
    | some p => p
    | none =>
      let r := arriveObj t x.g.uid x.g.part o.team o.pa o.ord
      nextLg (writeUni (readSources r.1 x (lgView f) os) x (sel10 f.d) false r.2) x f

/-- BARW (R202). -/
def execBarw (f : Lg) (s : State) : Host.Outcome State Fault Refusal :=
  runObj s 7 16 (attScope f) .load true f objValOps fun x o t =>
    let p := uval s x f objValOps .b % 2
    match objWaits t x false false (wideScope (attScope f)) o.team o.pa o.ord with
    | some q => q
    | none =>
      let t1 := soObject t x.g.uid o.team o.pa o.ord
      if phaseOf (objRead t1 o.team o.pa 16) ≠ p then endObj (acquireAt t1 x.gid (attScope f)) x f objValOps true
      else waitOn t1 x f objValOps { attBlank x.gid x.f.id x.g 0 (attScope f) o.va with
        place := some (o.team, o.pa), ord := o.ord, cmp := p }

/-- The fragments of a group parked at a BAR, with the instruction and the object. -/
def atBars (g : Group) : List (Nat × Frag × Nat × Nat) :=
  g.frags.filterMap fun e => match e.2.cond with
    | .parked (.bar pc obj) _ _ => some (e.1, e.2, pc, obj)
    | _ => none

/-- Of these the one with the lowest split-table index (R227). -/
def firstBar (g : Group) : Option (Nat × Frag × Nat × Nat) :=
  (atBars g).foldl (fun b e => match b with
    | none => some e
    | some d => if e.2.1.home < d.2.1.home then some e else some d) none

/-- Every live fragment is at a BAR or waits at a reconvergence point (R227). -/
def allStopped (g : Group) : Bool := g.frags.all fun e => match e.2.cond with
  | .parked (.bar _ _) _ _ => true
  | .atRpc => true
  | _ => false

/-- The group's entry at its BAR, once its arrival is made (R202). -/
def barEntry (s : State) (gid uid : Nat) (g : Group) : Option AttEnt :=
  ((s.chip (attChip gid)).att.find? fun e => e.2.uid == uid && e.2.kind == 0 && e.2.st == 1 &&
    (match g.namedFrag e.2.frag with
      | some (_, f) => match f.cond with
        | .parked (.bar _ _) _ _ => true
        | _ => false
      | none => false)).map (·.2)

/-- The SCOPE of the BAR at which a fragment stands. -/
def barScope (f : Frag) : Nat := match instrAt f with
  | .ok (.bar y) => attScope y
  | _ => 0

/-- Every fragment of a group at its BAR completes. -/
def finishBar (s : State) (gid scope : Nat) (scc : Bool) (wovf : Bool) : State :=
  match Tab.get? s.groups gid with
  | none => s
  | some g =>
    let s1 := if scc then acquireAt s gid scope else s
    let s2 := if wovf then orSticky s1 gid fWOVF else s1
    (atBars g).foldl (fun t e => finishWait t gid e.1 scc) s2

/-- The group's arrival at its barrier, counted once (R202, R205). -/
def barArrive (s : State) (gid fi obj : Nat) (g : Group) (f : Frag) : State :=
  let x : Ctx := { gid := gid, fi := fi, g := g, f := f }
  let sc := barScope f
  match resolveObj s x obj 16 (some sc) .atomic true with
  | .stop t => t
  | .ok t team pa ord =>
    if objectHolds t (coreOf gid) g.uid true true (ord == 1) (wideScope sc) (objUnit team pa) then
      urgeObject t (coreOf gid) g.uid true true (ord == 1) (wideScope sc) (objUnit team pa)
    else
      let r := arriveObj t g.uid g.part team pa ord
      if phaseOf (objRead r.1 team pa 16) ≠ r.2 then finishBar r.1 gid sc true false
      else match register r.1 { attBlank gid f.id g 0 sc obj with place := some (team, pa), ord := ord, cmp := r.2 } with
        | (u, true) => u
        | (u, false) => finishBar u gid sc false true

/-- What a group parked at a BAR does (R202, R227): it arrives once all its fragments are there; BARDIV where they cannot all
come. -/
def barStep (s : State) (gid : Nat) : State :=
  match Tab.get? s.groups gid with
  | none => s
  | some g => match firstBar g with
    | none => s
    | some (fi, f, pc, obj) =>
      if !g.live || g.killed || !allStopped g || (barEntry s gid g.uid g).isSome then s
      else if g.frags.all fun e => e.2.cond != .atRpc && ((atBars g).all fun r => r.2.2 == (pc, obj)) then
        barArrive s gid fi obj g f
      else takeTrap s { gid := gid, fi := fi, g := g, f := f } 0x0B obj 0

/-- BAR (R202): the fragment parks at the instruction; the group's arrival follows when all of its fragments are there. -/
def execBar (f : Lg) (s : State) : Host.Outcome State Fault Refusal :=
  runObj s 5 16 (attScope f) .atomic true f objOps fun x o t =>
    barStep (parkIssued (readSources t x (lgView f) objOps) x (.bar x.f.pc0 o.va)) x.gid

/-! ### WSTAT -/

/-- The WSTAT value (R206); OWN keeps the low nine bits of its count (log 41). -/
def statWord (s : State) (x : Ctx) : Nat :=
  let c := s.chip (attChip x.gid)
  let own := ((allEntries s).filter fun e => e.2.uid == x.g.uid).length
  (4096 - c.att.length) + own % 512 * 2 ^ 16 + x.g.eprio % 16 * 2 ^ 32 + x.g.bprio % 16 * 2 ^ 36 +
    (if x.g.bprio < x.g.eprio then 2 ^ 40 else 0)

/-- WSTAT (R206). -/
def execWstat (f : Lg) (s : State) : Host.Outcome State Fault Refusal :=
  let os : Opnds := [(.d, .dstS true false)]
  runLg s 0x21 9 anyone f os fun x s1 => nextLg (writeUni s1 x (sel10 f.d) true (statWord s x)) x f

/-! ### Waking -/

/-- A WAITING entry's condition holds (R167, R202, R204). -/
def entryMet (s : State) (e : AttEnt) : Bool :=
  match e.kind, e.place with
  | 0, some (team, pa) => phaseOf (objRead s team pa 16) != e.cmp
  | 2, some (team, pa) => !waitHeld s e.gid e.scope team pa e.ord && waitWord s e.gid e.scope team pa e.ord != e.cmp
  | 3, some (team, pa) => !waitHeld s e.gid e.scope team pa e.ord && waitWord s e.gid e.scope team pa e.ord != e.cmp
  | 4, _ => match groupBy s e.uid with
    | some (_, g) => windowMet s g e
    | none => true
  | _, _ => false

/-- Wake the waiter of an entry: all fragments of a group at its BAR, or the one fragment. -/
def wakeWaiter (s : State) (chip : Nat) (e : AttEnt) : State :=
  match groupBy s e.uid with
  | none => dropEntries s chip fun y => y == e
  | some (gid, g) =>
    if e.kind = 0 && barEntry s gid e.uid g == some e then
      finishBar (dropEntries (soEntry s e) chip fun y => y == e) gid e.scope true false
    else wakeEntry s chip e

/-- The fragment of a note entry is parked for it no more (R255). -/
def noteOver (s : State) (e : AttEnt) : Bool :=
  match groupBy s e.uid with
  | none => true
  | some (_, g) => match g.namedFrag e.frag with
    | some (_, f) => match f.cond with
      | .parked (.note _) _ _ => false
      | _ => true
    | none => true

/-- Wake every entry whose condition holds, the earliest registered first (R202, R204, R255). -/
def wakeEntries (s : State) : State :=
  (allEntries s).foldl (fun t c =>
    if c.2.kind == 5 then (if noteOver t c.2 then dropEntries t c.1 fun y => y == c.2 else t)
    else if c.2.st == 1 && entryMet t c.2 then wakeWaiter t c.1 c.2 else t) s

/-- OBJ of a note entry (R254). -/
def noteObj (gid key : Nat) : Nat := gidOf gid + key * 2 ^ 15

/-- A fragment that parked NOTESTALL in this cycle registers an entry, if there is room (R255). -/
def noteEntries (s : State) (gid : Nat) : State :=
  match Tab.get? s.groups gid with
  | none => s
  | some g => g.frags.foldl (fun t e => match e.2.cond with
    | .parked (.note ks) _ since =>
      if since = s.clock && (t.chip (attChip gid)).att.length < 4096 &&
          !((t.chip (attChip gid)).att.any fun y => y.2.uid == g.uid && y.2.frag == e.2.id && y.2.kind == 5) then
        (register t (attBlank gid e.2.id g 5 0 (noteObj gid (nth ks 0 0)))).1
      else t
    | _ => t) s

/-- WAIT_REREAD (R204): the word of an entry is read again; where the host holds its half, once that has been snooped (R320), and where the
word lies in host memory, once the chiplet has its sector (R324). -/
def execWaitReread (chip idx : Nat) (s : State) : Host.Outcome State Fault Refusal :=
  .next (match Tab.get? (s.chip chip).att idx with
    | some e =>
      if e.st == 1 && (e.kind == 2 || e.kind == 3) then
        match e.place with
        | some (none, pa) =>
          if isHost pa && (sectorOf s chip (pa / 64)).st == 0 then urgeObject s (coreOf e.gid) e.uid false false false 1 pa
          else match readGate s pa 4 with
          | some t => t
          | none => again (soObject s e.uid none pa e.ord) e
        | _ => again s e
      else s
    | none => s)
where
  /-- The word is read. -/
  again (s : State) (e : AttEnt) : State := if entryMet s e then wakeWaiter s chip e else s

/-! ### Holders and inheritance -/

/-- A holder: a group by its key, or a launch by its key. -/
inductive Hold where
  | group (gid : Nat)
  | launch (key : Nat)
  deriving DecidableEq, Repr

/-- Groups that have declared an entry's object (R256). WHOLD names a window by the number that its entries hold as OBJ (DESIGN CHOICE, log 101). -/
def declarers (s : State) (e : AttEnt) : List Hold :=
  (allEntries s).filterMap fun c =>
    if c.2.st == 3 && c.2.obj == e.obj && c.2.part == e.part &&
        (!padForm e.obj || (c.2.place.bind (·.1)) == (e.place.bind (·.1))) then some (.group c.2.gid) else none

/-- The live groups of a team that have not arrived in the current phase of its barrier (R256). -/
def notArrived (s : State) (t : Nat) (pa : Nat) : List Hold :=
  match Tab.get? s.teams t with
  | none => []
  | some y => s.groups.filterMap fun g =>
      if g.2.team == t && !(g.2.state == .retired) && !(y.arrivals.contains (pa, g.2.uid)) then some (.group g.1) else none

/-- The holders of an entry (R256); none where they are unknown. -/
def holdersOf (s : State) (e : AttEnt) : Option (List Hold) :=
  let named : List Hold := if e.hk && !e.hl then [.group (e.holder - 1)] else []
  let some1 (l : List Hold) : Option (List Hold) := if l.isEmpty then none else some l
  match e.kind with
  | 0 => match e.place with
    | some (some t, pa) => some (notArrived s t pa)
    | _ => some1 (declarers s e)
  | 1 => some1 named
  | 2 => some1 (named ++ declarers s e)
  | 3 => some1 (named ++ declarers s e)
  | 4 => some1 (named ++ declarers s e)
  | 6 => some (((Tab.keys s.launches).filter fun k => k % 32 == e.part).map .launch)
  | 7 => some [.launch (e.obj * 32 + e.part)]
  | _ => none

/-- The holders of an entry that are known. -/
def knownHolders (s : State) (e : AttEnt) : List Hold := (holdersOf s e).getD []

/-- A holder is the group, or a launch that contains it. -/
def Hold.covers (h : Hold) (gid : Nat) (g : Group) : Bool :=
  match h with
  | .group k => k == gid
  | .launch l => l == g.launch

/-- The effective priority of a group through chains of up to `fuel` holders (R257). -/
def inherited : Nat → State → Nat → Nat
  | 0, s, gid => match Tab.get? s.groups gid with
    | some g => min 15 g.bprio
    | none => 0
  | n + 1, s, gid => match Tab.get? s.groups gid with
    | none => 0
    | some g =>
      ((allEntries s).filter fun c => (c.2.st == 1 || c.2.st == 2) && c.2.gid != gid &&
        (knownHolders s c.2).any fun h => h.covers gid g).foldl (fun p c => min 15 (max p (inherited n s c.2.gid))) (min 15 g.bprio)

/-- A group's effective priority follows its waiters (R257). -/
def raisePriority (s : State) (gid : Nat) : State :=
  match Tab.get? s.groups gid with
  | none => s
  | some g =>
    let p := inherited 8 s gid
    if p = g.eprio then s else s.modGroup gid fun g => { g with eprio := p }

/-- PRIORITY_RAISE (R257). -/
def execPriorityRaise (core slot : Nat) (s : State) : Host.Outcome State Fault Refusal :=
  .next (raisePriority s (core * 128 + slot))

/-- Every group's effective priority, where anything can raise one or has. -/
def raisePriorities (s : State) : State :=
  if (s.chips.any fun c => !c.2.att.isEmpty) || (s.groups.any fun g => g.2.eprio != min 15 g.2.bprio) then
    (Tab.keys s.groups).foldl raisePriority s
  else s

/-! ### Deadlock -/

/-- WAITING entries of a group. -/
def waitingOf (s : State) (uid : Nat) : List (Nat × AttEnt) := (allEntries s).filter fun c => c.2.uid == uid && c.2.st == 1

/-- A group is blocked (R258). -/
def blockedGroup (s : State) (g : Group) : Bool :=
  let w := waitingOf s g.uid
  !w.isEmpty && !g.killed && g.frags.all fun e => match e.2.cond with
    | .atRpc => true
    | .parked (.bar _ _) _ _ => true
    | .parked _ _ _ => w.any fun c => c.2.frag == e.2.id
    | _ => false

/-- A launch is blocked (R258); one that has no live group left is not (DEDUCED, log 85). -/
def blockedLaunch (s : State) (key : Nat) : Bool :=
  match Tab.get? s.launches key with
  | none => false
  | some l =>
    let live := s.groups.filter fun g => g.2.launch == key && g.2.state != .retired
    l.started && l.grid ≤ l.next && !live.isEmpty && live.all fun g => blockedGroup s g.2

/-- What a blocked node leads to: the holders of a group's entries, the groups of a launch; none where it is not blocked or a
holder is unknown (R258). -/
def leadsTo (s : State) (h : Hold) : Option (List Hold) :=
  match h with
  | .group gid => match Tab.get? s.groups gid with
    | none => none
    | some g =>
      let w := waitingOf s g.uid
      if blockedGroup s g && w.all fun c => (holdersOf s c.2).isSome then some (w.flatMap fun c => knownHolders s c.2) else none
  | .launch key =>
    if blockedLaunch s key then
      some (s.groups.filterMap fun g => if g.2.launch == key && !(g.2.state == .retired) then some (.group g.1) else none)
    else none

/-- Everything that a node leads to, with fuel; none where something in it is not blocked or unknown. -/
def closeFrom : Nat → State → List Hold → List Hold → Option (List Hold)
  | 0, _, _, _ => none
  | n + 1, s, todo, seen =>
    match todo with
    | [] => some seen
    | h :: r =>
      if seen.contains h then closeFrom n s r seen
      else match leadsTo s h with
        | none => none
        | some hs => closeFrom n s (hs ++ r) (seen ++ [h])

/-- The deadlocked set that a node leads to, if it does (R258). -/
def deadSet (s : State) (h : Hold) : Option (List Hold) := closeFrom 4096 s [h] []

/-- The least deadlocked set among those its members lead to: each of its members leads to all of it. -/
def leastSet (s : State) (d : List Hold) : List Hold :=
  d.foldl (fun b h => match deadSet s h with
    | some c => if c.length < b.length then c else b
    | none => b) d

/-- The groups of a set, by key. -/
def groupsIn (d : List Hold) : List Nat := d.filterMap fun h => match h with
  | .group k => some k
  | .launch _ => none

/-- The edges of a set (R258). -/
def edgesOf (s : State) (d : List Hold) : Nat :=
  ((allEntries s).filter fun c => c.2.st == 1 && d.contains (.group c.2.gid)).foldl
    (fun n c => n + ((knownHolders s c.2).filter fun h => d.contains h).length) 0

/-- The split-table index of the fragment that an entry names (R222, R254). -/
def entryIndex (s : State) (e : AttEnt) : Nat :=
  match (groupBy s e.uid).bind fun g => g.2.namedFrag e.frag with
  | some (_, f) => f.home
  | none => 8

/-- The entry whose wait is withdrawn (R260): the WAITING one with the lowest split-table index in the group with the lowest GID; none
for a set without a group. -/
def victimOf (s : State) (d : List Hold) : Option (Nat × AttEnt) :=
  match groupsIn d with
  | [] => none
  | ks =>
    (allEntries s).foldl (fun (b : Option (Nat × AttEnt)) c =>
      if c.2.gid == minOf ks && c.2.st == 1 then
        match b with
        | none => some c
        | some e => if entryIndex s c.2 < entryIndex s e.2 then some c else some e
      else b) none

/-- One cycle through a set from a node back to it: the nodes from it on, each with the entry that waits (R261). The search keeps
the path behind it; the fuel bounds the steps. -/
def cyclePath (s : State) (d : List Hold) (start : Hold) : List Hold :=
  let steps := (List.range d.length).foldl (fun (ps : List (List Hold)) _ =>
    if ps.any fun p => (lastArcs p).contains start then ps
    else extend ps) [[start]]
  (steps.find? fun p => (lastArcs p).contains start).getD [start]
where
  /-- What the last node of a path leads to. -/
  lastArcs (p : List Hold) : List Hold := match p.getLast? with
    | some h => (leadsTo s h).getD []
    | none => []
  /-- Shortest paths, one step longer; each node is reached once. -/
  extend (ps : List (List Hold)) : List (List Hold) :=
    ps.foldl (fun acc p =>
      (lastArcs p).foldl (fun acc h => if d.contains h && !(acc.any fun q => q.contains h) then acc ++ [p ++ [h]] else acc) acc) ps

/-- One pair of a report (R261): GID, KIND and OBJ of the node's entry that the next node holds; zeros for a launch. -/
def pairBytes (s : State) (h next : Hold) : List Byte :=
  match h with
  | .launch _ => toBytes 16 0
  | .group gid => match (allEntries s).find? fun c => c.2.gid == gid && c.2.st == 1 && (knownHolders s c.2).contains next with
    | some c => toBytes 4 (gidOf gid) ++ toBytes 4 (c.2.kind) ++ toBytes 8 c.2.obj
    | none => toBytes 4 (gidOf gid) ++ toBytes 12 0

/-- The 512 bytes of a cycle report (R261). -/
def reportBytes (s : State) (seq edges : Nat) (path : List Hold) : List Byte :=
  let n := min 16 path.length
  let pairs := (List.range n).flatMap fun i => pairBytes s (nth path i (.group 0)) (nth path ((i + 1) % path.length) (.group 0))
  let head := toBytes 8 seq ++ toBytes 4 edges ++ toBytes 2 n ++ toBytes 2 0 ++ pairs
  head ++ List.replicate (512 - head.length) 0

/-- The bytes of a report, each where its own page lies, as posted stores of the page's kind. On an SO page they are stores of an agent
without a clock of its own (log 23). -/
def putReport (s : State) (part job gid va : Nat) (t : PageMap) (bs : List Byte) : State :=
  let cells := bs.zipIdx.map fun b => ((va + b.2) % 2 ^ 64, b.1)
  ((cells.map fun c => c.1 / 4096).eraseDups).foldl (fun u p =>
    let mine := cells.filter fun c => c.1 / 4096 == p
    let ord := kindAt t (p * 4096)
    agentWrite u job part 0 0 (coreOf gid) (gidOf gid) (if ord = 1 then some 0 else none) (mine.map fun c => (placed t c.1, c.2))) s

/-- Write a report through the partition's tables as posted stores (R262): the address, 0 where it was not written; no answer while the
stores must wait (R232, R320). FE_RINGVA keeps all its bits: of a report that then lies on two pages each page is translated, and a fault of
either leaves it unwritten (log 93). -/
def writeReport (s : State) (chip part seq job gid : Nat) (bs : List Byte) : State × Option Nat :=
  let base := (s.fe part).ringva
  let va := base + 512 * (seq % 256)
  if base = 0 then (s, some 0)
  else
    let x : Xer := { part := part, core := none, chip := some chip, eng := none, hmode := false }
    let vas := (List.range bs.length).map fun i => (va + i) % 2 ^ 64
    let r := translatePages s x .store false ((vas.map (· / 4096)).eraseDups)
    if r.2.2.isEmpty then
      match writeWaits r.1 part none (vas.map (placed r.2.1)) with
      | some t => (t, none)
      | none => (putReport r.1 part job gid va r.2.1 bs, some va)
    else if (faultsOf r.2.2).isEmpty then (r.1, none)
    else (tap s chip 16 (some part) [4, gidOf gid, va], some 0)

/-- A report of the partition is on its way (R262). -/
def reportPending (s : State) (part : Nat) : Bool :=
  s.chips.any fun c => match c.2.scan with
    | some z => z.confirmed && (c.2.att.any fun e => e.2.stamp == z.victim && e.2.part == part)
    | none => false

/-- The first deadlocked set that a unit's WAITING entries lead to and whose trapped entry lies in it (R259, R260). -/
def foundSet (s : State) (chip : Nat) : Option (List Hold × AttEnt) :=
  (s.chip chip).att.findSome? fun e =>
    if e.2.st == 1 then
      match deadSet s (.group e.2.gid) with
      | some d => match victimOf s (leastSet s d) with
        | some (c, v) => if c = chip then some (leastSet s d, v) else none
        | none => none
      | none => none
    else none

/-- The stamps of the WAITING entries of a set (R259). -/
def stampsOf (s : State) (d : List Hold) : List Nat :=
  ((allEntries s).filter fun c => c.2.st == 1 && d.contains (.group c.2.gid)).map (·.2.stamp)

/-- DEADLOCK_PROBE (R259): a first pass records a set's stamps; a second that finds them unchanged confirms it and writes the report
(R262). -/
def execDeadlockProbe (chip : Nat) (s : State) : Host.Outcome State Fault Refusal :=
  .next (match (s.chip chip).scan with
    | some z => if z.confirmed then s else probe s (some z)
    | none => probe s none)
where
  /-- One pass over a unit's entries. -/
  probe (s : State) (z : Option Scan) : State :=
    match foundSet s chip with
    | none => s.modChip chip fun c => { c with scan := none }
    | some (d, v) =>
      let stamps := stampsOf s d
      if (z.map (·.stamps)) = some stamps && !reportPending s v.part then
        let edges := edgesOf s d
        let seq := (s.fe v.part).cycleSeq
        let job := s.nextOp
        match writeReport { s with nextOp := job + 1 } chip v.part seq job v.gid
            (reportBytes s seq edges (cyclePath s d (.group v.gid))) with
        | (t, some va) =>
          putScan t { stamps := stamps, victim := v.stamp, edges := edges, confirmed := true, seq := seq, va := va, job := job }
        | (t, none) => t
      else putScan s { stamps := stamps, victim := v.stamp, edges := 0, confirmed := false, seq := 0, va := 0, job := 0 }
  /-- Keep what was found. -/
  putScan (s : State) (z : Scan) : State := s.modChip chip fun c => { c with scan := some z }

/-- CYCLE at one fragment (R218, R260): its wait is withdrawn, SCC is 0, and the record resumes at the next instruction. -/
def takeCycle (s : State) (chip : Nat) (e : AttEnt) (va edges : Nat) : State :=
  let s1 := dropEntries s chip fun y => y == e
  match groupBy s1 e.uid with
  | none => s1
  | some (gid, g) => match g.namedFrag e.frag with
    | none => s1
    | some (fi, f) =>
      let l := lenHere f
      let p := nextPlace f l.1
      let f1 := { issued f s.clock l.2 with scc := false, yielded := yieldsAfter f l.1 }
      takeTrapAt ((startRunning s1 gid).modFrag gid fi fun _ => f1) gid fi f1 f.pc0 p.1 p.2 0x0D true va edges false (formatWords f)

/-- CYCLE_DELIVERY (R260, R262): every store of the report is acknowledged, and CYCLE is delivered. -/
def execCycleDelivery (chip : Nat) (s : State) : Host.Outcome State Fault Refusal :=
  .next (match (s.chip chip).scan with
    | none => s
    | some z =>
      if !z.confirmed || jobProbed s z.job then s
      else
        let s1 := s.modChip chip fun c => { c with scan := none }
        match (s.chip chip).att.find? fun e => e.2.stamp == z.victim && e.2.st == 1 with
        | none => s1
        | some (_, e) =>
          let s2 := s1.modFe e.part fun f => { f with cycleSeq := (f.cycleSeq + 1) % 2 ^ 64 }
          takeCycle (dropWork (tap s2 chip 6 (some e.part) [gidOf e.gid, z.edges, z.seq]) e) chip e z.va z.edges)
where
  /-- A LAUNCH.w whose wait is withdrawn is not submitted: its Q6 entry has STATUS 1 (R205, R209). A JOIN's entry comes when its child
  ends (R210). -/
  dropWork (s : State) (e : AttEnt) : State :=
    if e.kind ≠ 6 then s
    else match s.works.find? fun w => w.2.uid == e.uid && w.2.frag == e.frag && !w.2.join with
      | some (op, _) => setResult { s with works := Tab.del s.works op } e.uid 6 op (qWords (2 ^ 48 + 2 ^ 52))
      | none => s

end Sys2Proof.Machine
end

