-- ==== Sys2Proof/Machine/Journal.lean ====
section
/-! DEFINITION. Launch blocks (R273, R274, R279), the Journal (R359 to R361, R363) and the acceptance of a launch (R282, R283). -/

namespace Sys2Proof.Machine

/-! ### Launch blocks -/

/-- A launch block's fields (R273); `zero` where its must-be-zero fields are zero. -/
structure Block where
  code : Nat
  params : Nat
  trap : Nat
  vregs : Nat
  team : Nat
  tiles : Nat
  prio : Nat
  cls : Nat
  replay : Bool
  cohort : Nat
  grid : Nat
  scratch : Nat
  zero : Bool
  deriving DecidableEq, Repr

/-- Read the fields of 64 bytes (R273). -/
def blockOf (bs : List Byte) : Block :=
  let v := ofBytes bs
  { code := bitsAt v 0 64, params := bitsAt v 64 64, trap := bitsAt v 128 64, vregs := bitsAt v 192 8, team := bitsAt v 200 8
    tiles := bitsAt v 208 4, prio := bitsAt v 212 4, cls := bitsAt v 216 2, replay := bitAt v 218, cohort := bitsAt v 220 4
    grid := bitsAt v 224 24, scratch := bitsAt v 256 32
    zero := !bitAt v 219 && bitsAt v 248 8 == 0 && bitsAt v 288 224 == 0 }

/-- The fields lie in their ranges (R273). -/
def Block.inRange (b : Block) : Bool :=
  b.zero && b.code % 4 == 0 && b.trap % 4 == 0 && decide (8 ≤ b.vregs) && decide (b.vregs ≤ 128) && decide (1 ≤ b.team) &&
  decide (b.team ≤ 128) && decide (b.tiles ≤ 8) && decide (b.cohort ≤ 8) && decide (1 ≤ b.grid) && b.scratch % 512 == 0 &&
  decide (b.scratch ≤ 786432)

/-- VCOUNT rounded up to a multiple of 8 (R58). -/
def rowsOf (v : Nat) : Nat := (v + 7) / 8 * 8

/-- One team fits an empty core (R274). -/
def Block.fits (b : Block) : Bool :=
  decide (b.team ≤ 8 * min 16 (768 / rowsOf b.vregs)) && decide (b.team * b.tiles ≤ 32)

/-- An allow-list entry admits an address for a block (R274, R278). -/
def Allow.admits (a : Allow) (b : Block) (va : Nat) : Bool :=
  decide (a.base ≤ va) && decide (va < a.base + bitsAt a.lim 0 32) && decide (b.prio ≤ bitsAt a.lim 32 4) &&
  decide (b.cls ≤ bitsAt a.lim 36 2) && (!b.replay || bitAt a.lim 38) && decide (b.grid ≤ bitsAt a.lim 40 24)

/-- The lowest-indexed entry that admits an address (R279). -/
def admitting (f : Fe) (b : Block) (va : Nat) : Option Allow :=
  (List.range 64).findSome? fun i =>
    let a := Tab.getD f.allow i Allow.empty
    if a.admits b va then some a else none

/-- The cores of a partition (R278). -/
def Fe.coreList (f : Fe) : List Nat := (List.range 128).filter f.owns

/-- Some compute chiplet holds as many cores of the partition as a cohort has teams (R274). -/
def Fe.hasChip (f : Fe) (n : Nat) : Bool :=
  (List.range 16).any fun c => decide (n ≤ (f.coreList.filter fun k => chipOfCore k == c).length)

/-- A block is valid for a partition (R274). -/
def Block.valid (b : Block) (f : Fe) : Bool :=
  b.inRange && b.fits && (admitting f b b.code).isSome && (b.trap == 0 || (admitting f b b.trap).isSome) &&
  (b.cohort == 0 || f.hasChip b.cohort)

/-! ### The Journal -/

/-- The index of an entry (R359). -/
def jindex (jseq : Nat) : Nat := jseq % 65536

/-- The first 56 bytes of an entry (R359). -/
def journalHead (e : JEntry) : List Byte :=
  let w1 := e.state + e.replay.toNat * 2 ^ 3 + e.origin.toNat * 2 ^ 4 + e.code * 2 ^ 8 + e.fin * 2 ^ 16 + e.ver * 2 ^ 20 +
    e.subseq * 2 ^ 32
  [e.jseq, w1, e.parent, e.block, e.tstart, e.tend, e.runs].flatMap (toBytes 8)

/-- One step of a CRC-64 with the reflected polynomial 0x42F0_E1EB_A9EA_3693 (R359). -/
def crcBit (c : Nat) : Nat := if c % 2 = 1 then (c / 2) ^^^ 0xC96C5795D7870F42 else c / 2

/-- One byte of the CRC. -/
def crcByte (c : Nat) (b : Byte) : Nat := (List.range 8).foldl (fun c _ => crcBit c) (c ^^^ b.toNat)

/-- CHECK of a Journal entry (R359). -/
def crc64 (bs : List Byte) : Nat := bs.foldl crcByte (2 ^ 64 - 1) ^^^ (2 ^ 64 - 1)

/-- A Journal entry's 64 bytes (R359). -/
def journalBytes (e : JEntry) : List Byte := journalHead e ++ toBytes 8 (crc64 (journalHead e))

/-- The copy of an entry that is written to a mirror (R361). -/
def JEntry.copy (e : JEntry) : JCopy := { entry := e, check := crc64 (journalHead e) }

/-- The entry of a copy; none where its CHECK fails (R361). -/
def JCopy.read (c : JCopy) : Option JEntry := if c.check = crc64 (journalHead c.entry) then some c.entry else none

/-- Write a change of an entry (R360, R361): VER advances, the change goes to the primary mirror, or to the surviving one, and it is not
durable yet. -/
def putEntry (s : State) (part : Nat) (e : JEntry) : State :=
  s.modFe part fun f =>
    let i := jindex e.jseq
    let v := (Tab.getD f.vers i 0 + 1) % 256
    let e1 := { e with ver := v }
    { f with
      jnl := Tab.set f.jnl e.jseq e1
      vers := Tab.set f.vers i v
      mir0 := if f.serve0 then Tab.set f.mir0 i e1.copy else f.mir0
      mir1 := if f.serve1 && !f.serve0 then Tab.set f.mir1 i e1.copy else f.mir1
      notDurable := if f.notDurable.contains e.jseq then f.notDurable else f.notDurable ++ [e.jseq] }

/-- Change an entry that is held. -/
def changeEntry (s : State) (part jseq : Nat) (h : JEntry → JEntry) : State :=
  match Tab.get? (s.fe part).jnl jseq with
  | some e => putEntry s part (h e)
  | none => s

/-- JOURNAL_DURABLE (R361): the secondary mirror's write is acknowledged too, or that of the surviving mirror alone. What follows from the
change follows now. With no mirror in service nothing is acknowledged (R366). -/
def execJournalDurable (fe jseq : Nat) (s : State) : Host.Outcome State Fault Refusal :=
  let f := s.fe fe
  .next (
    if !f.notDurable.contains jseq || !(f.serve0 || f.serve1) then s
    else s.modFe fe fun f => match Tab.get? f.jnl jseq with
      | some e => { f with
          notDurable := f.notDurable.filter (· != jseq), shown := Tab.set f.shown jseq e
          mir1 := if f.serve1 then Tab.set f.mir1 (jindex jseq) e.copy else f.mir1 }
      | none => { f with notDurable := f.notDurable.filter (· != jseq) })

/-- An entry has ended (R360). -/
def JEntry.ended (e : JEntry) : Bool := e.state == 3 || e.state == 4

/-- The Journal can be read and trusted (R366). -/
def Fe.trusted (f : Fe) : Bool := f.serve0 || f.serve1

/-- There is a free Journal entry (R363). -/
def Fe.jnlRoom (f : Fe) : Bool := f.trusted && decide (f.jnltail - f.jnlhead < 65536)

/-- Pending device launches of a partition (R283): their quota returns when their end is durable (R360). -/
def pendingLaunches (f : Fe) : Nat :=
  (f.jnl.filter fun e => e.2.origin && (!e.2.ended || f.notDurable.contains e.1)).length

/-- The quota that remains (R210, R283). -/
def quotaLeft (f : Fe) : Nat := 4096 - pendingLaunches f

/-! ### Launches -/

/-- The key of a launch. -/
def launchKey (part jseq : Nat) : Nat := jseq * 32 + part

/-- The launches that one descends from, through the Journal; the fuel bounds the chain. -/
def chainOf : Nat → State → Nat → Nat → List Nat
  | 0, _, _, _ => []
  | n + 1, s, part, jseq =>
    match Tab.get? s.launches (launchKey part jseq) with
    | some l => l.ancestors
    | none => match Tab.get? (s.fe part).jnl jseq with
      | some e => if e.parent = 0 then [] else e.parent :: chainOf n s part e.parent
      | none => []

/-- The grants of the entry that admits a block (R279). -/
def grantOf (f : Fe) (b : Block) : Nat :=
  match admitting f b b.code with
  | some a => a.grant
  | none => 0

/-- The launch of a block that has been accepted with these grants (R274, R279). -/
def launchOfBlock (s : State) (part jseq parent : Nat) (b : Block) (grant : Nat) : Launch :=
  { part := part, jseq := jseq, parent := parent
    ancestors := if parent = 0 then [] else parent :: chainOf 4096 s part parent
    code := b.code, params := b.params, trap := b.trap, vregs := b.vregs, team := b.team, tiles := b.tiles, prio := b.prio
    cls := b.cls, replay := b.replay, cohort := b.cohort, grid := b.grid, scratch := b.scratch, dbgen := bitAt grant 0
    fsvc := bitAt grant 1, next := 0, live := 0, started := false, fin := 0, fcode := 0, moved := s.clock, savedFor := 0 }

/-- Accept a launch (R282, R283): it gets the next JSEQ, its entry becomes ACCEPTED, and it waits for placement. The answer's second
part is the JSEQ. -/
def acceptLaunch (s : State) (part parent subseq va : Nat) (origin : Bool) (bs : List Byte) : State × Nat :=
  let jseq := (s.fe part).jnltail
  let b := blockOf bs
  let grant := grantOf (s.fe part) b
  let l := launchOfBlock s part jseq parent b grant
  let e : JEntry :=
    { jseq := jseq, state := 1, replay := b.replay, origin := origin, code := 0, fin := 0, ver := 0, subseq := subseq
      parent := parent, block := va, tstart := 0, tend := 0, runs := 0, blk := bs, grant := grant }
  let s1 := putEntry (s.modFe part fun f => { f with jnltail := jseq + 1 }) part e
  ({ s1 with launches := Tab.set s1.launches (launchKey part jseq) l }, jseq)

/-- A launch is of a queue (R284). -/
def sameQueue (a b : Launch) : Bool := a.part == b.part && a.parent == b.parent

/-- Every earlier launch of its queue has ended (R284, R366). -/
def queueClear (s : State) (l : Launch) : Bool :=
  s.launches.all fun e => !(sameQueue e.2 l && e.2.jseq < l.jseq)

/-- Write the end of a launch (R360). -/
def endLaunch (s : State) (key : Nat) (l : Launch) : State :=
  let fin := if l.fin = 0 then 1 else l.fin
  let s1 := changeEntry s l.part l.jseq fun e => { e with
    state := if fin = 1 then 3 else 4, fin := fin, code := if fin = 2 then l.fcode else 0, tend := s.clock }
  { s1 with launches := Tab.del s1.launches key }

/-- A launch is over but for its place in its queue: its groups have retired, and all its teams were placed or it is to be
aborted (R215, R284). -/
def Launch.over (l : Launch) : Bool := l.live == 0 && (l.fin != 0 || (l.started && decide (l.grid ≤ l.next)))

/-- End the launches that are over, in the order of their queues. -/
def endLaunches (s : State) : State :=
  s.launches.foldl (fun t e =>
    match Tab.get? t.launches e.1 with
    | some l => if l.over && queueClear t l then endLaunch t e.1 l else t
    | none => t) s

/-- A launch descends from another one or is it. -/
def Launch.under (l : Launch) (jseq : Nat) : Bool := l.jseq == jseq || l.ancestors.contains jseq

/-- Kill a launch and its descendants (R210, R215): the first ends as `fin` says with a code, the others as killed; their groups
stop at their next issue boundary. -/
def killLaunch (s : State) (part jseq fin code : Nat) : State :=
  let hit (l : Launch) : Bool := l.part == part && l.under jseq
  let keys := (s.launches.filter fun e => hit e.2).map (·.1)
  { s with
    launches := s.launches.map fun (e : Nat × Launch) =>
      if hit e.2 && e.2.fin == 0 then
        (e.1, { e.2 with fin := if e.2.jseq = jseq then fin else 3, fcode := if e.2.jseq = jseq then code else 0 })
      else e
    groups := s.groups.map fun (g : Nat × Group) => if keys.contains g.2.launch then (g.1, { g.2 with killed := true }) else g }

/-- STATUS of a JOIN by END (R360). -/
def joinStatus (fin : Nat) : Nat := if fin = 1 then 0 else if fin = 2 then 1 else if fin = 3 then 2 else 3

end Sys2Proof.Machine
end

