-- ==== Sys2Proof/Machine/Room.lean ====
section
/-! DEFINITION. Room on a core: register rows and compaction (R58, R277), tiles (R173), slots and scratchpad blocks (R245, R276);
the placement of teams and cohorts (R275, R276); SPAWN's group (R208). -/

namespace Sys2Proof.Machine

/-! ### Rows -/

/-- Groups of a core that hold rows: all but the saved ones. -/
def rowGroups (s : State) (core : Nat) : List (Nat × Group) :=
  s.groups.filter fun e => coreOf e.1 == core && !(e.2.state == .saved) && !(e.2.state == .retired)

/-- The blocks of a sub-core: first row and rows. -/
def blocksOf (s : State) (core sub : Nat) : List (Nat × Nat) :=
  ((rowGroups s core).filter fun e => e.2.subcore == sub).map fun e => (e.2.row0, rowsOf e.2.vcount)

/-- Some block meets `v` rows from `r`. -/
def meets (bs : List (Nat × Nat)) (r v : Nat) : Bool := bs.any fun b => b.1 < r + v && r < b.1 + b.2

/-- The lowest aligned block of `v` free rows (R58). -/
def freeRows (bs : List (Nat × Nat)) (v : Nat) : Option Nat :=
  ((List.range 96).map (8 * ·)).find? fun r => r + v ≤ 768 && !meets bs r v

/-- The lowest sub-core with room for `v` rows, of 16 groups at most (R19, R274, R276), given further blocks taken. -/
def rowPlace (s : State) (core v : Nat) (taken : List (Nat × Nat × Nat)) : Option (Nat × Nat) :=
  (List.range 8).findSome? fun sub =>
    let bs := blocksOf s core sub ++ (taken.filter fun t => t.1 == sub).map (·.2)
    if 16 ≤ bs.length then none else (freeRows bs v).map fun r => (sub, r)

/-- Rows for `n` groups, each on the lowest sub-core with room (R276). -/
def rowPlaces : Nat → State → Nat → Nat → List (Nat × Nat × Nat) → Option (List (Nat × Nat))
  | 0, _, _, _, _ => some []
  | n + 1, s, core, v, taken =>
    match rowPlace s core v taken with
    | none => none
    | some (sub, r) => (rowPlaces n s core v (taken ++ [(sub, r, v)])).map fun l => (sub, r) :: l

/-! ### Compaction -/

/-- A block may be moved (R277): its group is PLACED or PARKED. -/
def movable (g : Group) : Bool := g.state == .placed || g.state == .parked

/-- Move a group's block: its register words move, and their errors with them; what errors the rows had that it comes to is gone (R59,
R61, R62, R277). -/
def moveBlock (s : State) (gid : Nat) (g : Group) (row : Nat) : State :=
  let core := coreOf gid
  let lo := (g.subcore * 768 + g.row0) * 64
  let dst := (g.subcore * 768 + row) * 64
  let n := rowsOf g.vcount * 64
  let inside (a k : Nat) : Bool := decide (a ≤ k) && decide (k < a + n)
  let s1 := if (s.core core).bad.isEmpty then s
    else s.modCore core fun c => { c with
      bad := c.bad.foldl (fun (t : Tab Bool) (e : Nat × Bool) =>
        if inside lo e.1 then Tab.set t (e.1 - lo + dst) e.2 else if inside dst e.1 then t else Tab.set t e.1 e.2) [] }
  s1.modGroup gid fun g => { g with row0 := row }

/-- Compact a sub-core's register file (R277): movable blocks go down, the lowest first, past the others. -/
def compactSub (s : State) (core sub : Nat) : State :=
  let gs := (rowGroups s core).filter fun e => e.2.subcore == sub
  let order := (List.range 96).flatMap fun r => gs.filter fun e => e.2.row0 == 8 * r
  order.foldl (fun t e =>
    match Tab.get? t.groups e.1 with
    | none => t
    | some g =>
      if !movable g then t
      else
        let others := ((rowGroups t core).filter fun y => y.2.subcore == sub && y.1 != e.1).map fun y =>
          (y.2.row0, rowsOf y.2.vcount)
        match freeRows others (rowsOf g.vcount) with
        | some r => if r < g.row0 then moveBlock t e.1 g r else t
        | none => t) s

/-- Free rows of a sub-core. -/
def rowsFree (s : State) (core sub : Nat) : Nat := 768 - (blocksOf s core sub).foldl (fun n b => n + b.2) 0

/-- How many of `n` groups of `v` rows find aligned blocks beside those of a sub-core, one after another (R58). -/
def alignedFit : Nat → List (Nat × Nat) → Nat → Nat
  | 0, _, _ => 0
  | n + 1, bs, v => match freeRows bs v with
    | some r => alignedFit n ((r, v) :: bs) v + 1
    | none => 0

/-- A sub-core has enough free rows for one more of `n` groups than find aligned blocks there, and may hold it (R19, R277). -/
def scattered (s : State) (core sub n v : Nat) : Bool :=
  let bs := blocksOf s core sub
  let k := min n (16 - bs.length)
  decide (0 < v) && decide (alignedFit k bs v < min k (rowsFree s core sub / v))

/-- Compact the sub-cores of a core of which that is so (R277). -/
def compactCore (s : State) (core n v : Nat) : State :=
  (List.range 8).foldl (fun t sub => if scattered t core sub n v then compactSub t core sub else t) s

/-- Rows for `n` groups, compacting where a sub-core has enough free rows but not as an aligned block (R277). -/
def rowPlacesC (s : State) (core n v : Nat) : State × Option (List (Nat × Nat)) :=
  match rowPlaces n s core v [] with
  | some l => (s, some l)
  | none =>
    let t := compactCore s core n v
    match rowPlaces n t core v [] with
    | some l => (t, some l)
    | none => (s, none)

/-! ### Slots, tiles, scratchpad -/

/-- Free slots of a core, lowest first (R265, R276). -/
def freeSlots (s : State) (core : Nat) : List Nat :=
  (List.range 128).filter fun k => (Tab.get? s.groups (core * 128 + k)).isNone

/-- Free physical tiles of a core, lowest first (R173). -/
def freeTiles (s : State) (core : Nat) : List Nat :=
  (List.range 32).filter fun t => (tileOf s core t).owner.isNone && (tileOf s core t).turns.isEmpty

/-- Scratchpad blocks of a core: start and bytes. -/
def padBlocks (s : State) (core : Nat) : List (Nat × Nat) :=
  (s.teams.filter fun t => t.2.core == core).map fun t => (t.2.base, t.2.size)

/-- The lowest place for a scratchpad block of `n` bytes, on a 512-byte boundary (R245; the lowest: log 42). -/
def blockPlace (s : State) (core n : Nat) : Option Nat :=
  let bs := padBlocks s core
  let cand := 0 :: bs.map fun b => b.1 + b.2
  let ok := cand.filter fun a => a + n ≤ 786432 && !(decide (0 < n) && meets bs a n)
  if ok.isEmpty then none else some (minOf ok)

/-- A saved group waits on the core: it is restored before any new team is placed there (R305). -/
def savedHere (s : State) (core : Nat) : Bool := s.groups.any fun e => coreOf e.1 == core && e.2.state == .saved

/-! ### Placing -/

/-- A group at its start (R47, R208, R275): what its launch and its team give it. -/
structure Newcomer where
  gid : Nat
  sub : Nat
  row : Nat
  tiles : List Nat
  launch : Nat
  l : Launch
  team : Nat
  teamid : Word
  cohid : Word
  bprio : Nat
  pc : Nat
  s0 : List Word
  deriving DecidableEq, Repr

/-- The register words of a block and of a slot are written when a group starts: their errors are gone (R47, R61). -/
def freshWords (s : State) (gid sub row v : Nat) : State :=
  let core := coreOf gid
  if (s.core core).bad.isEmpty then s
  else s.modCore core fun c => { c with bad := c.bad.filter fun (e : Nat × Bool) =>
    let r := e.1 / 64
    !(decide (sub * 768 + row ≤ r) && decide (r < sub * 768 + row + v)) &&
    !(decide (6144 + slotOf gid * 384 ≤ r) && decide (r < 6144 + slotOf gid * 384 + 384)) }

/-- Put a group into its slot (R219: PLACED). -/
def enterGroup (s : State) (n : Newcomer) : State :=
  let g : Group := { Group.blank s.clock n.pc with
    launch := n.launch, part := n.l.part, team := n.team, teamid := n.teamid, cohid := n.cohid, vcount := n.l.vregs
    subcore := n.sub, row0 := n.row, tiles := n.tiles, cls := n.l.cls, bprio := n.bprio, prioMax := n.l.prio
    eprio := n.bprio, trapVa := n.l.trap, dbgen := n.l.dbgen, fsvc := n.l.fsvc, uid := s.nextOp }
  let s0 := freshWords s n.gid n.sub n.row (rowsOf n.l.vregs)
  let s1 := { s0 with nextOp := s.nextOp + 1, groups := Tab.set s.groups n.gid (g.writeSs 0 n.s0) }
  let s2 := n.tiles.foldl (fun t k => modTile t (coreOf n.gid) k fun _ => { Tile.empty with owner := some g.uid }) s1
  { s2 with
    teams := Tab.upd s2.teams n.team fun t => { t with alive := t.alive + 1 }
    launches := Tab.upd s2.launches n.launch fun l => { l with live := l.live + 1, moved := s.clock, savedFor := 0 } }

/-- Tiles of the i-th of several groups (R173). -/
def tileShare (ts : List Nat) (per i : Nat) : List Nat := (ts.drop (i * per)).take per

/-- Whether a core can take a team, with the places (R276). -/
def roomFor (s : State) (core : Nat) (l : Launch) : State × Option (List (Nat × Nat) × Nat) :=
  if savedHere s core || (freeSlots s core).length < l.team || (freeTiles s core).length < l.team * l.tiles then (s, none)
  else match blockPlace s core l.scratch with
    | none => (s, none)
    | some base => match rowPlacesC s core l.team (rowsOf l.vregs) with
      | (t, some rows) => (t, some (rows, base))
      | (t, none) => (t, none)

/-- Place one team on a core that has room (R245, R275, R276). -/
def putTeam (s : State) (core key : Nat) (l : Launch) (teamid cohid cohort member : Nat) (rows : List (Nat × Nat)) (base : Nat) :
    State :=
  let name := s.nextOp
  let team : Team :=
    { launch := key, part := l.part, core := core, cohort := cohort, member := member, teams := max 1 l.cohort, base := base
      size := l.scratch, pad := [], poison := [], regions := [], alive := 0, arrivals := [] }
  let slots := freeSlots s core
  let ts := freeTiles s core
  let s1 := { s with nextOp := name + 1, teams := Tab.set s.teams name team }
  (List.range l.team).foldl (fun t i =>
    enterGroup t
      { gid := core * 128 + nth slots i 0, sub := (nth rows i (0, 0)).1, row := (nth rows i (0, 0)).2
        tiles := tileShare ts l.tiles i, launch := key, l := l, team := name, teamid := BitVec.ofNat 32 teamid
        cohid := BitVec.ofNat 32 cohid, bprio := l.prio, pc := l.code, s0 := qWords l.params }) s1

/-- The first team or cohort of a launch is placed: STARTED (R360). -/
def startLaunch (s : State) (key : Nat) (l : Launch) : State :=
  if l.started then s
  else
    let s1 := changeEntry s l.part l.jseq fun e => { e with state := 2, runs := e.runs + 1, tstart := s.clock }
    { s1 with launches := Tab.upd s1.launches key fun l => { l with started := true } }

/-- The partition places work (R276, R364): it is enabled, no reset runs, and its Journal can be trusted. -/
def Fe.places (f : Fe) : Bool := f.en && !f.rst && f.trusted

/-- The launch whose team or cohort is next (R276): the earliest with some left that is not to end; its ACCEPTED entry is durable. -/
def nextLaunch (s : State) (part : Nat) : Option (Nat × Launch) :=
  match s.launches.find? fun e => e.2.part == part && e.2.fin == 0 && decide (e.2.next < e.2.grid) with
  | some (k, l) => if !l.started && (s.fe part).notDurable.contains l.jseq then none else some (k, l)
  | none => none

/-- Cores of a partition from its placement pointer on, wrapping (R276). -/
def fromPointer (f : Fe) : List Nat :=
  (f.coreList.filter fun c => f.pointer ≤ c) ++ (f.coreList.filter fun c => c < f.pointer)

/-- The core after one, wrapping (R276). -/
def coreAfter (f : Fe) (c : Nat) : Nat := if c = bitsAt f.cores 8 7 then bitsAt f.cores 0 7 else c + 1

/-- Place the next team of a launch of teams. -/
def placeTeam (s : State) (part key : Nat) (l : Launch) : State :=
  let f := s.fe part
  match (fromPointer f).findSome? fun c => match roomFor s c l with
    | (t, some r) => some (t, c, r)
    | (_, none) => none with
  | none => s
  | some (t, c, rows, base) =>
    let s1 := startLaunch (putTeam t c key l l.next 0xFFFFFFFF t.nextOp 0 rows base) key l
    { s1.modFe part fun f => { f with pointer := coreAfter f c } with
      launches := Tab.upd s1.launches key fun l => { l with next := l.next + 1 } }

/-- TEAM_PLACEMENT (R276). -/
def execTeamPlacement (fe : Nat) (s : State) : Host.Outcome State Fault Refusal :=
  .next (match nextLaunch s fe with
    | some (k, l) => if (s.fe fe).places && l.cohort == 0 then placeTeam s fe k l else s
    | none => s)

/-- Cores of a chiplet that can each take a team of a cohort, the lowest first; the state is that of the compactions. -/
def cohortCores (s : State) (f : Fe) (chip : Nat) (l : Launch) : State × List (Nat × List (Nat × Nat) × Nat) :=
  (f.coreList.filter fun c => chipOfCore c == chip).foldl
    (fun (st : State × List (Nat × List (Nat × Nat) × Nat)) c =>
      if l.cohort ≤ st.2.length then st
      else match roomFor st.1 c l with
        | (t, some (rows, base)) => (t, st.2 ++ [(c, rows, base)])
        | (t, none) => (t, st.2)) (s, [])

/-- Chiplets from the one that holds the pointer on, wrapping (R276). -/
def chipsFrom (f : Fe) : List Nat := ((fromPointer f).map chipOfCore).eraseDups

/-- Place the next cohort: all its teams start in one step (R276). -/
def placeCohort (s : State) (part key : Nat) (l : Launch) : State :=
  let f := s.fe part
  match (chipsFrom f).findSome? fun c => match cohortCores s f c l with
    | (t, cs) => if l.cohort ≤ cs.length then some (t, cs) else none with
  | none => s
  | some (t, cs) =>
    let name := t.nextOp
    let t1 := { t with nextOp := name + 1 }
    let s1 := (cs.zipIdx).foldl (fun u (e : (Nat × List (Nat × Nat) × Nat) × Nat) =>
      putTeam u e.1.1 key l (l.next * l.cohort + e.2) l.next name e.2 e.1.2.1 e.1.2.2) t1
    let s2 := startLaunch s1 key l
    let last := (cs.map (·.1)).foldl max 0
    { s2.modFe part fun f => { f with pointer := coreAfter f last } with
      launches := Tab.upd s2.launches key fun l => { l with next := l.next + 1 } }

/-- COHORT_PLACEMENT (R276). -/
def execCohortPlacement (fe : Nat) (s : State) : Host.Outcome State Fault Refusal :=
  .next (match nextLaunch s fe with
    | some (k, l) => if (s.fe fe).places && l.cohort != 0 then placeCohort s fe k l else s
    | none => s)

/-- REGISTER_COMPACTION (R277): for the teams and saved groups that wait for rows. -/
def execRegisterCompaction (core : Nat) (s : State) : Host.Outcome State Fault Refusal :=
  let waiting := (s.launches.filter fun e => e.2.fin == 0 && decide (e.2.next < e.2.grid) && (s.fe e.2.part).owns core).map fun e =>
    (e.2.team, rowsOf e.2.vregs)
  let saved := (s.groups.filter fun e => coreOf e.1 == core && e.2.state == .saved).map fun e => (1, rowsOf e.2.vcount)
  .next ((waiting ++ saved).foldl (fun t w => compactCore t core w.1 w.2) s)

/-! ### SPAWN -/

/-- The registers Sv to Sv+7 (R207): an S register whose index is a multiple of 8. -/
def eightUse : Sel → Use
  | .s n => if n % 8 = 0 then { Use.none with rd := (regSpan n 8).map keyS } else Use.illegal
  | _ => Use.illegal

/-- Their values. -/
def eightWords (x : Ctx) : Sel → List Word
  | .s n => (regSpan n 8).map fun r => x.g.sreg r
  | _ => []

/-- Start one group beside the spawner (R208): the state and the slot, if it is placed. Its PC is the code VA as it stands (log 96). -/
def spawnGroup (s : State) (x : Ctx) (pc : Nat) (args : List Word) : Option (State × Nat) :=
  let core := coreOf x.gid
  match Tab.get? s.launches x.g.launch, (freeSlots s core).head? with
  | some l, some slot =>
    let ts := (freeTiles s core).take l.tiles
    if ts.length < l.tiles then none
    else match rowPlacesC s core 1 (rowsOf l.vregs) with
      | (t, some ((sub, row) :: _)) =>
        some (enterGroup t
          { gid := core * 128 + slot, sub := sub, row := row, tiles := ts, launch := x.g.launch, l := l, team := x.g.team
            teamid := x.g.teamid, cohid := x.g.cohid, bprio := x.g.bprio, pc := pc, s0 := args }, slot)
      | _ => none
  | _, _ => none

/-- SPAWN (R208). Of a code VA that is no multiple of 4 it says nothing: the group starts there and fetches there (DESIGN CHOICE, log 96). -/
def execSpawn (f : Lg) (s : State) : Host.Outcome State Fault Refusal :=
  let os : Opnds := [(.d, .dstS false true), (.a, .spair false)]
  withIssuer s fun x =>
    if !lgOk 0x22 0 f then takeTrap s x 0x01 0 0
    else
      let u := Use.and (usesOf (lgView f) os) (eightUse (sel10 f.b))
      match operandGate s x u with
      | .go =>
        let s1 := useRegs s x u.rd
        match spawnGroup s1 x (uval s x f os .a) (eightWords x (sel10 f.b)) with
        | some (t, slot) => nextLg (setScc (writeUni t x (sel10 f.d) false slot) x true) x f
        | none => nextLg (setScc (writeUni s1 x (sel10 f.d) false 0xFFFFFFFF) x false) x f
      | g => stopAt s x g

end Sys2Proof.Machine
end

