-- ==== Sys2Proof/Machine/Retire.lean ====
section
/-! DEFINITION. The end of a group (R34, R193, R203, R219, R220), of its team (R245) and of a killed launch's jobs (R210, R303). -/

namespace Sys2Proof.Machine

/-- Remove an operation that is discarded, with the fault event it stopped at (R303). -/
def dropOps (s : State) (p : Op → Bool) : State :=
  let ids := (s.ops.filter fun e => p e.2).map (·.1)
  { s with
    ops := s.ops.filter fun (e : Nat × Op) => !p e.2
    events := s.events.filter fun (e : Nat × FaultEvent) => match e.2.agent with
      | .op id => !ids.contains id
      | _ => true }

/-- Fault events of a group's own fetches, blocks, objects and breaks are gone with it (R303). -/
def dropGroupEvents (s : State) (gid : Nat) : State :=
  { s with events := s.events.filter fun (e : Nat × FaultEvent) => match e.2.agent with
      | .fetch g _ => g != gid
      | .launchBlock g _ => g != gid
      | .access g _ => g != gid
      | .debug g _ => g != gid
      | .object g _ => g != gid
      | _ => true }

/-- Discard matrix jobs (R182): their turns, and their fault events. -/
def dropJobs (s : State) (p : MJob → Bool) : State :=
  let ids := (s.mjobs.filter fun e => p e.2).map (·.1)
  let keep (a : Agent) : Bool := match a with
    | .matrix _ k => !ids.contains k
    | _ => true
  if ids.isEmpty then s
  else { s with
    mjobs := s.mjobs.filter fun (e : Nat × MJob) => !p e.2
    ops := s.ops.filter fun (e : Nat × Op) => !ids.contains e.1
    cores := s.cores.map fun (c : Nat × Core) =>
      (c.1, { c.2 with tiles := c.2.tiles.map fun (t : Nat × Tile) =>
        (t.1, { t.2 with turns := t.2.turns.filter fun k => !ids.contains k }) })
    past := s.past.filter fun (e : PastEvent) => keep e.agent
    events := s.events.filter fun (e : Nat × FaultEvent) => keep e.2.agent }

/-- Discard Churn jobs and collective jobs (R303). -/
def dropEngines (s : State) (ch : Churn → Bool) (co : Coll → Bool) : State :=
  let a := (s.churns.filter fun e => ch e.2).map (·.1)
  let b := (s.colls.filter fun e => co e.2).map (·.1)
  let keep (y : Agent) : Bool := match y with
    | .churn k => !a.contains k
    | .coll k => !b.contains k
    | _ => true
  { s with
    churns := s.churns.filter fun (e : Nat × Churn) => !ch e.2
    colls := s.colls.filter fun (e : Nat × Coll) => !co e.2
    past := s.past.filter fun (e : PastEvent) => keep e.agent
    events := s.events.filter fun (e : Nat × FaultEvent) => keep e.2.agent }

/-! ### Teams -/

/-- The launch is to be aborted. -/
def aborted (s : State) (launch : Nat) : Bool := match Tab.get? s.launches launch with
  | some l => l.fin != 0
  | none => false

/-- A copy of the team still runs (R249): one of its own, or a share of a slice set of which a chunk can still arrive. -/
def copyLeft (s : State) (team : Nat) (t : Team) : Bool :=
  t.regions.any fun e => e.2.state == 2 || (e.2.state == 3 && (match Tab.get? s.sliceSets (setKey t e.1) with
    | some z => z.teams.contains team && (List.range e.2.chunkCount).any fun c => !bitAt e.2.chunks c && (fetcherOf s z c).isSome
    | none => false))

/-- The scratchpads of a cohort whose teams have all retired are released (R245), and with them its slice sets, once the copies that run have
been completed (R249); those of an aborted launch at once (R303). -/
def releaseTeams (s : State) (launch cohort : Nat) : State :=
  let mine (t : Team) : Bool := t.launch == launch && t.cohort == cohort
  if s.teams.any fun e => mine e.2 && (e.2.alive != 0 || (!aborted s launch && copyLeft s e.1 e.2)) then s
  else
    let names := (s.teams.filter fun e => mine e.2).map (·.1)
    { s with
      teams := s.teams.filter fun (e : Nat × Team) => !mine e.2
      sliceSets := s.sliceSets.filter fun (z : Nat × SliceSet) => z.1 / 64 != cohort
      events := s.events.filter fun (e : Nat × FaultEvent) => match e.2.agent with
        | .window t _ => !names.contains t
        | _ => true }

/-- Scratchpads whose last copy has ended are released (R249). -/
def releaseIdle (s : State) : State :=
  (s.teams.filter fun e => e.2.alive == 0).foldl (fun t e => releaseTeams t e.2.launch e.2.cohort) s

/-- A group of a team has retired. -/
def leaveTeam (s : State) (team : Nat) : State :=
  match Tab.get? s.teams team with
  | none => s
  | some t => releaseTeams (s.modTeam team fun t => { t with alive := t.alive - 1 }) t.launch t.cohort

/-! ### Groups -/

/-- The Proctor event of each lock that a retiring group still owns (R203, R337). -/
def tapLocks (s : State) (gid : Nat) (g : Group) : State :=
  g.locks.foldl (fun t l =>
    if ownerOf (objRead t l.2.1 l.2.2 16) = gidOf gid then
      tap t (chipOfCore (coreOf gid)) 16 (some g.part) [2, gidOf gid, l.1]
    else t) s

/-- RETIRED (R219): slot, registers, tiles and split table return to the core, and the slot's GEN advances. `discard`: its
outstanding operations are discarded (R220); otherwise those without a flag go on, and what they bring back to a register is dropped
(log 30); one that is stopped at a fault ends with its group, and its resume finds nothing (R303). -/
def retireGroup (s : State) (gid : Nat) (discard : Bool) : State :=
  match Tab.get? s.groups gid with
  | none => s
  | some g =>
    let core := coreOf gid
    let s1 := dropAllEntries (tapLocks s gid g) fun e => e.uid == g.uid
    let s2 := dropGroupEvents (dropOps s1 fun o => o.uid == g.uid && (match o.kind with
      | .prefetch => true
      | .drain => false
      | _ => discard || o.isFaulted)) gid
    let s3 := if discard then dropJobs s2 fun j => j.uid == g.uid else s2
    let s4 := { s3 with
      ops := s3.ops.map fun (e : Nat × Op) => if e.2.uid = g.uid then (e.1, { e.2 with pts := max e.2.pts g.pts }) else e
      notes := s3.notes.filter fun (n : Nat × Note) => !(n.2.uid == g.uid && n.2.stage == 0)
      works := s3.works.filter fun (w : Nat × Work) => w.2.uid != g.uid
      launches := Tab.upd s3.launches g.launch fun l => { l with live := l.live - 1, moved := s.clock, savedFor := 0 } }
    let s5 := g.tiles.foldl (fun t k => modTile t core k fun y => { y with owner := none }) s4
    let s6 := advanceGen (setGState s5 gid .retired) gid
    leaveTeam { s6 with
      groups := Tab.del s6.groups gid
      fes := s6.fes.map fun (f : Nat × Fe) => (f.1, { f.2 with
        saveOrder := f.2.saveOrder.filter (· != gid), restores := f.2.restores.filter (· != gid) }) } g.team

/-- The conditions under which a group retires (R34, R219): no flag is set, and every note is answered. -/
def mayRetire (s : State) (g : Group) : Bool :=
  (g.fcnt.all fun n => n == 0) && s.notes.all fun n => n.2.uid != g.uid

/-- The failures not yet raised (R34, R199): the lowest flag, then those of notes without a flag. -/
def lastFailure (g : Group) : Option (Nat × NoteFail) := g.nrec.find? fun e => !e.2.raised

/-- Revive the fragment of the last EXIT in its trap handler, for one failure (R34). -/
def reviveExit (s : State) (gid n : Nat) (r : NoteFail) (fi : Nat) (f : Frag) : State :=
  let f1 : Frag := { f with region := none, depth := 0, cond := .ready, since := s.clock }
  let s1 := s.modGroup gid fun g => { g with
    nrec := Tab.set g.nrec n { r with raised := true }, exited := none, split := Tab.set g.split fi (.frag f1) }
  takeTrapAt (setGState s1 gid .running) gid fi f1 f1.pc0 f1.pc f1.idx (failCode r.cause) false r.pass.toNat
    (min n 15 + r.cause * 2 ^ 8) f1.scc (formatWords f1)

/-- What becomes of a group at the end of a step (R34, R215, R220). -/
def retireStep (s : State) (gid : Nat) : State :=
  match Tab.get? s.groups gid with
  | none => s
  | some g =>
    if g.killed then retireGroup (match g.trapKill with
      | some code => killLaunch s g.part (g.launch / 32) 2 code
      | none => s) gid true
    else match g.state with
      | .retiring =>
        if !mayRetire s g then wantRelease s (coreOf gid) g.uid true
        else match lastFailure g, g.exited with
          | some (n, r), some (fi, f) => reviveExit s gid n r fi f
          | _, _ => retireGroup s gid false
      | _ => s

/-- Engine jobs of launches that are to be aborted are discarded (R210, R303). -/
def discardJobs (s : State) : State :=
  let gone := (s.launches.filter fun e => e.2.fin != 0).map (·.1)
  if gone.isEmpty then s
  else dropEngines (dropJobs s fun j => gone.contains j.launch) (fun c => gone.contains c.launch) fun c => gone.contains c.launch

/-- Groups that are killed or done retire, until none is left to (a trap without a handler kills others). -/
def retireAll (s : State) : State :=
  let pass (t : State) : State := (Tab.keys t.groups).foldl retireStep t
  endLaunches (discardJobs (pass (pass s)))

end Sys2Proof.Machine
end

