-- ==== Sys2Proof/Machine/Work.lean ====
section
/-! DEFINITION. WORK (R207 to R210, R283, R284): LAUNCH, JOIN, KILL, QUOTA, and CTOPV (R211). SPAWN is in Room.lean, COLL in
Ednan.lean. -/

namespace Sys2Proof.Machine

/-- A Q6 entry (R209). -/
def q6Words (handle status kind code : Nat) : List Word :=
  qWords (handle % 2 ^ 48 + status % 16 * 2 ^ 48 + kind * 2 ^ 52 + code % 256 * 2 ^ 56)

/-- The handle that an S pair holds, as a JSEQ (R209; its upper bits must be zero: log 43). -/
def handleOps : Opnds := [(.a, .spair false)]

/-! ### LAUNCH -/

/-- The 64 bytes of a launch block, if they can be read; a fault parks the group (R283, R300). -/
def readBlock (s : State) (gid fi : Nat) (g : Group) (va : Nat) : State × Option (List Byte) :=
  let r := vaRead s (groupXer gid g) .load false va 64
  match r.2 with
  | .ok bs => (r.1, some bs)
  | .error bad => (groupFault r.1 gid fi g 10 (.launchBlock gid (fragId g fi)) (badAt va bad), none)

/-- A partition accepts a device launch now (R283, R363). -/
def takesLaunch (f : Fe) : Bool := decide (0 < quotaLeft f) && f.jnlRoom && !f.rst

/-- The LAUNCH of a fragment that waits for quota. -/
def launchWork (s : State) (uid frag : Nat) : Option (Nat × Work) :=
  s.works.find? fun w => w.2.uid == uid && w.2.frag == frag && !w.2.join

/-- Submit a child (R283): its entry arrives with STATUS 0 and the handle. -/
def submitChild (s : State) (gid op part launch va : Nat) (bs : List Byte) : State :=
  let r := acceptLaunch s part (launch / 32) 0 va true bs
  giveResult r.1 gid 6 op (q6Words r.2 0 1 0)

/-- Reserve the Q6 entry of a LAUNCH or JOIN, under a new name, and count its flag (R31, R53, R209). -/
def reserveWork (s : State) (x : Ctx) (fl : Option Nat) : State × Nat :=
  ({ s with nextOp := s.nextOp + 1 }.modGroup x.gid fun g => countFlag (reserveQueue g 6 s.nextOp fl) fl, s.nextOp)

/-- The entry of a wait for quota or a child, and its unit. -/
def workEntry (s : State) (w : Work) : Option (Nat × AttEnt) :=
  ((s.chip (attChip w.gid)).att.find? fun e => e.2.uid == w.uid && e.2.frag == w.frag && e.2.st == 1 &&
    e.2.kind == (if w.join then 7 else 6) && (!w.join || e.2.obj == w.arg)).map fun e => (attChip w.gid, e.2)

/-- A LAUNCH waits no more: its entry, if it has one, is freed. -/
def endWork (s : State) (op : Nat) : State :=
  match Tab.get? s.works op with
  | none => s
  | some w => match workEntry s w with
    | some (chip, e) => { dropEntries s chip fun y => y == e with works := Tab.del s.works op }
    | none => { s with works := Tab.del s.works op }

/-- LAUNCH ends with a Q6 entry that has no child (R209). -/
def launchFails (t : State) (x : Ctx) (f : Lg) (op status : Nat) : State :=
  nextLg (giveResult (endWork t op) x.gid 6 op (q6Words 0 status 1 0)) x f

/-- A LAUNCH that has been refused at first and may wait for quota (R205, R210): it registers. -/
def launchWaits (t : State) (x : Ctx) (f : Lg) (op va : Nat) : State :=
  match register t (attBlank x.gid x.f.id x.g 6 0 x.g.part) with
  | (u, true) =>
    let w : Work := { join := false, gid := x.gid, uid := x.g.uid, frag := x.f.id, part := x.g.part, arg := va, go := false }
    parkIssued { u with works := Tab.set u.works op w } x .att
  | (u, false) => launchFails (overflowed u x) x f op 1

/-- LAUNCH with its block read (R210): what becomes of it. `t` is the state with the sources read and the entry reserved as `op`. The
HANDLE of an entry without a child is 0 (log 92). -/
def launchNow (t : State) (x : Ctx) (f : Lg) (op va : Nat) (bs : List Byte) : State :=
  let fe := t.fe x.g.part
  if va % 64 ≠ 0 || !(blockOf bs).valid fe then launchFails t x f op 2
  else if takesLaunch fe then nextLg (submitChild (endWork t op) x.gid op x.g.part x.g.launch va bs) x f
  else if !bitAt f.mod.toNat 0 then launchFails t x f op 1
  else if (Tab.get? t.works op).isSome then
    parkIssued { t with works := Tab.upd t.works op fun w => { w with go := false } } x .att
  else launchWaits t x f op va

/-- LAUNCH at its first issue. -/
def launchFirst (f : Lg) (s : State) : Host.Outcome State Fault Refusal :=
  runLg s 0x22 1 anyone f handleOps fun x s1 =>
    let va := uval s x f handleOps .a
    if queueFree x.g 6 = 0 then park s x (.entries 6 1)
    else withFlag s x f fun fl =>
      if va % 64 ≠ 0 then
        let r := reserveWork s1 x fl
        launchNow r.1 x f r.2 va []
      else match readBlock s x.gid x.fi x.g va with
        | (t, none) => t
        | (t, some bs) =>
          let r := reserveWork (readSources t x (lgView f) handleOps) x fl
          launchNow r.1 x f r.2 va bs

/-- LAUNCH (R207, R209, R210, R283). One that waited for quota goes on with the address and the entry that it had: its sources are read
once. -/
def execLaunch (f : Lg) (s : State) : Host.Outcome State Fault Refusal :=
  match s.issuer.bind fun x => (launchWork s x.g.uid x.f.id).map fun w => (x, w) with
  | some (x, op, w) => .next (match readBlock s x.gid x.fi x.g w.arg with
    | (t, none) => t
    | (t, some bs) => launchNow t x f op w.arg bs)
  | none => launchFirst f s

/-! ### JOIN, KILL, QUOTA, CTOPV -/

/-- The entry of a launch started by a group of a launch (R210). -/
def childEntry (s : State) (part parent jseq : Nat) : Option JEntry :=
  match Tab.get? (s.fe part).jnl jseq with
  | some e => if e.origin && e.parent == parent then some e else none
  | none => none

/-- The child's end is durable (R360). -/
def childEnded (s : State) (part jseq : Nat) : Option JEntry :=
  match Tab.get? (s.fe part).jnl jseq with
  | some e => if e.ended && !(s.fe part).notDurable.contains jseq then some e else none
  | none => none

/-- The Q6 entry of a JOIN whose child has ended (R209, R360). -/
def joinWords (e : JEntry) : List Word := q6Words e.jseq (joinStatus e.fin) 2 (if e.fin = 2 then e.code else 0)

/-- JOIN (R207, R209, R210). Where there is no such child, HANDLE is the operand's low 48 bits (log 92). -/
def execJoin (f : Lg) (s : State) : Host.Outcome State Fault Refusal :=
  runLg s 0x22 2 anyone f handleOps fun x s1 =>
    let h := uval s x f handleOps .a
    if queueFree x.g 6 = 0 then park s x (.entries 6 1)
    else withFlag s x f fun fl =>
      let r := reserveWork s1 x fl
      match childEntry s x.g.part (x.g.launch / 32) h with
      | none => nextLg (giveResult r.1 x.gid 6 r.2 (q6Words h 4 2 0)) x f
      | some _ => match childEnded s x.g.part h with
        | some e => nextLg (giveResult r.1 x.gid 6 r.2 (joinWords e)) x f
        | none =>
          let w : Work := { join := true, gid := x.gid, uid := x.g.uid, frag := x.f.id, part := x.g.part, arg := h, go := false }
          let t := { r.1 with works := Tab.set r.1.works r.2 w }
          match register t { attBlank x.gid x.f.id x.g 7 0 h with hk := true, hl := true, holder := h % 2 ^ 32 } with
          | (u, true) => parkIssued u x .att
          | (u, false) => nextLg (overflowed u x) x f

/-- A launch descends from another one of its partition (R210). -/
def descends (s : State) (part jseq anc : Nat) : Bool :=
  match Tab.get? s.launches (launchKey part jseq) with
  | some l => l.ancestors.contains anc
  | none => (Tab.get? (s.fe part).jnl jseq).isSome && (chainOf 4096 s part jseq).contains anc

/-- KILL (R207, R210). -/
def execKill (f : Lg) (s : State) : Host.Outcome State Fault Refusal :=
  runLg s 0x22 3 anyone f handleOps fun x s1 =>
    let h := uval s x f handleOps .a
    if descends s x.g.part h (x.g.launch / 32) then nextLg (setScc (killLaunch s1 x.g.part h 3 0) x true) x f
    else nextLg (setScc s1 x false) x f

/-- QUOTA (R207, R210). -/
def execQuota (f : Lg) (s : State) : Host.Outcome State Fault Refusal :=
  runLg s 0x22 4 anyone f [(.d, .dstS false false)] fun x s1 =>
    nextLg (writeUni s1 x (sel10 f.d) false (quotaLeft (s.fe x.g.part))) x f

/-- CTOPV (R211). -/
def execCtopv (f : Lg) (s : State) : Host.Outcome State Fault Refusal :=
  let os : Opnds := [(.d, .dstS false true), (.a, .uni .n32)]
  runLg s 0x22 6 anyone f os fun x s1 =>
    let v := uval s x f os .a
    nextLg (setScc (writeUni s1 x (sel10 f.d) false (s.topv % 2 ^ 16)) x (s.topv % 2 ^ 16 == v % 2 ^ 16)) x f

/-! ### What ends the waits -/

/-- The wait ends: the entry is freed, and the fragment's instruction completes with SCC as it is. -/
def endWait (s : State) (w : Work) : State :=
  match workEntry s w with
  | none => s
  | some (chip, e) =>
    let s1 := dropEntries s chip fun y => y == e
    match groupBy s1 w.uid with
    | none => s1
    | some (gid, g) => match g.namedFrag w.frag with
      | some (fi, f) => finishWait s1 gid fi f.scc
      | none => s1

/-- Waiting LAUNCHes of a partition that go on with quota they have not yet taken. -/
def launchesGoing (s : State) (part : Nat) : Nat := (s.works.filter fun e => !e.2.join && e.2.go && e.2.part == part).length

/-- A LAUNCH.w goes on when quota has returned for it (R210): its fragment issues it again, which reads its block now that it is accepted
(R274) and keeps the Q6 entry reserved. Its entry is freed once the launch is accepted: what another LAUNCH takes meanwhile leaves it
waiting. -/
def serveLaunch (s : State) (op : Nat) (w : Work) : State :=
  if w.go || !takesLaunch (s.fe w.part) || quotaLeft (s.fe w.part) ≤ launchesGoing s w.part then s
  else match workEntry s w, groupBy s w.uid with
    | some _, some (gid, g) => match g.namedFrag w.frag with
      | some (fi, _) =>
        { s with works := Tab.upd s.works op fun w => { w with go := true } }.modFrag gid fi fun f =>
          { f with cond := .ready, since := s.clock }
      | none => s
    | _, _ => s

/-- A JOIN's entry is written when its child has ended (R210, R284). -/
def serveJoin (s : State) (op : Nat) (w : Work) : State :=
  match childEnded s w.part w.arg with
  | some e => endWait (setResult { s with works := Tab.del s.works op } w.uid 6 op (joinWords e)) w
  | none => s

/-- LAUNCHes and JOINs that wait, in the order of their issue. -/
def serveWorks (s : State) : State :=
  s.works.foldl (fun t e => if e.2.join then serveJoin t e.1 e.2 else serveLaunch t e.1 e.2) s

end Sys2Proof.Machine
end

