-- ==== Sys2Proof/Machine/Ednan.lean ====
section
/-! DEFINITION. Ednan: ports and training (R353, R354), routing tables and topology versions (R355 to R357), communicators
(R358), COLL and collective jobs (R211). A contribution travels in pieces, a flit each (log 48). -/

namespace Sys2Proof.Machine

/-! ### Packets -/

/-- A port of a state. -/
def State.edPort (s : State) (p : Nat) : EdPort := Tab.getD s.ed.ports p EdPort.empty

/-- Change a port. -/
def State.modPort (s : State) (p : Nat) (f : EdPort → EdPort) : State :=
  { s with ed := { s.ed with ports := Tab.set s.ed.ports p (f (s.edPort p)) } }

/-- A communicator of a state. -/
def State.comm (s : State) (c : Nat) : Comm := Tab.getD s.ed.comms c Comm.empty

/-- Change a communicator. -/
def State.modComm (s : State) (c : Nat) (f : Comm → Comm) : State :=
  { s with ed := { s.ed with comms := Tab.set s.ed.comms c (f (s.comm c)) } }

/-- The output port of a destination device, if its active entry is valid (R355). -/
def edRoute (s : State) (dest : Nat) : Option Nat :=
  let e := Tab.getD s.ed.active dest 0
  if bitAt e 4 then some (bitsAt e 0 4) else none

/-- A port in RUN sends what its replay buffer of 512 flits has room for, each with the next link sequence number (R353). -/
def EdPort.pump (q : EdPort) : EdPort :=
  if q.st ≠ 3 then q
  else
    let new := q.queue.take (512 - q.sent.length)
    { q with
      queue := q.queue.drop new.length
      sent := q.sent ++ new.zipIdx.map fun e => { e.1 with lseq := (q.lseq + e.2) % 2 ^ 12 }
      lseq := (q.lseq + new.length) % 2 ^ 12 }

/-- Give a packet to a port. -/
def putPacket (s : State) (p : Nat) (pkt : Packet) : State := s.modPort p fun q => { q with queue := q.queue ++ [pkt] }.pump

/-- Send a packet by the active table; it goes nowhere where its destination has no valid entry. -/
def routePacket (s : State) (pkt : Packet) : State :=
  match edRoute s pkt.dest with
  | some p => putPacket s p pkt
  | none => s

/-- Ranks of a communicator (R358). -/
def Comm.ranksN (c : Comm) : Nat := bitsAt c.cfg 6 12 + 1

/-- This device's rank (R358). -/
def Comm.own (c : Comm) : Nat := bitsAt c.cfg 18 12

/-- The other ranks, in increasing order, with their devices. -/
def Comm.others (c : Comm) : List (Nat × Nat) :=
  ((List.range c.ranksN).filter fun r => r != c.own).map fun r => (r, Tab.getD c.ranks r 0)

/-- The packet of a type that a job sends to a device (R211, R353, R357): a NACK carries the current version. -/
def jobPacket (s : State) (c : Coll) (dest typ : Nat) (last : Bool) (data : List Byte) : Packet :=
  { typ := typ, lseq := 0, vc := 0, topv := if typ = 1 then s.topv else c.topv, dest := dest, src := s.ed.devid, comm := c.comm, seq := c.seq
    rank := (s.comm c.comm).own, kind := c.kind, count := c.count, ty := c.ty, op := c.op, last := last, data := data }

/-- Tell every other participant of a job by a packet of a type. -/
def tellAll (s : State) (c : Coll) (typ : Nat) : State :=
  (s.comm c.comm).others.foldl (fun t r => routePacket t (jobPacket t c r.2 typ true [])) s

/-- A job must end STALE (1) or with a mismatch (3), and every other participant is told, so that its own ends so (R357, R358). -/
def concludeColl (s : State) (id st : Nat) : State :=
  match Tab.get? s.colls id with
  | none => s
  | some c =>
    if c.status.isSome then s
    else tellAll { s with colls := Tab.upd s.colls id fun c => { c with status := some st, event := none } } c st

/-- A job becomes STALE (R357). -/
def markStale (s : State) (id : Nat) : State := concludeColl s id 1

/-- The job of a communicator and sequence number at this device. -/
def findColl (s : State) (comm seq : Nat) : Option (Nat × Coll) :=
  s.colls.find? fun e => e.2.comm == comm && e.2.seq == seq

/-- A collective on a communicator is running (R358). -/
def commBusy (s : State) (comm : Nat) : Bool := s.colls.any fun e => e.2.comm == comm

/-- A participant's COLL differs from the job's in COUNT, TYPE, OP or kind (R211, R358). -/
def Coll.differs (c : Coll) (pkt : Packet) : Bool :=
  !(pkt.kind == c.kind && pkt.count == c.count && pkt.ty == c.ty && (c.kind == 1 || pkt.op == c.op))

/-- A piece of a participant's contribution has been accepted; with the last the contribution is whole. -/
def acceptPacket (c : Coll) (pkt : Packet) : Coll :=
  let bs := Tab.getD c.pieces pkt.rank [] ++ pkt.data
  if pkt.last then { c with got := Tab.set c.got pkt.rank bs, pieces := Tab.del c.pieces pkt.rank }
  else { c with pieces := Tab.set c.pieces pkt.rank bs }

/-- A job takes a piece of another participant's contribution, or ends with a mismatch (R358). -/
def takePiece (s : State) (id : Nat) (pkt : Packet) : State :=
  match Tab.get? s.colls id with
  | none => s
  | some c => if c.differs pkt then concludeColl s id 3 else { s with colls := Tab.set s.colls id (acceptPacket c pkt) }

/-! ### COLL -/

/-- The descriptor's reserved bits are zero and its OP is listed (R211). -/
def collOk (kind : Nat) (ws : List Word) : Bool :=
  let w5 := (nth ws 5 0).toNat
  bitsAt w5 2 2 == 0 && bitsAt w5 6 26 == 0 && (kind == 1 || bitsAt w5 4 2 != 3) &&
    bitsAt (nth ws 6 0).toNat 16 16 == 0 && bitsAt (nth ws 7 0).toNat 16 16 == 0

/-- A communicator that the issuing group may use (R358). -/
def commUsable (s : State) (part comm : Nat) : Bool :=
  let c := s.comm comm
  comm < 1024 && bitAt c.cfg 0 && bitsAt c.cfg 1 5 == part

/-- The Q5 entry (R211). -/
def q5Words (s : State) (status seq : Nat) : List Word :=
  qWords (status + s.topv % 2 ^ 16 * 2 ^ 16 + seq % 2 ^ 32 * 2 ^ 32)

/-- Start a job on a communicator: it takes its sequence number (R358). -/
def newColl (s : State) (x : Ctx) (id kind : Nat) (ws : List Word) : State :=
  let w (n : Nat) : Nat := (nth ws n 0).toNat
  let comm := bitsAt (w 6) 0 16
  let seq := (s.comm comm).seq
  let c : Coll :=
    { kind := kind, gid := x.gid, uid := x.g.uid, part := x.g.part, cls := x.g.cls, launch := x.g.launch, hmode := false
      src := w 0 + w 1 * 2 ^ 32, dst := w 2 + w 3 * 2 ^ 32, count := w 4, ty := bitsAt (w 5) 0 2
      op := if kind = 1 then 0 else bitsAt (w 5) 4 2, comm := comm, seq := seq, topv := bitsAt (w 7) 0 16, sent := false
      got := [], status := none, event := none }
  { s with colls := Tab.set s.colls id c }.modComm comm fun m => { m with seq := (seq + 1) % 2 ^ 32 }

/-- COLL (R207, R209, R211). -/
def execColl (f : Lg) (s : State) : Host.Outcome State Fault Refusal :=
  withIssuer s fun x =>
    if !lgOk 0x22 5 f || bitsAt f.mod.toNat 0 2 == 3 then takeTrap s x 0x01 0 0
    else
      match operandGate s x (eightUse (sel10 f.a)) with
      | .go =>
        let s1 := useRegs s x (eightUse (sel10 f.a)).rd
        let ws := eightWords x (sel10 f.a)
        let kind := bitsAt f.mod.toNat 0 2
        let comm := bitsAt (nth ws 6 0).toNat 0 16
        if !collOk kind ws then illOpnd s x
        else withFlag s x f fun fl =>
          if queueFree x.g 5 = 0 then park s x (.entries 5 1)
          else
            let id := s1.nextOp
            let s2 := ({ s1 with nextOp := id + 1 }).modGroup x.gid fun g => countFlag (reserveQueue g 5 id fl) fl
            if commUsable s x.g.part comm then nextLg (newColl s2 x id kind ws) x f
            else nextLg (giveResult { s2 with freeCtr := s2.freeCtr + 1 } x.gid 5 id
              (q5Words s2 2 (Config.freeWord s2.freeCtr))) x f
      | g => stopAt s x g

/-! ### Jobs -/

/-- Bytes of an element (R211). -/
def Coll.width (c : Coll) : Nat := if c.ty % 2 = 0 then 4 else 8

/-- The elements of a contribution. -/
def Coll.elems (c : Coll) (r : Nat) : List Nat :=
  let bs := Tab.getD c.got r []
  (List.range c.count).map fun i => ofBytes ((bs.drop (c.width * i)).take c.width)

/-- Combine the participants' values in increasing rank order (R211). -/
def Coll.combined (c : Coll) (n : Nat) : List Nat :=
  match List.range n with
  | [] => []
  | r :: rs => rs.foldl (fun acc k => (acc.zip (c.elems k)).map fun p => (redOp c.ty c.op p.1 p.2).1) (c.elems r)

/-- What a job writes at this rank, of `n` (R211): .ar every combined element, .ag every contribution in rank order, .rs this
rank's share of the combined elements (log 48). -/
def Coll.result (c : Coll) (n own : Nat) : List Byte :=
  match c.kind with
  | 1 => (List.range n).flatMap fun r => Tab.getD c.got r []
  | 2 =>
    let lo := own * c.count / n
    (((c.combined n).drop lo).take ((own + 1) * c.count / n - lo)).flatMap (toBytes c.width)
  | _ => (c.combined n).flatMap (toBytes c.width)

/-- The Separator port of the collective engine that runs a job (R11, R13): the spec does not say which of the two does; here a
communicator's jobs run on EC0 or EC1 by the parity of its number (DESIGN CHOICE, log 80). -/
def collPort (c : Coll) : Nat := 32 + c.comm % 2

/-- The translator of a job's collective engine (R293, R295): under the SO clock of the group that issued it (R239), and its class (R288). -/
def collXer (c : Coll) : Xer :=
  { part := c.part, core := none, chip := none, eng := some (1024 + collPort c), hmode := false, uid := some c.uid, cls := some c.cls }

/-- A job stops at faulting pages (R211, R300). -/
def stopColl (s : State) (id : Nat) (c : Coll) (bad : List (Nat × Nat × XFault)) : State :=
  if bad.isEmpty then s
  else
    let r := agentFault s c.part (collPort c) (coreOf c.gid) (slotOf c.gid) (c.launch / 32) 9 0 0 (.coll id) bad
    { r.1 with colls := Tab.upd r.1.colls id fun c => { c with event := some r.2 } }

/-- The packets that came before the job are accepted now. -/
def takeEarly (s : State) (id : Nat) (c : Coll) : State :=
  let mine := (s.comm c.comm).early.filter fun p => p.seq == c.seq
  let s1 := s.modComm c.comm fun m => { m with early := m.early.filter fun p => p.seq != c.seq }
  mine.foldl (fun t p => takePiece t id p) s1

/-- A contribution cut into the data of flits, and whether each is the last (R353, log 48). -/
def piecesOf (bs : List Byte) : List (List Byte × Bool) :=
  let n := max 1 ((bs.length + 207) / 208)
  (List.range n).map fun k => ((bs.drop (208 * k)).take 208, k + 1 == n)

/-- A job reads its contribution as a plain load at scope dev and sends it to every other participant (R211, R355). -/
def startColl (s : State) (id : Nat) (c : Coll) : State :=
  if c.topv ≠ s.topv then markStale s id
  else
    let r := vaRead s (collXer c) .load false c.src (c.count * c.width)
    match r.2 with
    | .error bad => stopColl r.1 id c (badAt c.src bad)
    | .ok bs =>
      let m := r.1.comm c.comm
      let s1 := { r.1 with colls := Tab.upd r.1.colls id fun c => { c with sent := true, got := Tab.set c.got m.own bs } }
      let s2 := takeEarly s1 id c
      let s3 := m.others.foldl (fun t k => (piecesOf bs).foldl (fun u d => routePacket u (jobPacket u c k.2 0 d.2 d.1)) t) s2
      if m.others.all fun k => (edRoute s k.2).isSome then s3 else markStale s3 id

/-- A flit belongs to a job's collective. -/
def ofColl (c : Coll) (p : Packet) : Bool := p.comm == c.comm && p.seq == c.seq

/-- A job has ended: its Q5 entry is written (R209, R211), and the pieces that it has not sent are dropped. -/
def endColl (s : State) (id : Nat) (c : Coll) (status : Nat) : State :=
  let s1 := { s with
    colls := Tab.del s.colls id
    ed := { s.ed with
      ports := s.ed.ports.map fun p => (p.1, { p.2 with queue := p.2.queue.filter fun k => !(ofColl c k && k.typ == 0 && k.src == s.ed.devid) })
      comms := if status = 3 then Tab.upd s.ed.comms c.comm fun m => { m with diff := m.diff ++ [c.seq] } else s.ed.comms }
    events := s.events.filter fun (e : Nat × FaultEvent) => e.2.agent != .coll id }
  setResult s1 c.uid 5 id (q5Words s status c.seq)

/-- Write DST at the homes; or the pages that fault, none of them where the write waits, for a snoop, for sequence room or for its class budget
(R232, R288, R320). -/
def writeColl (s : State) (id : Nat) (c : Coll) (bs : List Byte) : State × Option (List (Nat × Nat × XFault)) :=
  let vas := (List.range bs.length).map fun i => (c.dst + i) % 2 ^ 64
  let r := translatePages s (collXer c) .store false ((vas.map (· / 4096)).eraseDups)
  let pas := vas.map (placed r.2.1)
  if !r.2.2.isEmpty then (r.1, some (badOf vas (faultsOf r.2.2)))
  else
    match writeWaits r.1 c.part (some c.cls) pas with
    | some t => (t, some [])
    | none =>
      let cells := vas.zip bs
      let ps := (vas.map (· / 4096)).eraseDups
      (ps.foldl (fun t p =>
        let kind := kindAt r.2.1 (p * 4096)
        let mine := (cells.filter fun y => y.1 / 4096 == p).map fun y => (placed r.2.1 y.1, y.2)
        agentWrite t id c.part c.cls (2 ^ 64) (coreOf c.gid) (gidOf c.gid) (if kind = 1 then some (ptsOf t c.uid) else none) mine)
        (writeCounts r.1 c.part c.cls pas), none)

/-- Every contribution has been accepted here. -/
def Coll.full (c : Coll) (n : Nat) : Bool := (List.range n).all fun r => (Tab.get? c.got r).isSome

/-- The earlier jobs of a communicator have ended: path P4 keeps its sequence order (R242). -/
def collTurn (s : State) (id : Nat) (c : Coll) : Bool := !s.colls.any fun e => e.1 < id && e.2.comm == c.comm

/-- Probes for the job's writes, or its postings to host memory, are unanswered. -/
def collProbed (s : State) (id : Nat) : Bool := jobProbed s id

/-- Every packet of the job has been accepted: every other participant has told so (R357). -/
def Coll.agreed (c : Coll) (m : Comm) : Bool := m.others.all fun r => c.oks.contains r.1

/-- COLLECTIVE_COMPLETE (R211): the job's next step. It sends its contribution when it has not yet; it tells the others once every contribution
has come; it writes DST once every participant has told so (R357); then its entry is written. -/
def execCollectiveComplete (op : Nat) (s : State) : Host.Outcome State Fault Refusal :=
  .next (match Tab.get? s.colls op with
    | none => s
    | some c =>
      match c.status with
      | some st => if collProbed s op then s else endColl s op c st
      | none =>
        if c.event.isSome || fenceHolds s c.uid op 4 || !collTurn s op c then s
        else if !c.sent then startColl s op c
        else
          let m := s.comm c.comm
          if !c.full m.ranksN then s
          else if !c.told then tellAll { s with colls := Tab.upd s.colls op fun c => { c with told := true } } c 2
          else if !c.agreed m then s
          else match writeColl s op c (c.result m.ranksN m.own) with
            | (t, some bad) => stopColl t op c bad
            | (t, none) =>
              if collProbed t op then { t with colls := Tab.upd t.colls op fun c => { c with status := some 0 } }
              else endColl t op c 0)

/-! ### Packets that arrive -/

/-- EDNAN_FLIT_RECEIVE (R353): a flit whose CRC fails is resent by its sender, so nothing changes here. A good one is taken where its link
sequence number is the next; another is a duplicate after a retrain, and is discarded. Either tells the port that its partner has taken the flits
of its replay buffer (log 49). -/
def execEdnanFlitReceive (p : Nat) (ok : Bool) (pkt : Packet) (s : State) : Host.Outcome State Fault Refusal :=
  .next (if p < 16 && (s.edPort p).st == 3 && ok then
      s.modPort p fun q => EdPort.pump (if pkt.lseq = q.rseq then { q with sent := [], inq := q.inq ++ [pkt], rseq := (q.rseq + 1) % 2 ^ 12 }
        else { q with sent := [] })
    else s)

/-- The NACK of a packet, with the current version (R357); its type. -/
def nackOf (s : State) (pkt : Packet) (typ : Nat := 1) : Packet :=
  { pkt with typ := typ, topv := s.topv, dest := pkt.src, src := s.ed.devid, last := true, data := [] }

/-- A piece for this device whose version is current (R357, R358). One for a collective that has ended here is NACKed, under its mismatch where it
ended so. -/
def deliverPiece (s : State) (p : Nat) (pkt : Packet) : State :=
  match findColl s pkt.comm pkt.seq with
  | some (id, c) =>
    if c.sent then takePiece s id pkt
    else s.modComm pkt.comm fun m => { m with early := m.early ++ [pkt] }
  | none =>
    let m := s.comm pkt.comm
    if pkt.comm < 1024 && bitAt m.cfg 0 && (pkt.seq + 2 ^ 32 - m.seq) % 2 ^ 32 < 2 ^ 31 then
      s.modComm pkt.comm fun m => { m with early := m.early ++ [pkt] }
    else putPacket s p (nackOf s pkt (if m.diff.contains pkt.seq then 3 else 1))

/-- The collective of a packet ends STALE or with a mismatch at this device, if it runs here. -/
def concludeHere (s : State) (pkt : Packet) (st : Nat) : State :=
  match findColl s pkt.comm pkt.seq with
  | some (id, _) => concludeColl s id st
  | none => s

/-- A packet for this device that is no piece: a NACK, an agreement, a mismatch (log 48). -/
def deliverNotice (s : State) (pkt : Packet) : State :=
  if pkt.typ = 1 || pkt.typ = 3 then concludeHere s pkt pkt.typ
  else if pkt.typ = 2 then
    match findColl s pkt.comm pkt.seq with
    | some (id, c) => { s with colls := Tab.set s.colls id { c with oks := c.oks ++ [pkt.rank] } }
    | none => s
  else s

/-- COLLECTIVE_PACKET_RECEIVE (R357): the oldest packet of a port is delivered, forwarded or rejected. -/
def execCollectivePacketReceive (p : Nat) (s : State) : Host.Outcome State Fault Refusal :=
  .next (match (s.edPort p).inq with
    | [] => s
    | pkt :: r =>
      let s1 := s.modPort p fun q => { q with inq := r }
      if pkt.typ ≠ 0 then if pkt.dest = s.ed.devid then deliverNotice s1 pkt else routePacket s1 pkt
      else if pkt.topv ≠ s.topv then
        let s2 := { s1 with ed := { s1.ed with stale := (s1.ed.stale + 1) % 2 ^ 32 } }
        concludeHere (putPacket s2 p (nackOf s2 pkt)) pkt 1
      else if pkt.dest = s.ed.devid then deliverPiece s1 p pkt
      else match edRoute s1 pkt.dest with
        | some q => putPacket s1 q pkt
        | none => putPacket s1 p (nackOf s1 pkt))

/-- A partition reset ends the partition's collectives; their partners complete STALE (R358). -/
def endPartColls (s : State) (part : Nat) : State :=
  let ids := (s.colls.filter fun e => e.2.part == part).map (·.1)
  ids.foldl markStale s

/-! ### Ports -/

/-- The Separator port of the edge chiplet of an Ednan port (R13, R355). -/
def edgePort (p : Nat) : Nat := if p < 8 then 32 else 33

/-- LOSS_OF_LIGHT (R354). HOLD is left by a commit alone. -/
def execLossOfLight (p : Nat) (s : State) : Host.Outcome State Fault Refusal :=
  .next (if p < 16 && (s.edPort p).st == 3 then s.modPort p fun q => { q with st := 1 } else s)

/-- A flit of a discarded replay buffer whose collective does not run here: the sender of a piece is told by a NACK, so that its collective ends
STALE; a notice goes on its way again (R354). -/
def lostFlit (s : State) (k : Packet) : State :=
  if s.colls.any fun e => ofColl e.2 k then s
  else if k.typ ≠ 0 then routePacket s k
  else if k.src = s.ed.devid then s
  else routePacket s (nackOf s k)

/-- A port enters HOLD: its replay buffer is discarded, and collectives with flits in it complete STALE (R354). The link to the new partner
numbers its flits anew. -/
def enterHold (s : State) (p : Nat) : State :=
  let out := (s.edPort p).sent
  let s1 := s.modPort p fun q => { q with st := 2, sent := [], lseq := 0, rseq := 0, owes := true }
  let ids := (s.colls.filter fun e => out.any (ofColl e.2)).map (·.1)
  out.foldl lostFlit (ids.foldl markStale s1)

/-- TRAINING_COMPLETE (R354): RUN with the partner it had before, where no commit is owed since a HOLD; otherwise HOLD. -/
def execTrainingComplete (p partner us : Nat) (s : State) : Host.Outcome State Fault Refusal :=
  .next (if p < 16 && (s.edPort p).st == 1 && us ≤ 100 then
      let q := s.edPort p
      let same := q.known && q.partner == partner % 2 ^ 12 && !q.owes
      let s1 := s.modPort p fun q => { q with
        retrains := (q.retrains + 1) % 256, dur := us, partner := partner % 2 ^ 12, known := true }
      let s2 := if same then s1.modPort p fun q => { q with st := 3 }.pump else enterHold s1 p
      tap s2 (edgePort p) 10 none [p, us, s.topv]
    else s)

/-- TRAINING_TIMEOUT (R354): training has failed for 1 ms. -/
def execTrainingTimeout (p : Nat) (s : State) : Host.Outcome State Fault Refusal :=
  .next (if p < 16 && (s.edPort p).st == 1 then s.modPort p fun q => { q with st := 0 } else s)

/-- ED_PORT_ENABLE (R354). -/
def execEdPortEnable (p : Nat) (s : State) : Host.Outcome State Fault Refusal :=
  .next (if p < 16 then s.modPort p fun q => { q with en := true, st := if q.st = 0 then 1 else q.st } else s)

/-- ED_PORT_DISABLE (R354). -/
def execEdPortDisable (p : Nat) (s : State) : Host.Outcome State Fault Refusal :=
  .next (if p < 16 then s.modPort p fun q => { q with en := false, st := 0 } else s)

/-! ### Tables -/

/-- TOPV_COMMIT (R356): the tables swap, TOPV becomes TOPV_STAGE, and ports in HOLD run (R354). -/
def execTopvCommit (v : DWord) (s : State) : Host.Outcome State Fault Refusal :=
  .next (if !bitAt v.toNat 0 then s
    else if s.ed.topvStage = s.topv then { s with ed := { s.ed with topvErr := true } }
    else { s with
      topv := s.ed.topvStage
      ed := { s.ed with
        active := s.ed.staged, staged := s.ed.active, topvErr := false
        ports := s.ed.ports.map fun p => (p.1, { p.2 with st := if p.2.st = 2 then 3 else p.2.st, owes := false }.pump) } })

/-- CM_CFG (R358). -/
def execCmCfg (v : DWord) (s : State) : Host.Outcome State Fault Refusal :=
  .next (if commBusy s s.ed.cmIdx then { s with ed := { s.ed with cmErr := true } }
    else
      let t := { s with ed := { s.ed with cmErr := false } }
      t.modComm s.ed.cmIdx fun m =>
        if bitAt v.toNat 0 then { m with cfg := v.toNat % 2 ^ 30, seq := 0, early := [], diff := [] } else { m with cfg := v.toNat % 2 ^ 30 })

/-- CM_MAPDATA (R358). -/
def execCmMapdata (v : DWord) (s : State) : Host.Outcome State Fault Refusal :=
  .next (if commBusy s s.ed.cmIdx then { s with ed := { s.ed with cmErr := true } }
    else
      let t := { s with ed := { s.ed with cmErr := false } }
      t.modComm s.ed.cmIdx fun m => { m with ranks := Tab.set m.ranks s.ed.cmMapidx (v.toNat % 2 ^ 12) })

end Sys2Proof.Machine
end

