-- ==== Sys2Proof/Machine/Fabric.lean ====
section
/-! DEFINITION. The Separator's flits, credits, colours and switch-overs (R347 to R352, R368). -/

namespace Sys2Proof.Machine

/-! ### Routes -/

/-- The primary colour of a pair (R13, R349). -/
def primaryColour (i j : Nat) : Nat := (j + 34 - i) % 34

/-- A directed pair with a SEP_ROUTE register (R349). -/
def isPair (i j : Nat) : Bool := i < 34 && j < 34 && i != j

/-- A relay port is valid for a pair (R349). -/
def validVia (i j k : Nat) : Bool := k != i && k != j && k < 34

/-- The pair's current route uses a lost colour (R350). -/
def Pair.usesLost (p : Pair) : Bool :=
  match p.mode with
  | 0 => p.lostp || p.losts
  | 1 => if p.use then p.losts else p.lostp
  | _ => false

/-- Where a loss of both colours leads, given the relay port that may not be taken again (R350): MODE, VIA, and USE, which is 1 only in
HALF. -/
def bothLost (i j : Nat) (p : Pair) (not : Option Nat) : Nat × Nat × Bool :=
  if validVia i j p.pvia && not != some p.pvia then (2, p.pvia, false) else (3, p.via, false)

/-- The mode that a loss selects (R350). -/
def lossMode (i j : Nat) (p : Pair) : Nat × Nat × Bool :=
  if p.lostp && p.losts then bothLost i j p none
  else if p.preset == 2 && validVia i j p.pvia then (2, p.pvia, false)
  else (1, p.via, p.lostp)

/-- The mode that a host write selects, if the write is valid with the lost bits as they stand (R350). -/
def hostMode (i j : Nat) (p : Pair) (mode via : Nat) : Option (Nat × Nat × Bool) :=
  match mode with
  | 0 => if p.lostp || p.losts then none else some (0, via, false)
  | 1 => if p.lostp && p.losts then none else some (1, via, p.lostp)
  | 2 => if validVia i j via then some (2, via, false) else none
  | _ => none

/-- The route of a pair is already this one: its mode, the relay port of RELAY, the colour of HALF. -/
def Pair.isRoute (p : Pair) (r : Nat × Nat × Bool) : Bool :=
  p.mode == r.1 && (r.1 != 2 || p.via == r.2.1) && (r.1 != 1 || p.use == r.2.2)

/-! ### Switch-over (R351) -/

/-- A switch-over begins: no new flit is sent (R351). -/
def beginSwitch (s : State) (i j : Nat) (r : Nat × Nat × Bool) : State :=
  s.modPair i j fun p => { p with switching := true, target := some r, since := s.clock }

/-- Every flit sent on the old route is acknowledged or has failed (R351): none is under way, and none delivered waits for its
acknowledgement. -/
def Pair.drained (p : Pair) : Bool := p.sent.all fun f => f.hop == 0 || (f.hop == 2 && f.got == 1)

/-- The flits of a pair leave the links of its old route; each gives back its credit (R351, R352). -/
def leaveLinks (s : State) (i j : Nat) : State :=
  let mine (r : FlitRef) : Bool := r.src == i && r.dst == j
  { s with pairs := s.pairs.map fun (e : Nat × Pair) => (e.1, { e.2 with
      credits := e.2.credits + (e.2.wire.filter fun w => mine w.1).length
      wire := e.2.wire.filter fun w => !mine w.1
      out := e.2.out.filter fun r => !mine r }) }

/-- The new route is taken: every flit still unacknowledged is sent again in sequence order, new ones follow, SWITCHING clears (R351). One that
the receiver already has is a duplicate there (R368). -/
def takeRoute (s : State) (i j : Nat) (r : Nat × Nat × Bool) : State :=
  let s1 := (leaveLinks s i j).modPair i j fun p => { p with
    mode := r.1, via := r.2.1, use := r.2.2, switching := false, target := none, sent := p.sent.map fun f => { f with hop := 0 } }
  let p := s1.pair i j
  pumpAll (if r.1 = 3 then s1
    else s1.modPair i (p.first j) fun l => { l with out := l.out ++ p.sent.map fun f => ⟨i, j, f.seq⟩ })

/-- The colour named by the event of a pair that leaves FULL (R337): the lost one; where the host chose to leave FULL none
is lost, and the value is not stated (log 10). -/
def leftColour (s : State) (i j : Nat) (p : Pair) : Nat :=
  if p.lostp then primaryColour i j
  else if p.losts then primaryColour i j + 34
  else Config.freeWord s.freeCtr

/-- The event of source 9, and a device error where the pair goes DOWN (R337, R350). -/
def reportRoute (s : State) (i j : Nat) (p : Pair) (r : Nat × Nat × Bool) : State :=
  let s1 := if p.mode == 0 && r.1 != 0 then
      { tap s i 9 none [i, j, leftColour s i j p, r.1] with freeCtr := s.freeCtr + 1 }
    else s
  if r.1 == 3 && p.mode != 3 then { s1 with outs := s1.outs ++ [.deviceError i j] } else s1

/-- The pairs relayed over i → j, or about to be: those whose VIA is j and source is i, or whose VIA is i and destination is j
(R350). -/
def relayedOver (s : State) (i j : Nat) : List (Nat × Nat) :=
  s.pairs.filterMap fun e =>
    let a := e.1 / 34
    let b := e.1 % 34
    let vias := (if e.2.mode == 2 then [e.2.via] else []) ++ (match e.2.target with
      | some r => if r.1 == 2 then [r.2.1] else []
      | none => [])
    if (a == i && vias.contains j) || (b == j && vias.contains i) then some (a, b) else none

/-- A relay hop leaves FULL and HALF: the relayed pair is treated as one whose colours are both lost (R350). -/
def hopLost (s : State) (i j : Nat) : State :=
  let p := s.pair i j
  let r := bothLost i j p (some p.via)
  if p.switching then s.modPair i j fun p => { p with relost := true }
  else beginSwitch s i j r

/-- A switch-over ends: the new mode is in force; relayed pairs that lose their hop are switched; then a mode that the host
asked for meanwhile is taken, or a loss reported meanwhile is answered (R350). -/
def endSwitch (s : State) (i j : Nat) : State :=
  let p := s.pair i j
  match p.target with
  | none => s
  | some r =>
    let s1 := reportRoute (takeRoute s i j r) i j p r
    let s2 := if p.mode ≤ 1 && 2 ≤ r.1 then (relayedOver s1 i j).foldl (fun t e => hopLost t e.1 e.2) s1 else s1
    let q := s2.pair i j
    match q.nextMode.bind fun m => hostMode i j q m.1 m.2 with
    | some m =>
      let s3 := s2.modPair i j fun p => { p with nextMode := none }
      if q.isRoute m then s3.modPair i j fun p => { p with via := m.2.1 } else beginSwitch s3 i j m
    | none =>
      let s3 := s2.modPair i j fun p => { p with nextMode := none, relost := false }
      if q.relost && q.usesLost then beginSwitch s3 i j (lossMode i j q)
      else if q.relost && q.mode == 2 && 2 ≤ max (s3.pair i q.via).mode (s3.pair q.via j).mode then hopLost s3 i j
      else s3

/-- End the switch-over of a pair if its old route has drained (R351). -/
def settleSwitch (s : State) (i j : Nat) : State :=
  let p := s.pair i j
  if p.switching && p.drained then endSwitch s i j else s

/-- End every switch-over whose old route has drained; `n` rounds, since the end of one may begin another. -/
def settleSwitches : Nat → State → State
  | 0, s => s
  | n + 1, s =>
    match s.pairs.find? fun e => e.2.switching && e.2.drained with
    | some e => settleSwitches n (settleSwitch s (e.1 / 34) (e.1 % 34))
    | none => s

/-- SWITCHOVER_DRAIN_TIMEOUT (R351): 2 µs, 4,200 cc at 2.1 GHz (R6), have passed. -/
def execSwitchoverDrainTimeout (i j : Nat) (s : State) : Host.Outcome State Fault Refusal :=
  .next (if (s.pair i j).switching && (s.pair i j).since + 4200 ≤ s.clock then endSwitch s i j else s)

/-! ### Flits -/

/-- A colour of a link is lost, the secondary: true (R348). -/
def Pair.lost (l : Pair) (second : Bool) : Bool := if second then l.losts else l.lostp

/-- Consecutive failures of a colour of a link (R348). -/
def Pair.failsOf (l : Pair) (second : Bool) : Nat := if second then l.fails2 else l.fails

/-- Set the count of a colour. -/
def Pair.setFails (l : Pair) (second : Bool) (n : Nat) : Pair := if second then { l with fails2 := n } else { l with fails := n }

/-- Deliver, in sequence order, the flits that the receiver holds and for which no earlier one is missing; a message comes with its last flit, and
each flit gives its credit back to the link over which it came (R347, R352). -/
def deliver (s : State) (i j : Nat) : State :=
  let p := s.pair i j
  let run := p.sent.takeWhile fun f => f.got != 0
  let new := run.filter fun f => f.got == 1
  (new.foldl (fun t f => t.modPair f.port j fun l => { l with owed := l.owed + 1 }) s).modPair i j fun p => { p with
    inbox := p.inbox ++ (new.filter (·.last)).map (fun f => (s.clock, f.msg))
    sent := run.map (fun f => { f with got := 2 }) ++ p.sent.drop run.length }

/-- A flit reaches its receiver over the link from port `a`: one that it has already is discarded, and acknowledged again (R368). -/
def flitArrives (s : State) (a : Nat) (r : FlitRef) : State :=
  if (s.pair r.src r.dst).sent.any fun f => f.seq == r.seq && f.got == 0 then
    deliver (s.modPair r.src r.dst fun p => p.setFlit r.seq fun f => { f with hop := 2, got := 1, port := a }) r.src r.dst
  else (s.modPair r.src r.dst fun p => p.setFlit r.seq fun f => { f with hop := 2 }).modPair a r.dst fun l => { l with owed := l.owed + 1 }

/-- A flit has crossed a link without error: it is at its receiver, or enters the relay's buffer, where its credit returns and it waits for the next
link (R352). -/
def flitCrosses (s : State) (a b : Nat) (r : FlitRef) : State :=
  if b = r.dst then flitArrives s a r
  else pump ((s.modPair a b fun l => { l with owed := l.owed + 1 }).modPair b r.dst fun l => { l with out := l.out ++ [r] }) b r.dst

/-- A flit has failed its CRC on a link: it takes no space there, and is sent again, or, while a switch-over waits, is left for the new route
(R347, R351). -/
def flitFails (s : State) (a b : Nat) (r : FlitRef) : State :=
  let s1 := s.modPair a b fun l => { l with credits := l.credits + 1 }
  if (s.pair r.src r.dst).switching then
    pump (settleSwitch (s1.modPair r.src r.dst fun p => p.setFlit r.seq fun f => { f with hop := 0 }) r.src r.dst) a b
  else pump (s1.modPair a b fun l => { l with out := r :: l.out }) a b

/-- The acknowledgement of the oldest flit delivered is lost: the flit is sent again (R347, R368). -/
def loseAck (s : State) (i j : Nat) : State :=
  let p := s.pair i j
  match p.sent with
  | f :: _ =>
    if f.hop == 2 && f.got == 2 && !p.switching && p.mode != 3 then
      pump ((s.modPair i j fun p => p.setFlit f.seq fun f => { f with hop := 0 }).modPair i (p.first j) fun l => { l with
        out := ⟨i, j, f.seq⟩ :: l.out }) i (p.first j)
    else s
  | [] => s

/-- FLIT_RECEIVE (R347, R348): the oldest flit under way on a link, of the pair itself or relayed, reaches the link's end. One that a lost colour
carries fails whatever its CRC. With none under way, `ok` false stands for an acknowledgement that is lost (log 27). -/
def execFlitReceive (a b : Nat) (ok : Bool) (s : State) : Host.Outcome State Fault Refusal :=
  let l := s.pair a b
  .next (match l.wire with
    | [] => if ok then s else loseAck s a b
    | (r, second) :: w =>
      if ok && !l.lost second then
        flitCrosses (s.modPair a b fun l => { l.setFails second 0 with wire := w }) a b r
      else
        flitFails (s.modPair a b fun l => { l.setFails second (if l.lost second then l.failsOf second else l.failsOf second + 1) with wire := w }) a b r)

/-- The acknowledgement of the oldest flit can come: it is delivered, and no copy of it is under way. -/
def Pair.acksDue (p : Pair) : Bool := match p.sent with
  | f :: _ => f.hop == 2 && f.got == 2
  | [] => false

/-- FLIT_ACK (R347): the acknowledgement of the oldest flit delivered; it frees a place of the replay buffer (R352). -/
def execFlitAck (i j : Nat) (s : State) : Host.Outcome State Fault Refusal :=
  let p := s.pair i j
  .next (if p.acksDue then pump (settleSwitch (s.modPair i j fun p => { p with sent := p.sent.tail }) i j) i (p.first j) else s)

/-- CREDIT_RETURN (R352). -/
def execCreditReturn (a b : Nat) (s : State) : Host.Outcome State Fault Refusal :=
  .next (if 0 < (s.pair a b).owed then
      pump (s.modPair a b fun p => { p with owed := p.owed - 1, credits := p.credits + 1 }) a b
    else s)

/-- Messages and flits that wait at their ports are sent as far as the slot, the relays and the credits now allow (R287, R288, R352). -/
def sendWaiting (s : State) : State :=
  if s.pairs.all fun e => e.2.queue.isEmpty && e.2.part.isNone && e.2.out.isEmpty then s else pumpAll s

/-! ### Colours -/

/-- A colour of a pair is marked lost at its source (R348). -/
def Pair.isLost (p : Pair) (i j colour : Nat) : Bool := if colour = primaryColour i j then p.lostp else p.losts

/-- A colour is one of the two of a pair (R13). -/
def ofPair (i j colour : Nat) : Bool :=
  isPair i j && (colour == primaryColour i j || colour == primaryColour i j + 34)

/-- COLOUR_LOSS (R348): the receiver marks the colour lost, and reports it over the reverse pair. -/
def execColourLoss (i j colour : Nat) (s : State) : Host.Outcome State Fault Refusal :=
  let p := s.pair i j
  .next (if ofPair i j colour && !p.isLost i j colour && !p.lossRep.contains colour then
      s.modPair i j fun p => { p.setFails (colour != primaryColour i j) 0 with lossRep := p.lossRep ++ [colour] }
    else s)

/-- The source sets LOSTP or LOSTS, and selects a new mode if its route uses the colour (R348, R350). -/
def markLost (s : State) (i j colour : Nat) : State :=
  let s1 := s.modPair i j fun p =>
    if colour = primaryColour i j then { p with lostp := true } else { p with losts := true }
  let p := s1.pair i j
  if p.switching then s1.modPair i j fun p => { p with relost := true }
  else if p.usesLost && !(s.pair i j).isLost i j colour then settleSwitch (beginSwitch s1 i j (lossMode i j p)) i j
  else s1

/-- LOSS_REPORT (R348): the report of a loss reaches the source, over the reverse pair unless that is DOWN. -/
def execLossReport (i j colour : Nat) (s : State) : Host.Outcome State Fault Refusal :=
  .next (if (s.pair i j).lossRep.contains colour && (s.pair j i).mode != 3 then
      markLost (s.modPair i j fun p => { p with lossRep := p.lossRep.erase colour }) i j colour
    else s)

/-- COLOUR_RETEST (R348): a colour that the host cleared is tested again. -/
def execColourRetest (i j colour : Nat) (ok : Bool) (s : State) : Host.Outcome State Fault Refusal :=
  .next (if (s.pair i j).retest.contains colour then
      let s1 := s.modPair i j fun p => { p with retest := p.retest.erase colour }
      if ok then s1 else markLost s1 i j colour
    else s)

/-! ### SEP_ROUTE (R349) -/

/-- The value that SEP_ROUTE reads as (R349). -/
def sepRouteValue (p : Pair) : Nat :=
  p.mode + p.via * 2 ^ 2 + p.preset * 2 ^ 8 + p.pvia * 2 ^ 10 + p.lostp.toNat * 2 ^ 16 + p.losts.toNat * 2 ^ 17 +
    p.use.toNat * 2 ^ 18 + p.switching.toNat * 2 ^ 19

/-- PRESET, PVIA and the W1C bits of a write (R349, R350). -/
def writeFields (p : Pair) (i j v : Nat) : Pair :=
  let c1 := if p.lostp && bitAt v 16 then [primaryColour i j] else []
  let c2 := if p.losts && bitAt v 17 then [primaryColour i j + 34] else []
  { p with
    preset := if bitsAt v 8 2 == 2 then 2 else 1
    pvia := bitsAt v 10 6
    lostp := p.lostp && !bitAt v 16
    losts := p.losts && !bitAt v 17
    retest := p.retest.filter (fun (c : Nat) => !(c1 ++ c2).contains c) ++ c1 ++ c2 }

/-- SEP_ROUTE (R349, R350): the host writes a pair's route. -/
def execSepRoute (i j : Nat) (v : Word) (s : State) : Host.Outcome State Fault Refusal :=
  .next (if !isPair i j then s
    else
      let s1 := s.modPair i j fun p => writeFields p i j v.toNat
      let p := s1.pair i j
      let mode := bitsAt v.toNat 0 2
      let via := bitsAt v.toNat 2 6
      match hostMode i j p mode via with
      | none => s1
      | some r =>
        if p.switching then s1.modPair i j fun p => { p with nextMode := some (mode, via) }
        else if p.isRoute r then s1.modPair i j fun p => { p with via := via }
        else settleSwitch (beginSwitch s1 i j r) i j)

end Sys2Proof.Machine
end

