-- ==== Sys2Proof/Machine/HostPort.lean ====
section
/-! DEFINITION. Host coherence over CXL (19_host_coherence_over_cxl.md, R317 to R327): host accesses to device memory, bias flips,
host memory in the near caches, snoops, and power gating. -/

namespace Sys2Proof.Machine

/-! ### Host accesses to device memory -/

/-- A host access arrives at its home. -/
def hostArrive (s : State) (r : HostReq) : State := homeArrive s hostChip (.host r)

/-- HOST_MEM_READ (R318, R323): a read of bytes of one 64-byte half. -/
def execHostMemRead (pa n : Nat) (s : State) : Host.Outcome State Fault Refusal :=
  .next (if isDevice pa && decide (0 < n) && decide (pa % 64 + n ≤ 64) then hostArrive s (.read pa n) else s)

/-- The bytes of a 64-byte half that its byte mask picks, by offset in the line. -/
def halfBytes (pa : Nat) (data : List (Option Byte)) : Tab Byte :=
  (data.take 64).zipIdx.filterMap fun b => b.1.map fun x => (pa / 64 % 2 * 64 + b.2, x)

/-- HOST_MEM_WRITE (R318, R323): the bytes of one 64-byte half that a mask picks. -/
def execHostMemWrite (pa : Nat) (data : List (Option Byte)) (s : State) : Host.Outcome State Fault Refusal :=
  .next (
    let bs := halfBytes pa data
    if isDevice pa && !bs.isEmpty then hostArrive s (.write (lineOf pa) bs) else s)

/-- HOST_CACHE_REQUEST (R320, R323). -/
def execHostCacheRequest (line half : Nat) (own : Bool) (s : State) : Host.Outcome State Fault Refusal :=
  .next (if isDevice (line * 128) then hostArrive s (.copy line half own) else s)

/-! ### Flips -/

/-- The lines of a page. -/
def pageLines (page : Nat) : List Nat := (List.range 32).map (page * 32 + ·)

/-- A command ends without a flip (R319, R323). -/
def flipRefused (s : State) (r : Nat) : State := { s with hp := { s.hp with result := r } }

/-- What a flip of the page in HP_BIASPA to a bias comes to, if it starts nothing (R319, R323). -/
def flipCheck (s : State) (toHost : Bool) : Option Nat :=
  let page := bitsAt s.hp.biaspa 12 40
  if 2 ^ 28 ≤ page then some 3
  else if hostSo s (page * 4096) then some 2
  else if s.bias.contains page == toHost then some 1
  else none

/-- A flip is complete: the bit is written (R321, R322). -/
def flipDone (s : State) (f : Flip) : State :=
  let s1 := (pageLines f.page).foldl (fun t l => if (t.hline l).flip = 0 then t else t.modHline l fun h => { h with flip := 0 }) s
  { s1 with
    bias := if f.toHost then s1.bias ++ [f.page] else s1.bias.filter (· != f.page)
    hp := { s1.hp with flip := none, result := 0, flips := (s1.hp.flips + 1) % 2 ^ 32 } }

/-- A posting or an atomic of the device. -/
def writesLine : Msg → Bool
  | .posting _ _ _ _ _ _ _ => true
  | .atomReq _ _ _ _ _ _ => true
  | _ => false

/-- Lines of a flip to host bias become flushed once their home has every answer, and has merged every posting that came before it; lines of one to device bias are recalled once no
snoop is outstanding and the host holds nothing. What is held for them is served; when all are through, the flip ends (R321,
R322). -/
def flipStep (s : State) : State :=
  match s.hp.flip with
  | none => s
  | some f =>
    let ready (t : State) (l : Nat) : Bool :=
      let h := t.hline l
      if f.toHost then
        let mc := homeMc (l * 128)
        h.flip == 1 && !h.held.any (fun m => writesLine m.2) && (List.range 16).all fun c => f.done.contains (c * 16 + mc) && f.inv.contains (c * 16 + mc)
      else h.flip == 3 && h.snoop == 0 && h.host0 == 0 && h.host1 == 0
    let s1 := (pageLines f.page).foldl (fun t l =>
      if ready t l then serveHeld (t.modHline l fun h => { h with flip := if f.toHost then 2 else 4 }) l false else t) s
    if (pageLines f.page).all fun l => (s1.hline l).flip == (if f.toHost then 2 else 4) then flipDone s1 f else s1

/-- HP_BIASCMD while a flip runs (R323). -/
def flipIgnored (s : State) : State := { s with hp := { s.hp with ign := true } }

/-- BIAS_FLIP_TO_HOST (R321): the page's lines become FLUSHING, and every home asks every compute chiplet to flush. -/
def execBiasFlipToHost (s : State) : Host.Outcome State Fault Refusal :=
  .next (
    if s.hp.flip.isSome then flipIgnored s
    else match flipCheck s true with
      | some r => flipRefused s r
      | none =>
        let page := bitsAt s.hp.biaspa 12 40
        let s1 := (pageLines page).foldl (fun t l => t.modHline l fun h => { h with flip := 1 }) s
        let s2 := (List.range 16).foldl (fun t mc =>
          (List.range 16).foldl (fun u c => send u (portMC mc) (portCC c) (.flush page)) t) s1
        { s2 with hp := { s2.hp with flip := some { page := page, toHost := true, done := [], inv := [] } } })

/-- BIAS_FLIP_TO_DEVICE (R322): the page's lines become RECALLING, and the halves the host may hold are snooped. -/
def execBiasFlipToDevice (s : State) : Host.Outcome State Fault Refusal :=
  .next (
    if s.hp.flip.isSome then flipIgnored s
    else match flipCheck s false with
      | some r => flipRefused s r
      | none =>
        let page := bitsAt s.hp.biaspa 12 40
        let s1 := (pageLines page).foldl (fun t l =>
          let h := t.hline l
          askSnoop (t.modHline l fun h => { h with flip := 3, passed := 0 }) l (hostHalves h &&& (3 - h.snoop)) false) s
        flipStep { s1 with hp := { s1.hp with flip := some { page := page, toHost := false, done := [], inv := [] } } })

/-- The cores of a compute chiplet (R12). -/
def coresOfChip (chip : Nat) : List Nat := (List.range 8).map (8 * chip + ·)

/-- A core gives up its L1 lines of a page. -/
def l1DropPage (s : State) (core page : Nat) : State :=
  if (s.core core).l1.any fun e => e.1 / 32 == page then
    s.modCore core fun c => { c with l1 := c.l1.filter fun (e : Nat × List Byte) => e.1 / 32 != page }
  else s

/-- FLUSH_REQUEST (R321): the chiplet posts its combine-buffer lines of the page and then answers each home; its near cache gives up
its copies, whatever their stamps, and its cores their L1 lines, for from now on the homes serve every load (R320). -/
def execFlushRequest (chip : Nat) (s : State) : Host.Outcome State Fault Refusal :=
  .next (
    let heads := (List.range 16).filterMap fun mc => match inboxHead s (portMC mc) (portCC chip) with
      | some (.flush page) => some (mc, page)
      | _ => none
    heads.foldl (fun t (mc, page) =>
      let t1 := (coresOfChip chip).foldl (fun u c => postWanted 64 (wantEntries u c fun e => e.line / 32 == page) c) t
      if (coresOfChip chip).any fun c => (t1.core c).cb.any fun e => e.line / 32 == page then t1
      else
        let t2 := popInbox t1 (portMC mc) (portCC chip)
        let t3 := ((pageLines page).filter fun l => homeMc (l * 128) == mc).foldl (fun u l =>
          nearDrop u chip l) ((coresOfChip chip).foldl (fun u c => l1DropPage u c page) t2)
        send (send t3 (portCC chip) (portMC mc) (.flushDone page)) (portCC chip) (portMC mc) (.flushInv page)) s)

/-- Answers of a chiplet at the heads of its pairs reach their homes. -/
def takeFlush (s : State) (chip : Nat) (isDone : Bool) : State :=
  flipStep ((List.range 16).foldl (fun t mc =>
    let key := chip * 16 + mc
    let note (f : Flip → Flip) : State :=
      let u := popInbox t (portCC chip) (portMC mc)
      { u with hp := { u.hp with flip := u.hp.flip.map f } }
    match inboxHead t (portCC chip) (portMC mc) with
    | some (.flushDone _) => if isDone then note fun f => { f with done := f.done ++ [key] } else t
    | some (.flushInv _) => if isDone then t else note fun f => { f with inv := f.inv ++ [key] }
    | _ => t) s)

/-- FLUSHDONE (R321). -/
def execFlushdone (chip : Nat) (s : State) : Host.Outcome State Fault Refusal := .next (takeFlush s chip true)

/-- FLUSH_INVALIDATION_ACK (R321). -/
def execFlushInvalidationAck (chip : Nat) (s : State) : Host.Outcome State Fault Refusal := .next (takeFlush s chip false)

/-- The halves that loads held for a line read. -/
def heldLoads (h : HomeLine) : Nat := h.held.foldl (fun m e => match e.2 with
  | .loadReq _ halves _ _ _ _ => m ||| halves
  | _ => m) 0

/-- A half's snoop has been answered: after BISnpData the host may still hold it shared, after BISnpInv it holds nothing (R345). A
BISnpData lets the loads that wait for it pass; one that met a flip to device bias is followed by the BISnpInv of the flip (R322). -/
def halfAnswered (h : HomeLine) (half : Nat) : HomeLine :=
  let data := bitAt h.snpData half
  let st := if data then 1 else 0
  let again := data && h.flip == 3 && (if half = 0 then h.host0 else h.host1) != 0
  { h with
    host0 := if half = 0 then min h.host0 st else h.host0
    host1 := if half = 1 then min h.host1 st else h.host1
    snoop := if again then h.snoop else h.snoop - 2 ^ half
    snpData := if data then h.snpData - 2 ^ half else h.snpData
    passed := if data && h.flip != 3 then h.passed ||| 2 ^ half else h.passed }

/-- What is held for a line is served; halves that BISnpData let held loads pass are snooped for anew once these are served. -/
def servePassed (s : State) (line : Nat) : State :=
  let before := heldLoads (s.hline line)
  let t := serveHeld s line false
  t.modHline line fun h => { h with passed := h.passed &&& ((3 - before) ||| heldLoads h) }

/-- BISNP_RESPONSE (R320, R322, R345): data the host held is merged as one posting, and what waited for the half is served. -/
def execBisnpResponse (line half : Nat) (data : List Byte) (s : State) : Host.Outcome State Fault Refusal :=
  .next (
    let h := s.hline line
    if !bitAt h.snoop half || !(data.isEmpty || (data.length == 64 && seqRoom s line 1)) then s
    else
      let s1 := if data.isEmpty then s else hostMerge s line (halfBytes (line * 128 + half * 64) (data.map some))
      flipStep (servePassed (s1.modHline line fun h => halfAnswered h half) line))

/-! ### Host memory in the near caches -/

/-- The key of a half of a host line. -/
def sectorKey (line half : Nat) : Nat := 2 * line + half

/-- Every chiplet gives up a sector. -/
def recallSector (s : State) (key : Nat) : State := (Tab.keys s.chips).foldl (fun t c => evictSector t c key) s

/-- A host line gets its filter entry, or its entry becomes the most recently used; with all 524,288 in use the least recently used
is recalled (R324). -/
def useFilter (s : State) (line : Nat) : State :=
  let f := s.hp.filter
  let s1 := if f.contains line || f.length < 524288 then s
    else match f with
      | [] => s
      | v :: r => { recallSector (recallSector s (2 * v)) (2 * v + 1) with hp := { s.hp with filter := r } }
  { s1 with hp := { s1.hp with filter := s1.hp.filter.filter (· != line) ++ [line] } }

/-- HOST_SECTOR_GRANT (R324): the answer to RdShared (`own` false, or true where the host grants E) or to RdOwn; its data may be
poisoned (R327). A sector that another chiplet has come to hold in E or M is moved by EC0 instead (`sectorGo`). -/
def execHostSectorGrant (chip line half : Nat) (data : HostData) (own : Bool) (s : State) : Host.Outcome State Fault Refusal :=
  .next (
    let key := sectorKey line half
    let y := sectorOf s chip key
    if !isHost (key * 64) || y.want = 0 || (y.want = 2 && !own) || data.bytes.length ≠ 64 || (sectorOwner s chip key).isSome then s
    else
      let u := useFilter s line
      let s0 := { u with
        mem := Memory.writeN u.mem (key * 64) data.bytes
        hp := { u.hp with lost := u.hp.lost.filter (· != key) } }
      let s1 := if own then
          (Tab.keys s0.chips).foldl (fun t c => if c = chip then t else evictSector t c key) s0
        else s0
      let s2 := modSector s1 chip key fun y => { y with
        st := if own then 2 else 1, data := data.bytes, want := if y.posts.isEmpty then 0 else 2, poison := data.poison
        used := s.clock + 1 }
      nearTrim (if own then sectorGo s2 chip key else releaseOps s2 chip key) chip)

/-- UPGRADE_NOTICE (R324, R325): EC0 has recorded a sector's first write; what waited for it is merged and acknowledged. -/
def execUpgradeNotice (chip line half : Nat) (s : State) : Host.Outcome State Fault Refusal :=
  .next (
    let key := sectorKey line half
    let y := sectorOf s chip key
    if y.st = 2 && y.notice then sectorGo (modSector s chip key fun y => { y with st := 3, notice := false }) chip key
    else s)

/-- EC0 moves sectors to the chiplets that wait for them (R324). -/
def moveSectors (s : State) : State :=
  s.chips.foldl (fun t c => (c.2.host.filter fun y => y.2.want != 0).foldl (fun u y =>
    if (sectorOwner u c.1 y.1).isSome then sectorGo u c.1 y.1 else u) t) s

/-- The chiplet that holds a sector in E or M, or S. -/
def sectorHolder (s : State) (key : Nat) : Option (Nat × Sector) :=
  let hs := s.chips.filterMap fun c => match Tab.get? c.2.host key with
    | some y => if 1 ≤ y.st then some (c.1, y) else none
    | none => none
  match hs.find? fun c => decide (2 ≤ c.2.st) with
  | some c => some c
  | none => hs.head?

/-- A snoop's answer leaves (R326). -/
def answerSnoop (s : State) (line half : Nat) (hit : Bool) (bs : Option (List Byte)) (poison : Bool) : State :=
  { s with outs := s.outs ++ [.snoop line half hit bs poison] }

/-- A snoop meets a sector lost in M with its chiplet (R327): poison, and the entry is cleared; HP_POISONPA names the host address, which
is the physical address less 2^51 (R290). -/
def snoopLost (s : State) (line half : Nat) : State :=
  let key := sectorKey line half
  answerSnoop { s with hp := { s.hp with
    lost := s.hp.lost.filter (· != key), poisonCnt := (s.hp.poisonCnt + 1) % 2 ^ 32, poisonPa := key * 64 - hostBase } } line half true none true

/-- A snoop (R326): data if the sector is in M; `after` is what becomes of the copies. -/
def snoop (s : State) (line half : Nat) (after : State → Nat → Sector → State) : State :=
  let key := sectorKey line half
  if s.hp.lost.contains key then snoopLost s line half
  else match sectorHolder s key with
    | none => answerSnoop s line half false none false
    | some (c, y) =>
      answerSnoop (after s c y) line half true (if y.st = 3 then some y.data else none) false

/-- SNPDATA (R326): the holder goes to S; data in M has gone to the host. -/
def execSnpdata (line half : Nat) (s : State) : Host.Outcome State Fault Refusal :=
  .next (snoop s line half fun t c y =>
    let key := sectorKey line half
    let t1 := if y.st = 3 then { t with mem := Memory.writeN t.mem (key * 64) y.data } else t
    releaseOps (modSector t1 c key fun y => { y with st := 1, notice := false, want := if y.posts.isEmpty then 0 else 2 }) c key)

/-- SNPINV (R326). -/
def execSnpinv (line half : Nat) (s : State) : Host.Outcome State Fault Refusal :=
  .next (snoop s line half fun t _ _ => recallSector t (sectorKey line half))

/-- SNPCUR (R326). -/
def execSnpcur (line half : Nat) (s : State) : Host.Outcome State Fault Refusal := .next (snoop s line half fun t _ _ => t)

/-- The device holds no sector of a line any more, so its filter entry goes. -/
def dropFilter (s : State) : State :=
  { s with hp := { s.hp with filter := s.hp.filter.filter fun l => (sectorHolder s (2 * l)).isSome || (sectorHolder s (2 * l + 1)).isSome } }

/-! ### A chiplet that is gated or lost -/

/-- A chiplet's combine buffers are to be posted (R24, R327). -/
def postChip (s : State) (chip : Nat) : State :=
  (coresOfChip chip).foldl (fun u c => postWanted 64 (wantEntries u c fun _ => true) c) s

/-- Everything a chiplet has stored is posted and acknowledged. -/
def chipQuiet (s : State) (chip : Nat) : Bool :=
  ((coresOfChip chip).all fun c => (s.core c).cb.isEmpty) && s.postings.all fun p => chipOfCore p.2.core != chip

/-- M sectors are written back with DirtyEvict, clean ones dropped with CleanEvict (R327). -/
def giveSectors (s : State) (chip : Nat) : State :=
  dropFilter ((Tab.keys (s.chip chip).host).foldl (fun t k => evictSector t chip k) s)

/-- CHIPLET_POWER_GATING (R327): a chiplet on which no group lives posts its combine buffer, and once that is acknowledged gives up
its host sectors and is gated. -/
def execChipletPowerGating (chip : Nat) (s : State) : Host.Outcome State Fault Refusal :=
  .next (
    if s.groups.any fun g => attChipOf g.1 == chip && g.2.state != .saved && g.2.state != .retired then s
    else
      let s1 := postChip s chip
      if !chipQuiet s1 chip then s1
      else
        let s2 := giveSectors s1 chip
        (s2.modChip chip fun c => { c with near := [], gated := true }))
where
  /-- The chiplet of a group's core. -/
  attChipOf (gid : Nat) : Nat := chipOfCore (coreOf gid)

/-- A chiplet stops abruptly (R327, R366, R373): what its combine buffers hold is lost, and its host sectors in M are marked LOST. The device
keeps the count of its cores' corrected errors (R24, R376). -/
def loseChip (s : State) (chip : Nat) : State :=
  let gone := (s.cores.filter fun (c : Nat × Core) => chipOfCore c.1 == chip).foldl (fun n c => n + c.2.corrected) 0
  let keys := ((s.chip chip).host.filter fun y => y.2.st == 3).map (·.1)
  let s1 := { s with
    chips := Tab.del s.chips chip
    cores := s.cores.filter fun (c : Nat × Core) => chipOfCore c.1 != chip
    postings := s.postings.filter fun (p : Nat × Posting) => chipOfCore p.2.core != chip || isDevice (p.2.ent.line * 128)
    hp := { s.hp with lost := s.hp.lost ++ keys.filter fun k => !s.hp.lost.contains k }
    mg := { s.mg with errlog := bitsAt s.mg.errlog 0 16 + (bitsAt s.mg.errlog 16 48 + gone) % 2 ^ 48 * 2 ^ 16 } }
  dropFilter s1

end Sys2Proof.Machine
end

