-- ==== Sys2Proof/Machine/Proctor.lean ====
section
/-! DEFINITION. The Proctor (20_proctor_telemetry.md, R329 to R341): its instructions, invocations, attaching and detaching, and
the stores of EMIT and SNAP. -/

namespace Sys2Proof.Machine

/-- Change a Proctor. -/
def State.modProctor (s : State) (p : Nat) (f : Proctor → Proctor) : State :=
  { s with proctors := Tab.set s.proctors p (f (s.proctor p)) }

/-- The Proctor whose instruction executes: its port, invocation and attachment. -/
structure PrCtx where
  port : Nat
  run : PrRun
  att : PrAtt
  deriving DecidableEq, Repr

/-- What the executing Proctor is. -/
def State.prIssuer (s : State) : Option PrCtx :=
  match s.curPr with
  | none => none
  | some p => match (s.proctor p).run with
    | none => none
    | some r => match Tab.get? (s.proctor p).atts r.att with
      | none => none
      | some a => some { port := p, run := r, att := a }

/-- Every executed instruction costs one unit of the budget of the round in which its invocation started (R334). -/
def prCharge (s : State) (x : PrCtx) : State :=
  if x.run.round = s.tt.round then
    s.modProctor x.port fun p => { p with used := Tab.set p.used x.att.part (Tab.getD p.used x.att.part 0 + 1) }
  else s

/-- Execute one Proctor instruction. -/
def withPr (s : State) (k : PrCtx → State → State) : Host.Outcome State Fault Refusal :=
  match s.prIssuer with
  | some x => .next (k x (prCharge s x))
  | none => .fault .noIssuer

/-- A work register. -/
def PrCtx.w (x : PrCtx) (n : BitVec 4) : Word := Tab.getD x.run.w n.toNat 0

/-- The next instruction of the invocation, with these work registers. -/
def prGo (s : State) (x : PrCtx) (pc : Nat) (w : Tab Word) : State :=
  s.modProctor x.port fun p => { p with run := some { x.run with pc := pc, w := w } }

/-- Go on with the next instruction in order. -/
def prNext (s : State) (x : PrCtx) : State := prGo s x (x.run.pc + 1) x.run.w

/-- Write W[d] and go on. -/
def prWrite (s : State) (x : PrCtx) (d : BitVec 4) (v : Word) : State :=
  prGo s x (x.run.pc + 1) (Tab.set x.run.w d.toNat v)

/-- src2 (R338). -/
def PrCtx.src2 (x : PrCtx) (f : Pr) : Word := BitVec.ofNat 32 ((x.w f.b).toNat + f.imm.toNat)

/-- The three-operand instructions (R338): W[d] from W[a] and src2, as numbers below 2^32. -/
def prAlu (s : State) (f : Pr) (op : Nat → Nat → Nat) : Host.Outcome State Fault Refusal :=
  withPr s fun x t => prWrite t x f.d (BitVec.ofNat 32 (op (x.w f.a).toNat (x.src2 f).toNat))

/-- LDE (R338). -/
def execPrLde (f : Pr) (s : State) : Host.Outcome State Fault Refusal :=
  withPr s fun x t => prWrite t x f.d (nth x.run.ev.e (f.imm.toNat % 8) 0)

/-- LDI (R338). -/
def execPrLdi (f : Pr) (s : State) : Host.Outcome State Fault Refusal :=
  withPr s fun x t => prWrite t x f.d (BitVec.ofNat 32 ((x.w f.a).toNat * 2 ^ 14 + f.imm.toNat))

/-- ADD (R338). -/
def execPrAdd (f : Pr) (s : State) : Host.Outcome State Fault Refusal := prAlu s f fun a b => a + b

/-- SUB (R338). -/
def execPrSub (f : Pr) (s : State) : Host.Outcome State Fault Refusal := prAlu s f fun a b => a + 2 ^ 32 - b

/-- AND (R338). -/
def execPrAnd (f : Pr) (s : State) : Host.Outcome State Fault Refusal := prAlu s f fun a b => a &&& b

/-- OR (R338). -/
def execPrOr (f : Pr) (s : State) : Host.Outcome State Fault Refusal := prAlu s f fun a b => a ||| b

/-- XOR (R338). -/
def execPrXor (f : Pr) (s : State) : Host.Outcome State Fault Refusal := prAlu s f fun a b => a ^^^ b

/-- SHL (R338). -/
def execPrShl (f : Pr) (s : State) : Host.Outcome State Fault Refusal := prAlu s f fun a b => a * 2 ^ (b % 32)

/-- SHR (R338). -/
def execPrShr (f : Pr) (s : State) : Host.Outcome State Fault Refusal := prAlu s f fun a b => a / 2 ^ (b % 32)

/-- MIN (R338). -/
def execPrMin (f : Pr) (s : State) : Host.Outcome State Fault Refusal := prAlu s f min

/-- MAX (R338). -/
def execPrMax (f : Pr) (s : State) : Host.Outcome State Fault Refusal := prAlu s f max

/-- MUL (R338). -/
def execPrMul (f : Pr) (s : State) : Host.Outcome State Fault Refusal := prAlu s f fun a b => a * b

/-- A multiplicative hash (R338, R339): the product with a seed, modulo 2^32. -/
def PrCtx.hash (x : PrCtx) (seed : Nat) (v : Word) : Nat := v.toNat * (nth x.att.seeds seed 0).toNat % 2 ^ 32

/-- HASH (R338). -/
def execPrHash (f : Pr) (s : State) : Host.Outcome State Fault Refusal :=
  withPr s fun x t =>
    let k := if f.imm.toNat % 32 = 0 then 32 else f.imm.toNat % 32
    prWrite t x f.d (BitVec.ofNat 32 (x.hash (f.imm.toNat / 2 ^ 12) (x.w f.a) / 2 ^ (32 - k)))

/-- The conditions of BFW (R338). -/
def prCond (c : Nat) (a b : Word) : Bool :=
  match c with
  | 0 => true
  | 1 => a == b
  | 2 => a != b
  | 3 => decide (a.toNat < b.toNat)
  | 4 => decide (b.toNat ≤ a.toNat)
  | 5 => decide (sgn 32 a.toNat < sgn 32 b.toNat)
  | 6 => decide (sgn 32 b.toNat ≤ sgn 32 a.toNat)
  | _ => false

/-- BFW (R338). -/
def execPrBfw (f : Pr) (s : State) : Host.Outcome State Fault Refusal :=
  withPr s fun x t =>
    prGo t x (x.run.pc + 1 + (if prCond f.d.toNat (x.w f.a) (x.w f.b) then f.imm.toNat else 0)) x.run.w

/-! ### Scratch -/

/-- m (R338): an index into the program's scratch. -/
def PrAtt.m (a : PrAtt) (i : Nat) : Nat := i % 2 ^ 32 % a.size

/-- A scratch word. -/
def PrAtt.word (a : PrAtt) (i : Nat) : Word := Tab.getD a.scratch (a.m i) 0

/-- Write a scratch word. -/
def PrAtt.put (a : PrAtt) (i : Nat) (v : Word) : PrAtt := { a with scratch := Tab.set a.scratch (a.m i) v }

/-- A saturating counter (R339). -/
def PrAtt.bump (a : PrAtt) (i inc : Nat) : PrAtt := a.put i (BitVec.ofNat 32 (min (2 ^ 32 - 1) ((a.word i).toNat + inc)))

/-- Change the program's attachment and go on. -/
def prScratch (s : State) (x : PrCtx) (a : PrAtt) : State :=
  prNext (s.modProctor x.port fun p => { p with atts := Tab.set p.atts x.run.att a }) x

/-- HINC (R339). -/
def execPrHinc (f : Pr) (s : State) : Host.Outcome State Fault Refusal :=
  withPr s fun x t =>
    prScratch t x (x.att.bump (f.imm.toNat + min (x.w f.a).toNat (2 ^ f.d.toNat - 1)) (x.w f.b).toNat)

/-- The bin of a hash in an array of 2^n (R339). -/
def prBin (n h : Nat) : Nat := if n = 0 then 0 else h / 2 ^ (32 - n)

/-- SKINC (R339): four rows, one after another. -/
def execPrSkinc (f : Pr) (s : State) : Host.Outcome State Fault Refusal :=
  withPr s fun x t =>
    let n := f.d.toNat
    prScratch t x ((List.range 4).foldl (fun a r =>
      a.bump (f.imm.toNat + r * 2 ^ n + prBin n (x.hash r (x.w f.a))) (x.w f.b).toNat) x.att)

/-- HLL (R339). -/
def execPrHll (f : Pr) (s : State) : Host.Outcome State Fault Refusal :=
  withPr s fun x t =>
    let n := f.d.toNat
    let h := x.hash 0 (x.w f.a)
    let rho := min (33 - n) (clz 32 (h * 2 ^ n % 2 ^ 32) + 1)
    let i := f.imm.toNat + prBin n h
    prScratch t x (x.att.put i (BitVec.ofNat 32 (max (x.att.word i).toNat rho)))

/-- LDM (R338). -/
def execPrLdm (f : Pr) (s : State) : Host.Outcome State Fault Refusal :=
  withPr s fun x t => prWrite t x f.d (x.att.word ((x.w f.a).toNat + f.imm.toNat))

/-- STM (R338). -/
def execPrStm (f : Pr) (s : State) : Host.Outcome State Fault Refusal :=
  withPr s fun x t => prScratch t x (x.att.put ((x.w f.a).toNat + f.imm.toNat) (x.w f.b))

/-! ### Actions -/

/-- TRIG IRQ (R340): FE_PRIRQ, and the front end's interrupt. It is pending until the cc ends in which it is raised: those of one cc merge
(DESIGN CHOICE, log 87). -/
def execPrTrigIrq (f : Pr) (s : State) : Host.Outcome State Fault Refusal :=
  withPr s fun x t =>
    let n := ((t.fe x.att.part).prirq / 2 ^ 32 + 1) % 2 ^ 32
    let t1 := t.modFe x.att.part fun e => { e with
      prirq := f.imm.toNat / 2 ^ 6 % 2 ^ 8 + x.port % 64 * 2 ^ 8 + x.att.slot % 16 * 2 ^ 14 + n * 2 ^ 32
      prirqAt := some t.clock }
    prNext (if (t.fe x.att.part).prirqAt = some t.clock then t1 else raiseSignal t1 1 x.att.part) x

/-- An EMIT or SNAP is dropped and counted (R336). -/
def prDropped (s : State) (x : PrCtx) : State :=
  prNext (s.modFe x.att.part fun e => { e with prdropped := (e.prdropped + 1) % 2 ^ 32 }) x

/-- The 16 store buffers of a Proctor are full (R336). -/
def prFull (s : State) (port : Nat) : Bool := decide (16 ≤ (s.proctor port).stores.length)

/-- Put a store into a store buffer (R336). -/
def prStore (s : State) (x : PrCtx) (pa : Nat) (data : List Byte) (snap : Option Nat) : State :=
  s.modProctor x.port fun p => { p with stores := p.stores ++ [{ part := x.att.part, pa := pa, data := data, snap := snap }] }

/-- TRIG SNAP (R340): the scratch as it stands is copied, and the copy is written in the background. -/
def execPrTrigSnap (f : Pr) (s : State) : Host.Outcome State Fault Refusal :=
  withPr s fun x t =>
    let area := bitsAt (t.fe x.att.part).prsnap 16 36 * 2 ^ 16
    if area = 0 || x.att.snapBusy || prFull t x.port || f.imm.toNat % 4 ≠ 1 then prDropped t x
    else
      let bs := (List.range x.att.size).flatMap fun i => toBytes 4 (Tab.getD x.att.scratch i 0).toNat
      if bs.isEmpty then prNext t x
      else
        prScratch (prStore t x (area + 2 ^ 16 * (16 * x.port + x.att.slot)) bs (some x.run.att)) x
          { x.att with snapBusy := true }

/-- Set the ARMED bit of a slot of the same partition on the same Proctor (R340). -/
def prArm (s : State) (f : Pr) (on : Bool) : Host.Outcome State Fault Refusal :=
  withPr s fun x t =>
    let k := x.att.part * 16 + f.imm.toNat / 4 % 16
    prNext (t.modProctor x.port fun p => { p with atts := Tab.upd p.atts k fun a => { a with armed := on } }) x

/-- TRIG ARM (R340). -/
def execPrTrigArm (f : Pr) (s : State) : Host.Outcome State Fault Refusal := prArm s f true

/-- TRIG DISARM (R340). -/
def execPrTrigDisarm (f : Pr) (s : State) : Host.Outcome State Fault Refusal := prArm s f false

/-- A record of EMIT (R341). -/
def emitRecord (s : State) (x : PrCtx) (f : Pr) : List Byte :=
  toBytes 8 s.clock ++ toBytes 1 x.port ++ toBytes 1 x.run.ev.src ++ toBytes 1 (x.att.slot % 16) ++ toBytes 1 f.imm.toNat ++
    toBytes 4 x.att.count ++ (List.range 4).flatMap fun i => toBytes 4 (x.w (f.a + BitVec.ofNat 4 i)).toNat

/-- Records that the ring holds (R331, R341). -/
def Fe.ringRecords (f : Fe) : Nat := 2 ^ (12 + f.prout % 16) / 32

/-- EMIT (R341). -/
def execPrEmit (f : Pr) (s : State) : Host.Outcome State Fault Refusal :=
  withPr s fun x t =>
    let e := t.fe x.att.part
    let base := bitsAt e.prout 12 40 * 2 ^ 12
    if base = 0 || prFull t x.port || (e.prouttail + 2 ^ 32 - e.prouthead) % 2 ^ 32 = e.ringRecords then prDropped t x
    else
      let t1 := prStore t x (base + 32 * (e.prouttail % e.ringRecords)) (emitRecord t x f) none
      prNext (t1.modFe x.att.part fun e => { e with prouttail := (e.prouttail + 1) % 2 ^ 32 }) x

/-! ### Invocations -/

/-- The attachments that an event matches (R333), their counters advanced, and those of them that run. -/
def prMatch (atts : Tab PrAtt) (ev : PrEvent) : Tab PrAtt × List Nat :=
  atts.foldl (fun (st : Tab PrAtt × List Nat) (e : Nat × PrAtt) =>
    let a := e.2
    if 0 < a.skip then (Tab.set st.1 e.1 { a with skip := a.skip - 1 }, st.2)
    else if couldMatch ev a && a.armed then
      let n := (a.count + 1) % 2 ^ 32
      (Tab.set st.1 e.1 { a with count := n }, if n % 2 ^ a.samp = 0 then st.2 ++ [e.1] else st.2)
    else (Tab.set st.1 e.1 a, st.2)) ([], [])

/-- Start the next invocation of the event being handled: one for which the budget does not suffice is skipped and counted
(R334). The fuel is how many remain. -/
def prStart : Nat → State → Nat → State
  | 0, s, _ => s
  | n + 1, s, port =>
    let p := s.proctor port
    match p.cur with
    | none => s
    | some (_, []) => s.modProctor port fun p => { p with cur := none }
    | some (ev, k :: r) =>
      let s1 := s.modProctor port fun p => { p with cur := some (ev, r) }
      match Tab.get? p.atts k with
      | none => prStart n s1 port
      | some a =>
        if a.leaving then prStart n s1 port
        else if (s.fe a.part).prround < Tab.getD p.used a.part 0 + a.code.length then
          prStart n (s1.modFe a.part fun e => { e with prskip := (e.prskip + 1) % 2 ^ 32 }) port
        else s1.modProctor port fun p => { p with run := some { att := k, pc := 0, w := [], ev := ev, round := s.tt.round } }

/-- Start the next invocation, if any remains. -/
def prStartNext (s : State) (port : Nat) : State :=
  match (s.proctor port).cur with
  | none => s
  | some (_, ks) => prStart (ks.length + 1) s port

/-- A program has gone: a copy of its SNAP that is still being written marks no other program's slot (R332, R340). -/
def Proctor.without (p : Proctor) (key : Nat) : Proctor :=
  { p with
    atts := Tab.del p.atts key
    stores := p.stores.map fun x => if x.snap = some key then { x with snap := none } else x }

/-- END (R338): the invocation ends; a program that was detached meanwhile is gone. -/
def execPrEnd (_ : Pr) (s : State) : Host.Outcome State Fault Refusal :=
  withPr s fun x t =>
    prStartNext (t.modProctor x.port fun p =>
      let q := { p with run := none }
      if x.att.leaving then q.without x.run.att else q) x.port

/-- PROCTOR_INVOCATION (R333): the next entry of the tap FIFO is handled. -/
def execProctorInvocation (port : Nat) (s : State) : Host.Outcome State Fault Refusal :=
  .next (
    let p := s.proctor port
    if p.run.isSome then s
    else match p.cur, p.fifo with
      | some _, _ => prStartNext s port
      | none, [] => s
      | none, ev :: r =>
        let m := prMatch p.atts ev
        prStartNext (s.modProctor port fun p => { p with fifo := r, atts := m.1, cur := some (ev, m.2) }) port)

/-! ### Attaching -/

/-- Chiplets on which a source is tapped (R337). -/
def tappedOn (src port : Nat) : Bool :=
  let cc := decide (port < 16)
  let mc := decide (16 ≤ port) && decide (port < 32)
  match src with
  | 0 => true
  | 2 => mc
  | 8 => true
  | 9 => true
  | 10 => decide (32 ≤ port)
  | _ => cc && decide (src ≤ 16)

/-- The ports of a command (R331). -/
def cmdPorts (v : Nat) : List Nat := (List.range 34).filter fun p => bitAt v (16 + p)

/-- Whether a program's instruction may be attached (R338 to R340). -/
def prLegal (len scr idx : Nat) (w : Word) : Bool :=
  match decodePr w with
  | none => false
  | some i =>
    let target := match i with
      | .prBfw f => decide (idx + 1 + f.imm.toNat < len)
      | _ => true
    let last := match i with
      | .prEnd _ => true
      | _ => decide (idx + 1 ≠ len)
    let pad := match i with
      | .prHinc _ | .prSkinc _ | .prHll _ | .prLdm _ | .prStm _ => decide (scr ≠ 0)
      | _ => true
    target && last && pad

/-- The words of an image (R330). -/
def prImage (s : State) (pa n : Nat) : List Word :=
  (List.range n).map fun i => BitVec.ofNat 32 (ofBytes (Memory.readN s.mem (pa + 4 * i) 4))

/-- The image's header is valid (R330, R332). -/
def prHeaderOk (h : List Word) : Bool :=
  let w0 := (nth h 0 0).toNat
  let len := w0 % 2 ^ 7
  decide (1 ≤ len) && decide (len ≤ 64) && decide (w0 / 2 ^ 8 % 16 ≤ 11) && w0 / 2 ^ 16 == 0 && !bitAt w0 7 &&
    nth h 1 0 == 0 && (h.drop 6).all (· == 0)

/-- Scratch words of a size code (R330). -/
def prScratchWords (scr : Nat) : Nat := if scr = 0 then 0 else 2 ^ (scr + 3)

/-- What an attach comes to (R332): its result, the index of a rejected instruction, the ports on which it failed. -/
def prCheck (s : State) (fe v : Nat) : Nat × Nat × List Nat :=
  let f := s.fe fe
  let pa := bitsAt f.prprog 6 46 * 64
  let ports := cmdPorts v
  let h := prImage s pa 16
  let w0 := (nth h 0 0).toNat
  let len := w0 % 2 ^ 7
  let scr := w0 / 2 ^ 8 % 16
  if !deviceAllowed f pa || !deviceAllowed f (pa + 63) || !prHeaderOk h || !deviceAllowed f (pa + 63 + 4 * len) then
    (1, 0, ports)
  else
    match (prImage s (pa + 64) len).zipIdx.find? fun e => !prLegal len scr e.2 e.1 with
    | some e => (2, e.2, ports)
    | none =>
      let key := fe * 16 + v % 16
      let src := bitsAt v 4 6
      let noRoom := ports.filter fun p =>
        let a := (s.proctor p).atts
        decide (64 ≤ a.length) || decide (65536 < (a.foldl (fun n (e : Nat × PrAtt) => n + e.2.size) 0) + prScratchWords scr)
      let busy := ports.filter fun p => (Tab.get? (s.proctor p).atts key).isSome
      let untapped := ports.filter fun p => !tappedOn src p
      if !noRoom.isEmpty then (3, 0, noRoom)
      else if !busy.isEmpty then (4, 0, busy)
      else if !untapped.isEmpty then (5, 0, untapped)
      else (0, 0, [])

/-- FE_PRSTAT after a command (R331). -/
def prStat (r idx : Nat) (ports : List Nat) : Nat :=
  r * 2 + idx * 2 ^ 4 + ports.foldl (fun n p => n + 2 ^ (16 + p)) 0

/-- PROCTOR_ATTACH (R330, R332): the host's command attaches a program on every selected chiplet or on none. -/
def execProctorAttach (fe : Nat) (v : DWord) (s : State) : Host.Outcome State Fault Refusal :=
  .next (
    let n := v.toNat
    if bitAt n 10 || bitAt (s.fe fe).prstat 0 then s
    else
      let c := prCheck s fe n
      let s1 := s.modFe fe fun f => { f with prstat := prStat c.1 c.2.1 c.2.2 }
      if c.1 ≠ 0 then s1
      else
        let pa := bitsAt (s.fe fe).prprog 6 46 * 64
        let h := prImage s pa 16
        let w0 := (nth h 0 0).toNat
        (cmdPorts n).foldl (fun t p => t.modProctor p fun q =>
          let a : PrAtt :=
            { part := fe, slot := n % 16, src := bitsAt n 4 6, armed := bitAt n 11, count := 0, samp := w0 / 2 ^ 12 % 16
              seeds := ((h.drop 2).take 4).map (· ||| 1), code := prImage s (pa + 64) (w0 % 2 ^ 7)
              size := prScratchWords (w0 / 2 ^ 8 % 16), scratch := [], snapBusy := false, skip := q.fifo.length
              leaving := false }
          { q with atts := Tab.set q.atts (fe * 16 + n % 16) a }) s1)

/-- Detach a program: an invocation that runs finishes (R332). -/
def prDetach (s : State) (port key : Nat) : State :=
  s.modProctor port fun p =>
    let running := match p.run with
      | some r => r.att == key
      | none => false
    let q := if running then { p with atts := Tab.upd p.atts key fun a => { a with leaving := true } } else p.without key
    { q with
      cur := p.cur.map fun c => (c.1, c.2.filter (· != key)) }

/-- Every program of a partition is detached (R331). -/
def prDetachAll (s : State) (part : Nat) : State :=
  s.proctors.foldl (fun t e => e.2.atts.foldl (fun u (a : Nat × PrAtt) =>
    if a.2.part = part then prDetach u e.1 a.1 else u) t) s

/-- PROCTOR_DETACH (R332). -/
def execProctorDetach (fe : Nat) (v : DWord) (s : State) : Host.Outcome State Fault Refusal :=
  .next (
    let n := v.toNat
    if !bitAt n 10 || bitAt (s.fe fe).prstat 0 then s
    else
      let key := fe * 16 + n % 16
      let missing := (cmdPorts n).filter fun p => match Tab.get? (s.proctor p).atts key with
        | some a => a.leaving
        | none => true
      let s1 := (cmdPorts n).foldl (fun t p => if missing.contains p then t else prDetach t p key) s
      s1.modFe fe fun f => { f with prstat := prStat (if missing.isEmpty then 0 else 6) 0 missing })

/-- FE_PROUTHEAD (R341): a write that would pass FE_PROUTTAIL is ignored. -/
def execFeProuthead (fe : Nat) (v : DWord) (s : State) : Host.Outcome State Fault Refusal :=
  .next (
    let f := s.fe fe
    let h := v.toNat % 2 ^ 32
    if (h + 2 ^ 32 - f.prouthead) % 2 ^ 32 ≤ (f.prouttail + 2 ^ 32 - f.prouthead) % 2 ^ 32 then
      s.modFe fe fun f => { f with prouthead := h }
    else s)

/-! ### Background stores -/

/-- The copy of a SNAP is written (R340). -/
def snapDone (p : Proctor) : Option Nat → Proctor
  | none => p
  | some k => { p with atts := Tab.upd p.atts k fun a => { a with snapBusy := false } }

/-- One line of the oldest store in a Proctor's buffers is written, as a plain store of class 3 of its partition (R336): not
while the host may hold the line (R320) or the class has no budget left (R288). -/
def drainProctor (s : State) (port : Nat) : State :=
  match (s.proctor port).stores with
  | [] => s
  | x :: r =>
    let n := min x.data.length (128 - x.pa % 128)
    let bs := (x.data.take n).zipIdx.map fun b => (x.pa + b.2, b.1)
    let step (t : State) : State := t.modProctor port fun p =>
      let rest := x.data.drop n
      if rest.isEmpty then snapDone { p with stores := r } x.snap
      else { p with stores := { x with pa := x.pa + n, data := rest } :: r }
    let core := if port < 16 then 8 * port else bitsAt (s.fe x.part).cores 0 7
    let put (t : State) : State := step (agentWrite { t with nextOp := t.nextOp + 1 } t.nextOp x.part 3 0 core 0 none bs)
    if isHost x.pa then put s
    else if !isDevice x.pa then step s
    else match writeWaits s x.part (some 3) (bs.map (·.1)) with
      | some t => t
      | none =>
        put (writeCounts s x.part 3 (bs.map (·.1)))

/-- Each Proctor writes one line of what its buffers hold. -/
def drainProctors (s : State) : State := (Tab.keys s.proctors).foldl drainProctor s

end Sys2Proof.Machine
end

