-- ==== Sys2Proof/Machine/FrontEnd.lean ====
section
/-! DEFINITION. The front ends (R278 to R282), partition resets (R364 to R367), virtual functions (R280, R281), way masks (R286) and
the Timetable (R287, R288). -/

namespace Sys2Proof.Machine

/-! ### What a partition reset discards -/

/-- The tiles of a core after a reset: those of the groups that are gone are clear and free, and their jobs have no turn. -/
def freeTilesOf (uids jobs : List Nat) (ts : Tab Tile) : Tab Tile :=
  (ts.filter fun (t : Nat × Tile) => match t.2.owner with
    | some u => !uids.contains u
    | none => true).map fun (t : Nat × Tile) => (t.1, { t.2 with turns := t.2.turns.filter fun j => !jobs.contains j })

/-- Everything of a partition that a reset discards (R364): its groups, images, tiles, scratchpads, Attendance entries, operations
and jobs, fault events, TLB and walk-cache entries. What its cores hold in their combine buffers is posted. -/
def discardPart (s0 : State) (part : Nat) : State :=
  let s := endPartColls s0 part
  let uids := (s.groups.filter fun g => g.2.part == part).map fun g => g.2.uid
  let jobs := (s.mjobs.filter fun j => j.2.part == part).map (·.1)
  let cohorts := (s.teams.filter fun t => t.2.part == part).map fun t => t.2.cohort
  let cores := s.fes.flatMap fun f => if f.1 = part then f.2.coreList else []
  let keep (ls : List Leaf) : List Leaf := ls.filter fun l => l.part != part
  let s1 := { s with
    groups := s.groups.filter fun (g : Nat × Group) => g.2.part != part
    teams := s.teams.filter fun (t : Nat × Team) => t.2.part != part
    sliceSets := s.sliceSets.filter fun (z : Nat × SliceSet) => !cohorts.contains (z.1 / 64)
    ops := s.ops.filter fun (o : Nat × Op) => o.2.part != part
    works := s.works.filter fun (w : Nat × Work) => w.2.part != part
    mjobs := s.mjobs.filter fun (j : Nat × MJob) => j.2.part != part
    churns := s.churns.filter fun (c : Nat × Churn) => c.2.part != part
    colls := s.colls.filter fun (c : Nat × Coll) => c.2.part != part
    notes := s.notes.filter fun (n : Nat × Note) => !(n.2.part == part && n.2.stage == 0)
    events := s.events.filter fun (e : Nat × FaultEvent) => e.2.part != part
    past := s.past.filter fun (e : PastEvent) => e.part != part
    launches := s.launches.filter fun (l : Nat × Launch) => l.2.part != part
    chips := s.chips.map fun (c : Nat × Chip) =>
      let att := c.2.att.filter fun (e : Nat × AttEnt) => e.2.part != part
      (c.1, { c.2 with
        att := att, tlb := keep c.2.tlb, walks := c.2.walks.filter fun w => w.1 != part
        scan := c.2.scan.filter fun z => att.any fun e => e.2.stamp == z.victim })
    cores := s.cores.map fun (c : Nat × Core) =>
      (c.1, { c.2 with
        tlb := keep c.2.tlb, tiles := freeTilesOf uids jobs c.2.tiles
        cb := c.2.cb.map fun e => if e.part = part then { e with ops := [], want := true } else e })
    etlbs := s.etlbs.map fun (e : Nat × List Leaf) => (e.1, keep e.2) }
  cores.foldl (fun t c => drainNotes (postWanted 64 t c) c) s1

/-- The Proctor registers of a front end after a partition reset (R331). -/
def clearPr (f : Fe) : Fe :=
  { f with prskip := 0, prdropped := 0, prdrop := 0, prouttail := 0, prouthead := 0, prirq := 0, prirqAt := none }

/-- The front end's own state after a partition reset (R195, R276, R291, R301, R364). -/
def clearFe (f : Fe) (cause key : Nat) : Fe :=
  { clearPr f with
    pointer := bitsAt f.cores 0 7, key := key, saveOrder := [], restores := [], fqtail := 0, fqhead := 0, faultSeq := 0
    fqWaiting := [], fqJob := none, tlbinvBusy := false, tlbinvOps := [], rst := true, rcause := cause, resets := (f.resets + 1) % 256 }

/-! ### The Journal at a reset -/

/-- A launch that runs, or runs again, from its entry (R365). -/
def launchOfEntry (s : State) (part : Nat) (e : JEntry) : Launch :=
  launchOfBlock s part e.jseq e.parent (blockOf e.blk) e.grant

/-- Put a launch back among those to be placed. -/
def requeue (s : State) (part : Nat) (e : JEntry) : State :=
  { s with launches := Tab.set s.launches (launchKey part e.jseq) (launchOfEntry s part e) }

/-- An entry becomes ABORTED at a reset (R365). -/
def abortEntry (s : State) (part jseq fin : Nat) : State :=
  changeEntry s part jseq fun e => { e with state := 4, fin := fin, code := 0, tend := s.clock }

/-- One entry at a reset (R365): `gone` are the entries aborted or replayed so far, `named` the one that the watchdog names. -/
def visitEntry (part : Nat) (named : Option Nat) (st : State × List Nat) (e : JEntry) : State × List Nat :=
  let s := st.1
  let gone := st.2 ++ [e.jseq]
  if e.state = 0 || e.ended then st
  else if st.2.contains e.parent then (abortEntry s part e.jseq 4, gone)
  else if e.state = 1 then (requeue s part e, st.2)
  else if named == some e.jseq then (abortEntry s part e.jseq 5, gone)
  else if !e.replay then (abortEntry s part e.jseq 4, gone)
  else if 8 ≤ e.runs then (abortEntry s part e.jseq 6, gone)
  else (requeue (changeEntry s part e.jseq fun e => { e with state := 1 }) part e, gone)

/-- Visit every entry in JSEQ order (R365). -/
def visitJournal (s : State) (part : Nat) (named : Option Nat) : State :=
  ((s.fe part).jnl.foldl (fun st (e : Nat × JEntry) => visitEntry part named st e.2) (s, [])).1

/-- A partition reset (R364, R365), with its cause; one that meets a running reset joins it. -/
def resetPart (s : State) (part cause : Nat) (named : Option Nat) : State :=
  if (s.fe part).rst then s
  else
    let s1 := prDetachAll (discardPart s part) part
    let s2 := { s1 with nextOp := s1.nextOp + 1 }.modFe part fun f => clearFe f cause s1.nextOp
    visitJournal s2 part named

/-! ### Submissions -/

/-- The translator of a front end's own reads. -/
def feXer (fe : Nat) : Xer := { part := fe, core := none, chip := none, eng := none, hmode := false }

/-- The outcome of a commit (R282). -/
def submitStatus (s : State) (fe st : Nat) : State := s.modFe fe fun f => { f with status := st }

/-- Handle one commit (R282); the second part is false where its block's read must wait for a snoop (R320). -/
def handleSubmit (s : State) (fe ptr seq : Nat) : State × Bool :=
  let f := s.fe fe
  if !f.en then (submitStatus s fe 5, true)
  else if seq ≤ f.last then (submitStatus s fe 1, true)
  else if f.last + 1 < seq then (submitStatus s fe 2, true)
  else if ptr % 64 ≠ 0 then (submitStatus s fe 3, true)
  else
    let r := vaRead s (feXer fe) .load false ptr 64
    match r.2 with
    | .error [] => (r.1, false)
    | .error _ => (submitStatus r.1 fe 3, true)
    | .ok bs =>
      if !(blockOf bs).valid f then (submitStatus r.1 fe 3, true)
      else if !f.jnlRoom then (submitStatus r.1 fe 4, true)
      else
        let a := acceptLaunch r.1 fe 0 seq ptr false bs
        (a.1.modFe fe fun f => { f with last := seq, status := 0 }, true)

/-- Handle the commits that wait, in order, as far as they go (R282, R364). -/
def serveSubmits : Nat → State → Nat → State
  | 0, s, _ => s
  | n + 1, s, fe =>
    let f := s.fe fe
    match f.submits with
    | [] => s
    | (ptr, seq) :: r =>
      if f.rst then s
      else match handleSubmit s fe ptr seq with
        | (t, true) => serveSubmits n (t.modFe fe fun f => { f with submits := r }) fe
        | (t, false) => t

/-- FE_SUBMIT (R282): a write of FE_SUBMIT_HI commits the pointer last written to FE_SUBMIT_LO. -/
def execFeSubmit (fe : Nat) (v : DWord) (s : State) : Host.Outcome State Fault Refusal :=
  let s1 := s.modFe fe fun f => { f with submits := f.submits ++ [(f.submitLo, v.toNat % 2 ^ 32)] }
  .next (serveSubmits (s1.fe fe).submits.length s1 fe)

/-- A partition reset ends once every change of its Journal is durable; then the commits held are handled (R364). -/
def endReset (s : State) (fe : Nat) : State :=
  let f := s.fe fe
  let s1 := if f.rst && (f.notDurable.isEmpty || !f.trusted) then s.modFe fe fun f => { f with rst := false } else s
  serveSubmits f.submits.length s1 fe

/-- End every reset that is over. -/
def endResets (s : State) : State := (Tab.keys s.fes).foldl endReset s

/-! ### Enabling, disabling, resetting -/

/-- a is newer than b by VER (R361), as R232 compares sequence numbers, modulo 256 with a window of 128. -/
def newerVer (a b : Nat) : Bool :=
  let d := (a + 256 - b % 256) % 256
  1 ≤ d && d ≤ 127

/-- Which of the two copies of an entry is taken (R361). -/
def takeCopy : Option JEntry → Option JEntry → Option JEntry
  | some a, some b =>
    if a.jseq < b.jseq then some b
    else if b.jseq < a.jseq then some a
    else if newerVer b.ver a.ver then some b else some a
  | some a, none => some a
  | none, b => b

/-- Read the Journal back (R361): the copies of each index whose CHECK holds are compared, and the one taken is written to the other
mirror. -/
def readBack (f : Fe) : Fe :=
  let idx := (Tab.keys f.mir0 ++ Tab.keys f.mir1).eraseDups
  let got : Tab JEntry := idx.foldl (fun t i =>
    match takeCopy (if f.serve0 then (Tab.get? f.mir0 i).bind JCopy.read else none)
        (if f.serve1 then (Tab.get? f.mir1 i).bind JCopy.read else none) with
    | some e => Tab.set t i e
    | none => t) []
  let copies : Tab JCopy := got.map fun (e : Nat × JEntry) => (e.1, e.2.copy)
  let jnl : Tab JEntry := (got.filter fun (e : Nat × JEntry) => e.2.state != 0 && decide (f.jnlhead ≤ e.2.jseq)).foldl
    (fun t (e : Nat × JEntry) => Tab.set t e.2.jseq e.2) []
  { f with
    mir0 := if f.serve0 then copies else f.mir0
    mir1 := if f.serve1 then copies else f.mir1
    vers := got.map fun (e : Nat × JEntry) => (e.1, e.2.ver)
    jnl := jnl, shown := jnl, notDurable := [] }

/-- Recovery after a device reset (R361, R365, R367). -/
def recoverPart (s : State) (fe : Nat) : State :=
  if !(s.fe fe).recover then s
  else visitJournal (s.modFe fe fun f => { readBack f with recover := false }) fe none

/-- Two core ranges overlap (R278). -/
def rangesMeet (a b : Fe) : Bool :=
  decide (bitsAt a.cores 0 7 ≤ bitsAt b.cores 8 7) && decide (bitsAt b.cores 0 7 ≤ bitsAt a.cores 8 7)

/-- The table that counts as committed: the one that waits for the round boundary, else the running one (R287). -/
def committedSlots (s : State) : Tab Nat :=
  match s.tt.next with
  | some t => t.1
  | none => s.tt.runSlots

/-- A partition owns a slot of a table (R287). -/
def ownsSlot (t : Tab Nat) (part : Nat) : Bool := (List.range 64).any fun n => Tab.getD t n 0x20 == part

/-- Every required image has been verified (R372, R376): bring-up may begin. -/
def booted (s : State) : Bool := bitAt s.mg.bootstat 0

/-- Setting EN must fail (R278, R287, R366, R367); bring-up has not begun before every image has been verified (R372). -/
def enableFails (s : State) (fe : Nat) : Bool :=
  let f := s.fe fe
  decide (bitsAt f.cores 8 7 < bitsAt f.cores 0 7) ||
  (s.fes.any fun e => e.1 != fe && e.2.en && rangesMeet e.2 f) ||
  !ownsSlot (committedSlots s) fe ||
  (s.mg.failed.any fun c => decide (c < 16) && f.coreList.any fun k => chipOfCore k == c) ||
  !booted s || (!s.mg.trained && fe != 0)

/-- FE_CTL_ENABLE (R278): the configuration is committed, or EN stays 0 and ERR is set. -/
def execFeCtlEnable (fe : Nat) (s : State) : Host.Outcome State Fault Refusal :=
  .next (
    if (s.fe fe).en then s
    else if enableFails s fe then s.modFe fe fun f => { f with err := true }
    else
      let s1 := recoverPart s fe
      { s1 with nextOp := s1.nextOp + 1 }.modFe fe fun f => { f with
        en := true, key := s1.nextOp, pointer := bitsAt f.cores 0 7 })

/-- FE_CTL_DISABLE (R278): a partition reset. -/
def execFeCtlDisable (fe : Nat) (s : State) : Host.Outcome State Fault Refusal :=
  .next (if (s.fe fe).en then resetPart (s.modFe fe fun f => { f with en := false }) fe 1 none else s)

/-- FE_RESET (R362, R364). -/
def execFeReset (fe : Nat) (v : DWord) (s : State) : Host.Outcome State Fault Refusal :=
  .next (if bitAt v.toNat 0 then resetPart s fe 1 none else s)

/-- WATCHDOG_EXPIRY (R364). -/
def execWatchdogExpiry (fe jseq : Nat) (s : State) : Host.Outcome State Fault Refusal :=
  .next (match Tab.get? s.launches (launchKey fe jseq) with
    | some l =>
      if (s.fe fe).wdctl && l.started && decide (l.moved + l.savedFor + 2 ^ 28 ≤ s.clock) then resetPart s fe 2 (some jseq) else s
    | none => s)

/-- The primary mirror of a partition goes out of service (R366): changes under way go on to the secondary alone (R361). -/
def losePrimary (f : Fe) : Fe :=
  { f with
    serve0 := false
    mir1 := if f.serve1 then
        f.notDurable.foldl (fun m j => match Tab.get? f.jnl j with
          | some e => Tab.set m (jindex j) e.copy
          | none => m) f.mir1
      else f.mir1 }

/-- The mirrors that a memory chiplet holds go out of service (R359, R366). -/
def failMirrors (s : State) (mc : Nat) : State :=
  (List.range 32).foldl (fun t n =>
    if n % 16 = mc then t.modFe n losePrimary
    else if (n + 8) % 16 = mc then t.modFe n fun f => { f with serve1 := false }
    else t) s

/-- JOURNAL_MIRROR_FAILURE (R366). -/
def execJournalMirrorFailure (mc : Nat) (s : State) : Host.Outcome State Fault Refusal := .next (failMirrors s mc)

/-- Partitions whose core range includes a compute chiplet (R366). -/
def partsOfChip (s : State) (chip : Nat) : List Nat :=
  (s.fes.filter fun f => f.2.coreList.any fun c => chipOfCore c == chip).map (·.1)

/-- HARDWARE_FAILURE (R364, R366): a compute chiplet's failure resets each partition whose core range includes it, with EN 0 and ERR. A memory
chiplet holds lines of every partition, and mirrors, which go out of service; an edge chiplet holds every front end: their failure resets
each partition that is enabled (log 104). -/
def execHardwareFailure (chip : Nat) (s : State) : Host.Outcome State Fault Refusal :=
  let s0 := { s with mg := { s.mg with failed := if s.mg.failed.contains chip then s.mg.failed else s.mg.failed ++ [chip] } }
  .next (
    let enabled := (s.fes.filter fun f => f.2.en).map (·.1)
    if chip < 16 then
      loseChip ((partsOfChip s chip).foldl (fun t p => resetPart (t.modFe p fun f => { f with en := false, err := true }) p 3 none) s0)
        chip
    else if chip < 34 then
      enabled.foldl (fun t p => resetPart t p 3 none) (if chip < 32 then failMirrors s0 (chip - 16) else s0)
    else s0)

/-! ### Allow list and Journal head -/

/-- Write the limits of the selected allow-list entry; a length of 0 clears its grants (R279). -/
def putAllow (f : Fe) (h : Allow → Allow) : Fe :=
  { f with allow := Tab.set f.allow f.allowidx (h (Tab.getD f.allow f.allowidx Allow.empty)) }

/-- FE_ALLOWLIM (R278, R279). Bit 39, which R278's table does not list, is kept and read back (DESIGN CHOICE, log 79). -/
def execFeAllowlim (fe : Nat) (v : DWord) (s : State) : Host.Outcome State Fault Refusal :=
  .next (s.modFe fe fun f => putAllow f fun a => { a with
    lim := v.toNat, grant := if v.toNat % 2 ^ 32 = 0 then 0 else a.grant })

/-- The lowest JSEQ held whose state is not COMPLETED or ABORTED, as a host would read it (R360, R363). -/
def lowestOpen (f : Fe) : Option Nat :=
  (f.jnl.find? fun e => !e.2.ended || f.notDurable.contains e.1).map (·.1)

/-- An entry becomes FREE (R360, R363): VER advances, and both mirrors hold the change. -/
def freeEntry (f : Fe) (e : JEntry) : Fe :=
  let i := jindex e.jseq
  let v := (Tab.getD f.vers i 0 + 1) % 256
  let e1 := { e with state := 0, ver := v }
  { f with
    jnl := Tab.del f.jnl e.jseq, shown := Tab.del f.shown e.jseq, vers := Tab.set f.vers i v
    mir0 := if f.serve0 then Tab.set f.mir0 i e1.copy else f.mir0
    mir1 := if f.serve1 then Tab.set f.mir1 i e1.copy else f.mir1 }

/-- FE_JNLHEAD (R363). -/
def execFeJnlhead (fe : Nat) (v : DWord) (s : State) : Host.Outcome State Fault Refusal :=
  .next (s.modFe fe fun f =>
    let n := min v.toNat (min ((lowestOpen f).getD f.jnltail) f.jnltail)
    if n ≤ f.jnlhead then f
    else { (f.jnl.filter fun e => e.1 < n).foldl (fun g (e : Nat × JEntry) => freeEntry g e.2) f with jnlhead := n })

/-! ### The Timetable -/

/-- The start of a slot at every port: class budgets are renewed, and the Proctors see it (R288, R337). -/
def slotStarts (s : State) : State :=
  let s1 := { s with slices := s.slices.map fun (x : Nat × Slice) => (x.1, { x.2 with used := [], owned := false }) }
  (List.range 34).foldl (fun t p => tap t p 0 none [t.tt.slot, Tab.getD t.tt.runSlots t.tt.slot 0x20, t.tt.round]) s1

/-- The clock at which the running slot ends (R287). -/
def slotEnd (s : State) : Nat := (s.tt.round * 64 + s.tt.slot + 1) * 512

/-- TIMETABLE_SLOT_START (R287, R288): a further slot of the round starts. -/
def execTimetableSlotStart (s : State) : Host.Outcome State Fault Refusal :=
  .next (if s.tt.slot < 63 && slotEnd s ≤ s.clock then slotStarts { s with tt := { s.tt with slot := s.tt.slot + 1 } } else s)

/-- Proctor budgets are refilled (R334). -/
def refillBudgets (s : State) : State :=
  { s with
    proctors := s.proctors.map fun (p : Nat × Proctor) => (p.1, { p.2 with used := [] })
    fes := s.fes.map fun (f : Nat × Fe) => (f.1, { f.2 with prround := f.2.prbudget }) }

/-- A round whose first cc has come starts (R287): a waiting commit takes effect, Proctor budgets are refilled, the first slot starts. -/
def roundStart (s : State) : State :=
  if s.tt.slot = 63 && slotEnd s ≤ s.clock then
    let tt := match s.tt.next with
      | some t => { s.tt with runSlots := t.1, runBudgets := t.2, next := none }
      | none => s.tt
    slotStarts (refillBudgets { s with tt := { tt with slot := 0, round := s.tt.round + 1 } })
  else s

/-- TIMETABLE_ROUND_START (R287). -/
def execTimetableRoundStart (s : State) : Host.Outcome State Fault Refusal := .next (roundStart s)

/-- The staged table is copied and checked (R287). -/
def commitTable (s : State) : State :=
  if s.fes.any fun f => f.2.en && !ownsSlot s.tt.slots f.1 then { s with tt := { s.tt with failed := true } }
  else { s with tt := { s.tt with failed := false, next := some (s.tt.slots, s.tt.budgets) } }

/-- TT_COMMIT (R287). In the first cc of a round that round has started: the commit waits for the next one. -/
def execTtCommit (v : DWord) (s : State) : Host.Outcome State Fault Refusal :=
  .next (if bitAt v.toNat 0 then commitTable (roundStart s) else s)

/-! ### Way masks -/

/-- The global slices that FE_WAYIDX selects (R278). -/
def waySlices (f : Fe) : List Nat :=
  if f.wayidx = 0x7FF then List.range 1280 else if f.wayidx < 1280 then [f.wayidx] else []

/-- FE_WAYMASK (R278, R286). -/
def execFeWaymask (fe : Nat) (v : DWord) (s : State) : Host.Outcome State Fault Refusal :=
  .next ((waySlices (s.fe fe)).foldl (fun t k =>
    t.modSlice k fun x => { x with nextMasks := Tab.set x.nextMasks fe (v.toNat % 2 ^ 16) }) s)

/-- WAY_MASK_APPLY (R286): cleaning starts where a way is removed. -/
def execWayMaskApply (fe slice : Nat) (s : State) : Host.Outcome State Fault Refusal :=
  .next (match Tab.get? (s.slice slice).nextMasks fe with
    | none => s
    | some m => s.modSlice slice fun x =>
      let old := Tab.getD x.masks fe 0xFFFF
      { x with
        masks := Tab.set x.masks fe m, nextMasks := Tab.del x.nextMasks fe
        cleaning := if old &&& m = old || x.cleaning.contains fe then x.cleaning else x.cleaning ++ [fe] })

/-- WAY_CLEANING_DONE (R286): the dirty lines of the ways not allowed are written back. -/
def execWayCleaningDone (fe slice : Nat) (s : State) : Host.Outcome State Fault Refusal :=
  .next (
    if !(s.slice slice).cleaning.contains fe then s
    else
      let ways := waysOf (Tab.getD (s.slice slice).masks fe 0xFFFF)
      let clean (h : Nat × HomeLine) : Nat × HomeLine :=
        let out := match h.2.cached with
          | some p => !ways.contains (p % 16)
          | none => false
        if globalSlice (h.1 * 128) == slice && out then (h.1, { h.2 with dirty := false }) else h
      let s1 := { s with hlines := s.hlines.map clean }
      s1.modSlice slice fun x => { x with cleaning := x.cleaning.filter (· != fe) })

/-! ### Virtual functions -/

/-- A virtual function of a state. -/
def State.vf (s : State) (n : Nat) : Vf := Tab.getD s.vfs n Vf.empty

/-- Change a virtual function. -/
def State.modVf (s : State) (n : Nat) (f : Vf → Vf) : State := { s with vfs := Tab.set s.vfs n (f (s.vf n)) }

/-- VF_MBOX (R280, R281): the pointer is queued and the host scheduler's interrupt raised, or it is dropped and counted. -/
def execVfMbox (vf : Nat) (v : DWord) (s : State) : Host.Outcome State Fault Refusal :=
  .next (
    if bitAt (s.vf vf).map 8 && decide ((s.vf vf).fifo.length < 64) then
      raiseSignal (s.modVf vf fun x => { x with fifo := x.fifo ++ [v.toNat] }) 2 vf
    else s.modVf vf fun x => { x with dropped := (x.dropped + 1) % 2 ^ 16 })

/-- MAILBOX_FIFO_READ (R280). -/
def execMailboxFifoRead (vf : Nat) (s : State) : Host.Outcome State Fault Refusal :=
  .next (match (s.vf vf).fifo with
    | [] => s
    | p :: r => let t := s.modVf vf fun x => { x with fifo := r }
      { t with outs := t.outs ++ [.mailbox vf p] })

/-- VF_MAP (R281): ignored while the FIFO holds pointers. -/
def execVfMap (vf : Nat) (v : DWord) (s : State) : Host.Outcome State Fault Refusal :=
  .next (
    if (s.vf vf).fifo.isEmpty then s.modVf vf fun x => { x with map := v.toNat % 32 + bitsAt v.toNat 8 1 * 2 ^ 8 } else s)

end Sys2Proof.Machine
end

