-- ==== Sys2Proof/Machine/Manage.lean ====
section
/-! DEFINITION. Device resets (R24, R25, R328, R364, R373), firmware and attestation (R372, R374), power (R375), scrubbing (R62,
R370) and bring-up (R367). -/

namespace Sys2Proof.Machine

/-! ### Corrected errors -/

/-- The device's corrected-error count (R370, R376): its own and the cores'. -/
def correctedCount (s : State) : Nat :=
  (bitsAt s.mg.errlog 16 48 + s.cores.foldl (fun n c => n + c.2.corrected) 0) % 2 ^ 48

/-- The value of MG_ERRLOG (R376). -/
def errlogValue (s : State) : Nat := bitsAt s.mg.errlog 0 16 + correctedCount s * 2 ^ 16

/-- A corrected error outside the register files is counted (R370). -/
def countCorrected (s : State) : State :=
  { s with mg := { s.mg with
    errlog := bitsAt s.mg.errlog 0 16 + (bitsAt s.mg.errlog 16 48 + 1) % 2 ^ 48 * 2 ^ 16 } }

/-! ### Device reset -/

/-- Write the bytes of a partial line to memory. -/
def flushBytes (m : Memory) (line : Nat) (bs : Tab Byte) : Memory :=
  bs.foldl (fun m (b : Nat × Byte) => Memory.write m (line * 128 + b.1) b.2) m

/-- Postings that have not reached their line yet, in the order in which they would. -/
def postingsOut (s : State) : List (Nat × Tab Byte) :=
  let ofMsg (m : Msg) : List (Nat × Tab Byte) := match m with
    | .posting _ line bytes _ _ _ _ => [(line, bytes)]
    | _ => []
  (s.hlines.flatMap fun h => h.2.held.flatMap fun m => ofMsg m.2) ++
  (s.pairs.flatMap fun p => p.2.inbox.flatMap (fun q => ofMsg q.2) ++
    (p.2.sent.filter fun f => f.last && f.got != 2).flatMap (fun f => ofMsg f.msg) ++ p.2.unsent.flatMap ofMsg)

/-- What a device reset writes back before it takes effect (R24, R327): modified host sectors, and every byte stored and not yet
merged. -/
def writeBackAll (s : State) : Memory :=
  let m1 := (s.chips.flatMap fun c => c.2.host.filter fun y => y.2.st == 3).foldl
    (fun m (y : Nat × Sector) => Memory.writeN m (y.1 * 64) y.2.data) s.mem
  let m2 := (postingsOut s).foldl (fun m (y : Nat × Tab Byte) => flushBytes m y.1 y.2) m1
  let m3 := (s.postings.filter fun p => isHost (p.2.ent.line * 128)).foldl
    (fun m (p : Nat × Posting) => flushBytes m p.2.ent.line p.2.ent.bytes) m2
  (s.cores.flatMap fun c => c.2.cb).foldl (fun m (e : CbEnt) => flushBytes m e.line e.bytes) m3

/-- A byte of memory keeps its value across a device reset (R25): host memory is not the device's, and regions that firmware
declares persistent. -/
def survives (pa : Nat) : Bool := isHost pa || Config.persistent pa

/-- What a front end keeps across a device reset: its Journal, with LAST, read back from the mirrors (R282, R361, R364). Its
recovery runs at the first EN (R367). -/
def keepJournal (f : Fe) : Fe :=
  readBack { Fe.empty with
    last := f.last, jnlhead := f.jnlhead, jnltail := f.jnltail, vers := f.vers, mir0 := f.mir0, mir1 := f.mir1
    serve0 := f.serve0, serve1 := f.serve1, recover := true }

/-- The state after a device reset (R3, R24, R25, R328, R364, R373), given the memory as it stands and the host sectors that are
lost. Names and free values in use are not used again. -/
def afterReset (s : State) (mem : Memory) (lost : List Nat) : State :=
  { State.reset with
    agenda := s.agenda, nextOp := s.nextOp, freeCtr := s.freeCtr, outs := s.outs
    mem := mem.filter fun c => survives c.1
    hlines := (s.hlines.filter fun h => h.2.poison.isSome && survives (h.1 * 128)).map fun h =>
      (h.1, { HomeLine.empty with poison := h.2.poison })
    fes := s.fes.map fun f => (f.1, keepJournal f.2)
    hp := { HostPort.empty with lost := lost }
    mg := { Mgmt.empty with errlog := errlogValue s, failed := s.mg.failed, fuses := s.mg.fuses } }

/-- A device reset that the host asks for: what the chiplets hold is written back first (R24, R327). -/
def orderlyReset (s : State) : State := afterReset s (writeBackAll s) s.hp.lost

/-- The secondary copy of a change whose write an abrupt reset interrupts may be torn: its CHECK then fails, and the primary's is taken
(R361; log 105). -/
def tearCopies (n : Nat) (f : Fe) : Fe :=
  { f with mir1 := if f.serve0 && f.serve1 then
        f.notDurable.foldl (fun m j => match Tab.get? f.jnl j with
          | some e => Tab.set m (jindex j) { entry := e, check := Config.freeWord n }
          | none => m) f.mir1
      else f.mir1 }

/-- An abrupt device reset (R373): what the chiplets hold is lost. -/
def abruptReset (s0 : State) (cause : Nat) : State :=
  let s := { s0 with
    freeCtr := s0.freeCtr + 1, fes := s0.fes.map fun (f : Nat × Fe) => (f.1, tearCopies s0.freeCtr f.2) }
  let t := (List.range 16).foldl loseChip s
  let u := afterReset t t.mem t.hp.lost
  let e := errlogValue s
  { u with mg := { u.mg with
    errlog := cause % 256 + (bitsAt e 8 8 + 1) % 256 * 2 ^ 8 + bitsAt e 16 48 * 2 ^ 16 } }

/-- MG_BOOTSTAT after firmware has been verified (R372, R376): every image, or the one that failed and why. -/
def bootstatOf (img cause : Nat) : Nat := if cause % 8 = 0 then 1 else img % 256 * 2 + cause % 8 * 2 ^ 9

/-- The images that a successful verification finds (R372): each of a version at or above its fused minimum. -/
def verifiedImages (m : Mgmt) (n : Nat) : List FwImage :=
  (List.range Config.fwImages).map fun i =>
    { digest := Config.fwDigest n i, version := Tab.getD m.fuses i 0 + Config.fwAbove n i }

/-- The fuses once verified images run, which alone raise them (R372). -/
def raisedFuses (m : Mgmt) (n : Nat) : Tab Nat :=
  (List.range Config.fwImages).foldl (fun t i =>
    Tab.set t i (Tab.getD m.fuses i 0 + min (Config.fwAbove n i) (Config.fuseRaise n i))) m.fuses

/-- The boot controller verifies every image before it runs (R372): an image that fails, with its cause, is reported, and nothing of
bring-up begins. -/
def verifyFirmware (s : State) (img cause : Nat) : State :=
  let n := s.freeCtr
  { s with
    freeCtr := n + 1
    mg := if cause % 8 = 0 then
        { s.mg with bootstat := bootstatOf img cause, images := verifiedImages s.mg n, fuses := raisedFuses s.mg n }
      else { s.mg with bootstat := bootstatOf img cause } }

/-- MG_RESET (R328, R364, R372, R376): 0xD0 starts a device reset; then each firmware image is verified. -/
def execMgReset (v : DWord) (img cause : Nat) (s : State) : Host.Outcome State Fault Refusal :=
  .next (if v.toNat = 0xD0 then verifyFirmware (orderlyReset s) img cause else s)

/-- The boot controller verifies the firmware of a device that has come out of any other reset (R367, R372). -/
def bootVerify (s : State) : Host.Outcome State Fault Refusal :=
  let r := Config.bootResult s.freeCtr
  .next (if s.mg.bootstat = 0 then verifyFirmware s r.1 r.2 else s)

/-- FATAL_DEVICE_ERROR (R373). -/
def execFatalDeviceError (cause : Nat) (s : State) : Host.Outcome State Fault Refusal := .next (abruptReset s cause)

/-- PLANES_TRAINED (R367). -/
def execPlanesTrained (s : State) : Host.Outcome State Fault Refusal :=
  .next (if booted s then { s with mg := { s.mg with trained := true } } else s)

/-! ### Attestation, power -/

/-- MG_ATTCMD (R374). -/
def execMgAttcmd (v : DWord) (s : State) : Host.Outcome State Fault Refusal :=
  .next (if bitAt v.toNat 0 && !s.mg.attBusy then
      { s with mg := { s.mg with attBusy := true, attDone := false, nonceNow := s.mg.nonce } }
    else s)

/-- What an attestation report holds (R374): the firmware digests, the fused versions, each partition's EN, core range and Timetable
slots, as a mask, and the nonce. -/
def reportContents (s : State) : List Nat :=
  s.mg.images.map (·.digest) ++ (List.range s.mg.images.length).map (fun i => Tab.getD s.mg.fuses i 0) ++
    (List.range 32).flatMap (fun n => [(s.fe n).en.toNat, (s.fe n).cores,
      (List.range 64).foldl (fun m k => m + (if Tab.getD s.tt.runSlots k 0x20 = n then 2 ^ k else 0)) 0]) ++ [s.mg.nonceNow]

/-- The 512 bytes of the report (R374; its layout: log 102). -/
def attReport (s : State) : List Byte := (List.range 512).map (Config.attestReport (reportContents s))

/-- The 512 bytes of its signature: over the report's SHA-512 digest, with the identity key (R2, R374). -/
def attSignature (report : List Byte) : List Byte := (List.range 512).map (Config.identitySign (Config.sha512 report))

/-- ATTESTATION_DONE (R374): the report and its signature appear. -/
def execAttestationDone (s : State) : Host.Outcome State Fault Refusal :=
  .next (if s.mg.attBusy then
      { s with mg := { s.mg with
          attBusy := false, attDone := true, attbuf := attReport s ++ attSignature (attReport s) } }
    else s)

/-- The core clock in MHz (R375, R376): 2,100 where MG_POWER still reads zero. -/
def clockMhz (s : State) : Nat := if bitsAt s.mg.power 16 12 = 0 then 2100 else bitsAt s.mg.power 16 12

/-- MG_POWER with a measurement (R376): the power in W, the core clock in MHz, the hottest junction in °C. -/
def powerWord (w mhz t : Nat) : Nat := w % 2 ^ 12 + mhz % 2 ^ 12 * 2 ^ 16 + t % 2 ^ 8 * 2 ^ 32

/-- POWER_LIMIT_REACHED (R375): a measurement reaches the limit of MG_PWRCAP, or the junction limit; the clock goes down by 100 MHz, no
lower than 1.0 GHz. Which limit, and what is measured beyond it, is free (log 103). -/
def execPowerLimitReached (s : State) : Host.Outcome State Fault Refusal :=
  let r := Config.freeWord s.freeCtr
  let hot := bitAt r 0
  let w := r / 2 % 2 ^ 12
  let t := r / 2 ^ 13 % 2 ^ 8
  .next { s with
    freeCtr := s.freeCtr + 1
    mg := { s.mg with
      limitAt := s.clock
      power := powerWord (if hot then w else max s.mg.pwrcap w) (max 1000 (clockMhz s - 100))
        (if hot then max Config.junctionLimit t else t) } }

/-- The measurement has stayed below the limits for 1 ms (R375), counted at the present clock. -/
def coolLong (s : State) : Bool := decide (s.mg.limitAt + 1000 * clockMhz s ≤ s.clock)

/-- CLOCK_RAISE (R375): by a step of 100 MHz, no higher than the rated clock, once the measurement has stayed below the limits for 1 ms.
What is measured below them is free (log 103). -/
def execClockRaise (s : State) : Host.Outcome State Fault Refusal :=
  let r := Config.freeWord s.freeCtr
  .next (if coolLong s then
      { s with
        freeCtr := s.freeCtr + 1
        mg := { s.mg with power := powerWord (r % max 1 s.mg.pwrcap) (min 2100 (clockMhz s + 100))
                                    (r / 2 ^ 12 % max 1 Config.junctionLimit) } }
    else s)

/-! ### Scrubbing -/

/-- The partition that owns a core (R278). -/
def partOfCore (s : State) (core : Nat) : Option Nat := (s.fes.find? fun f => f.2.en && f.2.owns core).map (·.1)

/-- REGISTER_SCRUB (R61, R62): a single-bit error is corrected in place; a double-bit error stays, marked bad. -/
def execRegisterScrub (core row lane : Nat) (s : State) : Host.Outcome State Fault Refusal :=
  .next (match Tab.get? (s.core core).bad (badKey row lane) with
    | some false => correctWords s core (partOfCore s core) [badKey row lane]
    | some true => tap s (chipOfCore core) 15 (partOfCore s core) [core, 1, (s.core core).corrected]
    | none => s)

/-- The scrubber passes over all words of a core (R62): those with errors are what it changes. -/
def sweepCore (core : Nat) (s : State) : Host.Outcome State Fault Refusal :=
  (s.core core).bad.foldl (fun (o : Host.Outcome State Fault Refusal) e => match o with
    | .next t => execRegisterScrub core (e.1 / 64) (e.1 % 64) t
    | r => r) (.next (s.modCore core fun c => { c with swept := s.clock }))

/-- A line of device memory becomes poisoned (R370, R371). -/
def poisonLine (s : State) (line : Nat) : State :=
  if isDevice (line * 128) then s.modHline line fun h => { h with poison := some 0 } else s

/-- A 64-byte host sector of a chiplet meets an error (R370): a clean one is dropped, a modified one is lost and later answered with
poison (R327). -/
def loseSector (s : State) (chip key : Nat) : State :=
  let y := Tab.getD (s.chip chip).host key Sector.empty
  let s1 := s.modChip chip fun c => { c with host := Tab.upd c.host key fun y => { y with st := 0, data := [] } }
  dropFilter (if y.st = 3 then { s1 with hp := { s1.hp with lost := s1.hp.lost.filter (· != key) ++ [key] } } else s1)

/-- Host sectors of a line with bytes at these offsets are lost: a snoop of them is answered with poison (R327, R370). -/
def loseHost (s : State) (line : Nat) (offs : List Nat) : State :=
  let ks := (offs.map fun o => 2 * line + o / 64).eraseDups
  { s with hp := { s.hp with lost := s.hp.lost.filter (fun k => !ks.contains k) ++ ks } }

/-- Bytes in a combine buffer meet an error: they are lost, and their line is poisoned; of a line of host memory, the sectors that they
belong to are (R327, R370, R371). -/
def loseCb (s : State) (core line : Nat) : State :=
  match (s.core core).cb.find? fun e => e.line == line with
  | none => s
  | some e =>
    let t := s.modCore core fun c => { c with cb := c.cb.map fun e => if e.line = line then { e with bytes := [] } else e }
    if isHost (line * 128) then loseHost t line (Tab.keys e.bytes) else poisonLine t line

/-- Drop a TLB or walk-cache entry (R370): places 0-15 L2 TLBs, 16-31 walk caches, 32-159 core TLBs, from 160 engine TLBs. -/
def forgetLeaf (s : State) (place k : Nat) : State :=
  if place < 16 then s.modChip place fun c => { c with tlb := c.tlb.eraseIdx k }
  else if place < 32 then s.modChip (place - 16) fun c => { c with walks := c.walks.eraseIdx k }
  else if place < 160 then s.modCore (place - 32) fun c => { c with tlb := c.tlb.eraseIdx k }
  else { s with etlbs := Tab.upd s.etlbs (place - 160) fun l => l.eraseIdx k }

/-- STORAGE_SCRUB (R370): an error in kind 0 a scratchpad (of the team `place`, word `line`), 1 an L1 (of a core), 2 a combine buffer (of
a core), 3 a near cache (of a chiplet), 4 a home-slice cache, 5 a directory, 6 a TLB or walk cache, 7 an Attendance unit, whose entry
is rebuilt. Where it can be corrected (`fatal` false) it is counted, whatever the kind: 8 is DRAM, whose errors that cannot be corrected
DRAM_READ_COMPLETE and DRAM_PATROL bring. -/
def execStorageScrub (kind place line : Nat) (fatal : Bool) (s : State) : Host.Outcome State Fault Refusal :=
  .next (if !fatal then countCorrected s
    else match kind with
      | 0 => s.modTeam place fun t => { t with poison := if t.poison.contains line then t.poison else t.poison ++ [line] }
      | 1 => s.modCore place fun c => { c with l1 := Tab.del c.l1 line }
      | 2 => loseCb s place line
      | 3 =>
        if isHost (line * 128) then loseSector (loseSector s place (2 * line)) place (2 * line + 1)
        else s.modChip place fun c => { c with near := Tab.del c.near line }
      | 4 =>
        let h := s.hline line
        if h.cached.isNone || globalSlice (line * 128) != place then s
        else if h.dirty then poisonLine (evictLine s place line) line
        else evictLine s place line
      | 5 => abruptReset { s with freeCtr := s.freeCtr + 1 } (Config.freeWord s.freeCtr)
      | 6 => forgetLeaf s place line
      | _ => s)

/-- DRAM_PATROL (R370): the patrol finds an error in a line: one that cannot be corrected poisons it, any other is corrected and counted. -/
def execDramPatrol (mc line : Nat) (bad : Bool) (s : State) : Host.Outcome State Fault Refusal :=
  .next (if homeMc (line * 128) ≠ mc then s else if bad then poisonLine s line else countCorrected s)

end Sys2Proof.Machine
end

