-- ==== Sys2Proof/Machine/Image.lean ====
section
/-! DEFINITION. The context image (R310 to R313): how a saved group stands in device memory. -/

namespace Sys2Proof.Machine

/-- Where the image of a group lies (R304). -/
def imageBase (s : State) (gid : Nat) (g : Group) : Nat :=
  let f := s.fe g.part
  bitsAt f.ctxpa 16 36 * 2 ^ 16 + 0x50000 * (128 * (coreOf gid - bitsAt f.cores 0 7) + slotOf gid)

/-- Cycles of SLEEP that remain (R312); a saved group's sleepers hold what remained at the save. -/
def sleepLeft (s : State) (g : Group) : Cond → Nat
  | .sleeping till => if g.state = .saved then till else till - s.clock
  | _ => 0

/-- COND and REASON (R312); a fragment parked only for the save is ready in the image (log 73). -/
def condBits : Cond → Nat
  | .ready => 0
  | .parked .preempt _ _ => 0
  | .parked why _ _ => 1 + 8 * why.code
  | .sleeping _ => 2
  | .atRpc => 3

/-- A split entry (R312). -/
def entryBytes (s : State) (g : Group) : SplitEntry → List Byte
  | .frag f =>
    let ridx := if f.idx = 0 then f.resume.getD 0 else f.idx
    toBytes 8 f.pc ++ toBytes 1 (ridx % 16 + 16) ++ toBytes 1 f.depth ++ toBytes 1 (condBits f.cond) ++
      toBytes 1 (bitOf f.scc + 2 * bitOf f.carry) ++ toBytes 4 (sleepLeft s g f.cond) ++ toBytes 8 f.members.toNat ++
      toBytes 8 f.exec.toNat
  | .region r =>
    toBytes 8 r.rpc ++ toBytes 1 32 ++ toBytes 1 r.depth ++ toBytes 6 0 ++ toBytes 8 r.expected.toNat ++ toBytes 8 r.arrived.toNat

/-- The matrix jobs that a save records (R307), in issue order: those that have not been done and wait at one of the group's tiles. A job on a
tile that the group has left by a remap stays there and goes on (R173; DESIGN CHOICE, log 84). -/
def savedJobs (s : State) (uid : Nat) : List (Nat × MJob) :=
  s.mjobs.filter fun e => e.2.uid == uid && !(e.2.kind == 4 && e.2.begun) && (match e.2.tile with
    | some t => (tileOf s (coreOf e.2.gid) t).owner == some uid
    | none => true)

/-- A job record (R312). -/
def jobBytes (j : MJob) : List Byte :=
  let dest := if j.kind = 3 then 800 + j.queue else if j.kind = 5 || j.kind = 6 then j.dest % 1024 else 0
  let w := dest + bitOf (j.kind == 3 && j.half) * 2 ^ 16 + (match j.flag with | some n => n | none => 15) * 2 ^ 20
  let fb := (List.range 8).flatMap fun i => toBytes 4 (nth j.fb i 0)
  toBytes 1 j.kind ++ toBytes 1 j.name ++ toBytes 1 j.shape ++ toBytes 1 (if j.kind ≤ 2 then j.row else 0) ++ toBytes 4 w ++ fb ++
    toBytes 8 j.a ++ toBytes 8 j.b

/-- What a save replays (R307): the operations held, and the notes not posted, in the order of their issue. -/
inductive Replay where
  | op (o : Op)
  | note (n : Note)
  deriving DecidableEq, Repr

/-- The replayed operations of a group by name. -/
def replays (s : State) (uid : Nat) : Tab Replay :=
  let a : Tab Replay := (s.ops.filter fun e => e.2.uid == uid && e.2.replays).foldl (fun t (e : Nat × Op) => Tab.set t e.1 (.op e.2)) []
  (s.notes.filter fun e => e.2.uid == uid && e.2.stage == 0).foldl (fun t (e : Nat × Note) => Tab.set t e.1 (.note e.2)) a

/-- Lanes of an operation that await data (R312). -/
def awaiting (o : Op) : LaneMask := maskOf fun l => inMask o.lanes l && o.acc.any fun a => a.lane == l && !a.done

/-- The address of a lane as computed at issue (R312). -/
def laneVa (o : Op) (l : Nat) : Nat :=
  match o.acc.find? fun a => a.lane == l with
  | some a => a.va - a.off
  | none => 0

/-- The SEQ of the fault event an operation stopped at. -/
def faultSeqOf (s : State) (o : Op) : Nat :=
  match o.stage with
  | .faulted ev => match Tab.get? s.events ev with
    | some e => (Tab.keys e.seqs).head?.getD 0
    | none => 0
  | _ => 0

/-- A replay packet (R312). The 16 bytes of a lane's DATA hold a store's data, or an atomic's DATA and CMP of 8 bytes each (log 45). -/
def packetBytes (s : State) : Replay → List Byte
  | .op o =>
    let kind := match o.kind, o.stage with
      | _, .faulted _ => 2
      | .load, _ => 1
      | .sload, _ => 1
      | _, _ => 2
    let lanes := awaiting o
    let data (l : Nat) : List Byte := match o.kind with
      | .atomic => toBytes 8 (Tab.getD o.data l 0) ++ toBytes 8 (Tab.getD o.cmp l 0)
      | .satomic => toBytes 8 (Tab.getD o.data l 0) ++ toBytes 8 (Tab.getD o.cmp l 0)
      | .store => (laneBytes o l ++ List.replicate 16 0).take 16
      | .sstore => (laneBytes o l ++ List.replicate 16 0).take 16
      | _ => toBytes 16 0
    toBytes 8 o.pc ++ ((o.iw ++ [0, 0, 0]).take 3).flatMap (fun (w : Word) => toBytes 4 w.toNat) ++ toBytes 1 kind ++
      toBytes 1 (o.flag.getD 15) ++ toBytes 2 0 ++ toBytes 8 lanes.toNat ++ toBytes 8 (faultSeqOf s o) ++ toBytes 24 0 ++
      ((List.range 64).flatMap fun l => toBytes 8 (laneVa o l)) ++ (List.range 64).flatMap data
  | .note n =>
    toBytes 8 n.pc ++ ((n.iw ++ [0, 0, 0]).take 3).flatMap (fun (w : Word) => toBytes 4 w.toNat) ++ toBytes 1 3 ++
      toBytes 1 (n.flag.getD 15) ++ toBytes 2 0 ++ toBytes 8 n.lanes.toNat ++ toBytes 8 n.pass.toNat ++ toBytes 4 n.index ++
      toBytes 20 0 ++ (List.range 64).flatMap fun l => toBytes 8 (nth n.vals (if n.uniform then 0 else l) 0).toNat

/-- Entries of a queue that are present, and those reserved that have not arrived (R310). -/
def queueCounts (q : List QSlot) : Nat × Nat :=
  ((q.filter fun e => e.val.isSome).length, (q.filter fun e => e.val.isNone).length)

/-- The entries of a queue from its head, each of `n` words. -/
def queueBytes (n : Nat) (q : List QSlot) : List Byte :=
  q.flatMap fun e => match e.val with
    | some ws => (List.range n).flatMap fun i => toBytes 4 (nth ws i 0).toNat
    | none => toBytes (4 * n) 0

/-- The fragment whose latch of this number can still be read, and the reads that remain (R41, R313). R313 has one record for each latch
number: where several fragments of the group hold a live one, the entry with the lowest index is recorded (DESIGN CHOICE, log 74). -/
def latchOwner (g : Group) (n : Nat) : Option (Nat × Latch × Nat) :=
  g.frags.findSome? fun e => match Tab.get? e.2.latches n with
    | some x => if x.stamp ≤ e.2.count && e.2.count < x.stamp + 2 && e.2.lastSp < x.stamp then
        some (e.1, x, x.stamp + 2 - e.2.count) else none
    | none => none

/-- The latch record of R313. -/
def latchByte (g : Group) (n : Nat) : Nat :=
  match latchOwner g n with
  | some (fi, _, left) => 2 ^ 7 + fi % 8 * 2 ^ 4 + left % 4
  | none => 0

/-- A latch's lanes (R310). -/
def latchBytes (g : Group) (n : Nat) : List Byte :=
  match latchOwner g n with
  | some (_, x, _) => (List.range 64).flatMap fun l => toBytes 8 (nth x.vals (if x.uniform then 0 else l) 0).toNat
  | none => []

/-- Bits packed into bytes, `w` for each register (R310). -/
def packRegs (w : Nat) (f : Nat → Nat) : List Byte :=
  toBytes (64 * w) ((List.range 512).foldl (fun n k => n + f k * 2 ^ (w * k)) 0)

/-- The header (R311). `valid`: the image is complete. -/
def headerBytes (s : State) (gid : Nat) (g : Group) (jobs pkts : Nat) (valid : Bool) : List Byte :=
  toBytes 4 1 ++ toBytes 4 (g.savedFrom.code + 8 * bitOf g.halted + 16 * bitOf valid) ++ toBytes 8 (g.launch / 32) ++ toBytes 8 g.tsave ++
    toBytes 1 g.vcount ++ toBytes 1 g.kept.length ++ toBytes 1 (Tab.getD s.cgens gid 0) ++ toBytes 1 pkts ++
    toBytes 4 (genOf s gid + jobs % 16 * 2 ^ 12 + bitOf (jobs == 16) * 2 ^ 16) ++
    toBytes 4 (if g.halted then 0xFFFFFFFF else g.liveMask) ++ toBytes 4 g.sticky ++
    ((List.range 12).flatMap fun n => toBytes 1 (nth g.fcnt n 0)) ++ toBytes 1 g.bprio ++ toBytes 1 (bitOf g.hmode.isSome) ++
    toBytes 2 0 ++ toBytes 4 g.trapcnt ++ toBytes 4 g.nfail ++
    (List.range 12).flatMap fun n => match Tab.get? g.nrec n with
      | some r => toBytes 8 r.pass.toNat ++ toBytes 1 r.cause ++ toBytes 7 0
      | none => toBytes 16 0

/-- The parts of an image (R310) by offset; bytes not given are zero. -/
def imageParts (s : State) (gid : Nat) (g : Group) : List (Nat × List Byte) :=
  let jobs := savedJobs s g.uid
  let pkts := replays s g.uid
  let q (n : Nat) : List QSlot := nth g.queues n []
  let inPlace (k : Nat) : List Byte := match Tab.get? g.split k with
    | some e => entryBytes s g e
    | none => toBytes 32 0
  [(0, headerBytes s gid g jobs.length pkts.length true)] ++
  g.s.map (fun (e : Nat × Word) => (0x100 + 4 * e.1, toBytes 4 e.2.toNat)) ++
  (List.range 8).map (fun k => (0x700 + 32 * k, inPlace k)) ++
  [(0x800, queueBytes 2 (q 4)), (0x880, queueBytes 2 (q 5)), (0x8C0, queueBytes 2 (q 6))] ++
  g.kept.zipIdx.map (fun e => (0x940 + 8 * e.2, toBytes 8 (statusOf e.1))) ++
  [(0x980, (List.range 7).flatMap fun n => toBytes 1 (queueCounts (q n)).1),
   (0x988, (List.range 7).flatMap fun n => toBytes 1 (queueCounts (q n)).2),
   (0x990, toBytes 8 g.pts),
   (0x998, (List.range 3).flatMap fun n => toBytes 1 (latchByte g n)),
   (0xA00, packRegs 2 fun k => match Tab.get? g.note k with
      | some .empty => 1
      | some .full => 2
      | _ => 0),
   (0xA80, packRegs 1 fun k => bitOf ((Tab.get? g.pend k).isSome || Tab.get? g.note k == some .empty))] ++
  (List.range 3).map (fun n => (0xB00 + 512 * n, latchBytes g n)) ++
  jobs.zipIdx.map (fun e => (0x1100 + 64 * e.2, jobBytes e.1.2)) ++
  (List.range 4).map (fun n => (0x2000 + 2048 * n, queueBytes 64 (q n))) ++
  pkts.zipIdx.map (fun e => (0x4000 + 1792 * e.2, packetBytes s e.1.2)) ++
  (List.range 128).map (fun k => (0xB000 + 32 * k, inPlace (k + 8))) ++
  g.v.map (fun (e : Nat × List Word) => (0x10000 + 256 * e.1, e.2.flatMap fun w => toBytes 4 w.toNat)) ++
  g.kept.zipIdx.flatMap fun t => t.1.elems.map fun (e : Nat × Nat) => (0x18000 + 28672 * t.2 + 28 * e.1, toBytes 28 e.2)
where
  /-- A saved tile's status (R187). -/
  statusOf (t : Tile) : Nat :=
    bitOf t.accsat + 2 * bitOf t.sclamp + 4 * bitOf t.narp + (if t.mode = 0 then 0 else 8) + (if t.mode = 2 then 16 else 0) +
      32 * bitOf t.stop + 64 * (t.rows % 64)

/-- Write an image: the 320 KiB are cleared, then its parts written; at the home of a line in use it is an application (R231). -/
def putImage (s : State) (base : Nat) (parts : List (Nat × List Byte)) : State :=
  let cleared := s.mem.filter fun (c : Host.Cell) => !(decide (base ≤ c.1) && decide (c.1 < base + 0x50000))
  let mem := parts.foldl (fun m (p : Nat × List Byte) => Memory.writeN m (base + p.1) p.2) cleared
  (s.hlines.filter fun (h : Nat × HomeLine) => decide (base / 128 ≤ h.1) && decide (h.1 < base / 128 + 0xA00)).foldl (fun t h =>
    probeAndReply (t.modHline h.1 fun x => { x.written (2 ^ 128 - 1) with seq := (x.seq + 1) % 2 ^ 16 }) h.1 none none)
    { s with mem := mem }

/-- The image area of a group lies in its partition's window of device memory (R291, R304); an image outside it is not stored (log 82). -/
def imageFits (s : State) (gid : Nat) (g : Group) : Bool :=
  let base := imageBase s gid g
  deviceAllowed (s.fe g.part) base && deviceAllowed (s.fe g.part) (base + 0x4FFFF)

/-- The image area of a group must wait for some of its lines in use (R232, R320). -/
def imageGate (gate : State → Nat → Nat → Option State) (s : State) (base : Nat) : Option State :=
  let r := (s.hlines.filter fun (h : Nat × HomeLine) => decide (base / 128 ≤ h.1) && decide (h.1 < base / 128 + 0xA00)).foldl
    (fun (st : State × Bool) h => match gate st.1 (h.1 * 128) 128 with
      | some t => (t, true)
      | none => st) (s, false)
  if r.2 then some r.1 else none

/-- A table of registers or elements as an image holds it: `n` bytes for each, from `base` on. -/
def loadTab {α : Type} (mem : List Host.Cell) (base n count : Nat) (old : Tab α) (h : List Byte → α) : Tab α :=
  let cells := mem.filter fun c => decide (base ≤ c.1) && decide (c.1 < base + n * count)
  ((Tab.keys old ++ cells.map fun c => (c.1 - base) / n).eraseDups).foldl (fun t k =>
    if k < count then Tab.set t k (h (Memory.readN cells (base + n * k) n)) else t) old

/-- `n` bytes of memory as a number. -/
def wordAt (s : State) (a n : Nat) : Nat := ofBytes (Memory.readN s.mem a n)

/-- A split entry as the image at `a` gives it (R312). One whose PC or RIDX the image has changed enters its clause there, as after TRET; a
COND that it has changed is taken as it stands, but for 1, whose reason alone does not say what is awaited (log 23). -/
def loadEntry (s : State) (a : Nat) : SplitEntry → SplitEntry
  | .frag f =>
    let pc := wordAt s a 8
    let ridx := wordAt s (a + 8) 1 % 16
    let c := wordAt s (a + 10) 1
    let f1 := if pc = f.pc && ridx = (if f.idx = 0 then f.resume.getD 0 else f.idx) then f
      else { f with pc := pc, idx := 0, words := [], resume := if ridx = 0 then none else some ridx }
    .frag { f1 with
      depth := wordAt s (a + 9) 1, scc := bitAt (wordAt s (a + 11) 1) 0, carry := bitAt (wordAt s (a + 11) 1) 1
      members := BitVec.ofNat 64 (wordAt s (a + 16) 8)
      exec := BitVec.ofNat 64 (wordAt s (a + 24) 8) &&& BitVec.ofNat 64 (wordAt s (a + 16) 8)
      cond := match f.cond with
        | .sleeping _ => if c = 2 then .sleeping (wordAt s (a + 12) 4) else condOf c f.cond
        | w => if c = condBits w then w else condOf c w }
  | .region r => .region { r with
      rpc := wordAt s a 8, depth := wordAt s (a + 9) 1, expected := BitVec.ofNat 64 (wordAt s (a + 16) 8)
      arrived := BitVec.ofNat 64 (wordAt s (a + 24) 8) }
where
  /-- A condition that the image has changed. -/
  condOf (c : Nat) (old : Cond) : Cond := match c % 8 with
    | 0 => .ready
    | 2 => .sleeping (wordAt s (a + 12) 4)
    | 3 => .atRpc
    | _ => old

/-- The recorded note failures of the header (R311). -/
def loadRecs (s : State) (base : Nat) (g : Group) : Tab NoteFail :=
  (List.range 12).foldl (fun t n =>
    let a := base + 64 + 16 * n
    let c := wordAt s (a + 8) 1
    if c = 0 then Tab.del t n
    else Tab.set t n { pass := BitVec.ofNat 64 (wordAt s a 8), cause := c, raised := match Tab.get? g.nrec n with
      | some r => r.raised
      | none => false }) g.nrec

/-- The note states of an image (R310). -/
def loadNotes (s : State) (base : Nat) : Tab NoteSt :=
  let m := wordAt s (base + 0xA00) 128
  if m = 0 then []
  else (List.range 512).foldl (fun t k => match bitsAt m (2 * k) 2 with
    | 1 => Tab.set t k .empty
    | 2 => Tab.set t k .full
    | _ => t) []

/-- Where the entries of a queue lie in an image, and the words of each (R310). -/
def queuePlace (n : Nat) : Nat × Nat :=
  if n < 4 then (0x2000 + 2048 * n, 64) else (if n = 4 then 0x800 else if n = 5 then 0x880 else 0x8C0, 2)

/-- The values of the entries that a queue holds come from the image (R310). -/
def loadQueue (s : State) (base n : Nat) (q : List QSlot) : List QSlot :=
  let p := queuePlace n
  let words (i : Nat) : List Word := (List.range p.2).map fun k => BitVec.ofNat 32 (wordAt s (base + p.1 + 4 * (p.2 * i + k)) 4)
  q.mapIdx fun i e => { e with val := e.val.map fun _ => words i }

/-- A latch's values come from the image where it is recorded there (R310, R313). -/
def loadLatch (s : State) (base : Nat) (g : Group) (n : Nat) : Group :=
  match latchOwner g n with
  | none => g
  | some (fi, x, _) =>
    let y : Latch := { x with vals := (List.range x.vals.length).map fun l => BitVec.ofNat 64 (wordAt s (base + 0xB00 + 512 * n + 8 * l) 8) }
    { g with split := Tab.upd g.split fi fun e => match e with
        | .frag f => .frag { f with latches := Tab.set f.latches n y }
        | e => e }

/-- A tile's status as the image gives it (R187, R310). -/
def loadStatus (w : Nat) (t : Tile) : Tile :=
  { t with
    accsat := bitAt w 0, sclamp := bitAt w 1, narp := bitAt w 2, mode := if bitAt w 3 then (if bitAt w 4 then 2 else 1) else 0
    stop := bitAt w 5, rows := bitsAt w 6 6 }

/-- Where split entry `k` lies in an image (R310). -/
def splitPlace (k : Nat) : Nat := if k < 8 then 0x700 + 32 * k else 0xB000 + 32 * (k - 8)

/-- A group is loaded from its image (R314), in the form R310 to R313 give it. What the image does not say of it, such as the names of the
operations that its queues and pending registers await, State has kept (log 23). EXEC stays within the members and a counter within its 6 bits, as
R50 and R30 keep them (log 82). -/
def loadImage (s : State) (gid : Nat) (g0 : Group) : Group :=
  let base := imageBase s gid g0
  let g := (List.range 3).foldl (loadLatch s base) g0
  { g with
    sticky := wordAt s (base + 36) 4, fcnt := (List.range 12).map fun n => wordAt s (base + 40 + n) 1 % 64
    bprio := wordAt s (base + 52) 1, trapcnt := wordAt s (base + 56) 4, nfail := wordAt s (base + 60) 4, nrec := loadRecs s base g
    pts := wordAt s (base + 0x990) 8, note := loadNotes s base, queues := g.queues.mapIdx (loadQueue s base)
    split := g.split.map fun (e : Nat × SplitEntry) => (e.1, loadEntry s (base + splitPlace e.1) e.2)
    v := loadTab s.mem (base + 0x10000) 256 g.vcount g.v fun bs => (List.range 64).map fun l => BitVec.ofNat 32 (ofBytes ((bs.drop (4 * l)).take 4))
    s := loadTab s.mem (base + 0x100) 4 384 g.s fun bs => BitVec.ofNat 32 (ofBytes bs)
    kept := g.kept.zipIdx.map fun t => { loadStatus (wordAt s (base + 0x940 + 8 * t.2) 8) t.1 with
      elems := loadTab s.mem (base + 0x18000 + 28672 * t.2) 28 1024 t.1.elems fun bs => ofBytes bs } }

/-- A matrix job as its record gives it (R312). -/
def loadJob (s : State) (a : Nat) (j : MJob) : MJob :=
  let w := wordAt s (a + 4) 4
  let flag := bitsAt w 20 4
  { j with
    name := wordAt s (a + 1) 1, shape := wordAt s (a + 2) 1, row := if j.kind ≤ 2 then wordAt s (a + 3) 1 else j.row
    half := if j.kind = 3 then bitAt w 16 else j.half, flag := if flag < 12 then some flag else none
    fb := (List.range j.fb.length).map fun i => wordAt s (a + 8 + 4 * i) 4, a := wordAt s (a + 40) 8, b := wordAt s (a + 48) 8 }

/-- A replayed operation on global memory as its packet gives it (R312): the addresses and the data of its lanes, and the flag it joined. -/
def loadPacket (s : State) (a : Nat) (o : Op) : Op :=
  let flag := wordAt s (a + 21) 1
  let addr (l : Nat) : Nat := wordAt s (a + 0x40 + 8 * l) 8
  let put (t : Tab Nat) (off : Nat) : Tab Nat := t.map fun (e : Nat × Nat) => (e.1, wordAt s (a + 0x240 + 16 * e.1 + off) 8)
  if o.kind.pads then o
  else { o with
    flag := if flag < 12 then some flag else none
    acc := o.acc.map fun c => if c.done then c else { c with
      va := (addr c.lane + c.off) % 2 ^ 64
      data := if o.kind = .store then Memory.readN s.mem (a + 0x240 + 16 * c.lane + c.off) c.n else c.data }
    data := put o.data 0, cmp := put o.cmp 8 }

/-- A held note as its packet gives it (R312). -/
def loadNotePacket (s : State) (a : Nat) (n : Note) : Note :=
  let flag := wordAt s (a + 21) 1
  { n with
    flag := if flag < 12 then some flag else none, lanes := BitVec.ofNat 64 (wordAt s (a + 24) 8)
    pass := BitVec.ofNat 64 (wordAt s (a + 32) 8), index := wordAt s (a + 40) 4
    vals := (List.range n.vals.length).map fun l => BitVec.ofNat 64 (wordAt s (a + 0x40 + 8 * l) 8) }

/-- The job records and replay packets of a group are loaded from its image (R314). -/
def loadRecords (s : State) (gid : Nat) (g : Group) : State :=
  let base := imageBase s gid g
  let s1 := (savedJobs s g.uid).zipIdx.foldl (fun (t : State) e =>
    { t with mjobs := Tab.upd t.mjobs e.1.1 (loadJob s (base + 0x1100 + 64 * e.2)) }) s
  (replays s g.uid).zipIdx.foldl (fun (t : State) e =>
    let a := base + 0x4000 + 1792 * e.2
    match e.1.2 with
    | .op _ => { t with ops := Tab.upd t.ops e.1.1 (loadPacket s a) }
    | .note _ => { t with notes := Tab.upd t.notes e.1.1 (loadNotePacket s a) }) s1

/-- Write the image of a saved group. -/
def writeImage (s : State) (gid : Nat) (g : Group) : State :=
  if imageFits s gid g then putImage s (imageBase s gid g) (imageParts s gid g) else s

/-- A gate over the lines of a group's image; none where the image lies outside the partition's window (log 82). -/
def imageHeld (gate : State → Nat → Nat → Option State) (s : State) (gid : Nat) (g : Group) : Option State :=
  if imageFits s gid g then imageGate gate s (imageBase s gid g) else none

/-- What a step has done to a saved group is done to its image (R266, R307, R315), once no line of it must wait at its home (R232, R320). -/
def syncImages (old s : State) : State :=
  s.groups.foldl (fun t e =>
    if e.2.state != .saved then t
    else match Tab.get? old.groups e.1 with
      | some g =>
        if g.uid == e.2.uid && g.state == .saved && (g != e.2 || e.2.behind) then match imageHeld writeGate t e.1 e.2 with
          | some u => u.modGroup e.1 fun g => { g with behind := true }
          | none => (writeImage t e.1 e.2).modGroup e.1 fun g => { g with behind := false }
        else t
      | none => t) s

end Sys2Proof.Machine
end

