-- ==== Sys2Proof/Machine/Preempt.lean ====
section
/-! DEFINITION. Saves and restores (R304 to R309, R313 to R315). -/

namespace Sys2Proof.Machine

/-! ### Requests -/

/-- Every live fragment is parked, sleeping or waiting at a reconvergence point (R306). -/
def allIdle (g : Group) : Bool := g.frags.all fun e => e.2.cond != .ready

/-- A save of a group is requested (R305, R306): one already saved, or being saved, is left as it is; an idle one is halted at once. -/
def requestSave (s : State) (gid : Nat) : State :=
  match Tab.get? s.groups gid with
  | none => s
  | some g =>
    if !g.live || g.saveReq.isSome then s
    else s.modGroup gid fun g => { g with saveReq := some s.clock, grace := if allIdle g then some 1 else none }

/-- Groups of a partition that an FE_PREEMPT write names (R304). -/
def preemptNames (s : State) (part v : Nat) : List Nat :=
  (s.groups.filter fun e => e.2.part == part && (bitAt v 7 || coreOf e.1 == v % 128) &&
    (bitsAt v 8 8 == 0xFF || slotOf e.1 == bitsAt v 8 8)).map (·.1)

/-- The request names a core of the partition (R304). -/
def preemptOk (s : State) (part v : Nat) : Bool := bitAt v 7 || (s.fe part).owns (v % 128)

/-- FE_PREEMPT with OP 0 (R304, R305). -/
def execFePreemptSave (fe : Nat) (v : DWord) (s : State) : Host.Outcome State Fault Refusal :=
  .next (
    let n := v.toNat
    if bitAt n 16 then s
    else
      let s1 := s.modFe fe fun f => { f with preemptBad := !preemptOk s fe n }
      if preemptOk s fe n then (preemptNames s fe n).foldl requestSave s1 else s1)

/-- FE_PREEMPT with OP 1 (R304, R305). -/
def execFePreemptRestore (fe : Nat) (v : DWord) (s : State) : Host.Outcome State Fault Refusal :=
  .next (
    let n := v.toNat
    if !bitAt n 16 then s
    else
      let named := (preemptNames s fe n).filter fun k => match Tab.get? s.groups k with
        | some g => g.state == .saved && !(s.fe fe).restores.contains k
        | none => false
      s.modFe fe fun f => { f with
        preemptBad := !preemptOk s fe n, restores := if preemptOk s fe n then f.restores ++ named else f.restores })

/-- The tiles that a restored group would take, and the rows, the core compacted where that is needed; none where rows or tiles are short
(R277, R314). -/
def restoreRoom (s : State) (gid : Nat) (g : Group) : Option (State × Nat × Nat × List Nat) :=
  let ts := (freeTiles s (coreOf gid)).take g.kept.length
  if ts.length < g.kept.length then none
  else match rowPlacesC s (coreOf gid) 1 (rowsOf g.vcount) with
    | (t, some ((sub, row) :: _)) => some (t, sub, row, ts)
    | _ => none

/-- The next team or cohort of a partition finds no room in its whole range (R276). -/
def placeWaits (s : State) (part : Nat) : Bool :=
  let f := s.fe part
  f.places && (match nextLaunch s part with
    | some (_, l) =>
      if l.cohort = 0 then f.coreList.all fun c => (roomFor s c l).2.isNone
      else (chipsFrom f).all fun c => decide ((cohortCores s f c l).2.length < l.cohort)
    | none => false)

/-- A team or a saved group of a partition waits for room on a core (R305): the next team, which no core of the partition can take; or a
saved group of the core for which rows or tiles are short. -/
def workWaits (s : State) (part core : Nat) : Bool :=
  ((s.fe part).owns core && placeWaits s part) ||
  s.groups.any fun e => coreOf e.1 == core && e.2.part == part && e.2.state == .saved && (restoreRoom s e.1 e.2).isNone

/-- SLICE_END (R305). -/
def execSliceEnd (core slot : Nat) (s : State) : Host.Outcome State Fault Refusal :=
  let gid := core * 128 + slot
  .next (match Tab.get? s.groups gid with
    | none => s
    | some g =>
      let n := (s.fe g.part).slice % 2 ^ 32
      if n ≠ 0 && g.placedAt + n ≤ s.clock && workWaits s g.part core then requestSave s gid else s)

/-- SAVE_GRACE_EXPIRY (R306): no safe point within 4,096 cc of the request. -/
def execSaveGraceExpiry (core slot : Nat) (s : State) : Host.Outcome State Fault Refusal :=
  let gid := core * 128 + slot
  .next (match Tab.get? s.groups gid with
    | none => s
    | some g => match g.saveReq, g.grace with
      | some t, none => if t + 4096 ≤ s.clock then s.modGroup gid fun g => { g with grace := some 1 } else s
      | _, _ => s)

/-- The names of a group's open regions. -/
def regionIds (g : Group) : List Nat := g.split.filterMap fun e => match e.2 with
  | .region r => some r.id
  | .frag _ => none

/-- The instruction `i` has issued, from state `t` to state `u`: its fragment has ended, has counted it, or has fused. -/
def hasIssued (t u : State) : Bool :=
  match t.cur with
  | none => false
  | some (gid, fi) =>
    match Tab.get? t.groups gid, Tab.get? u.groups gid with
    | some g, some h => match g.frag? fi, h.frag? fi with
      | some f, some f2 => f2.count != f.count || regionIds g != regionIds h
      | some _, none => true
      | none, _ => false
    | _, _ => false

/-- An instruction with SP = 1 has issued (R35, R41, R306). -/
def safePoint (i : Instr) (t u : State) : State :=
  match i.enc.bind fun e => e.sp, t.cur with
  | some mask, some (gid, _) =>
    if hasIssued t u then reachSafe u gid mask.toNat else u
  | _, _ => u

/-! ### Saving -/

/-- A register, by key, is outside a live mask (R36). -/
def deadReg (mask key : Nat) : Bool :=
  if key < 128 then !bitAt mask (key / 8) else !bitAt mask (16 + (key - 128) / 32)

/-- A queue is outside a live mask (R36). -/
def deadQueue (mask q : Nat) : Bool := !bitAt mask (28 + q / 4)

/-- What a safe-point save does not keep (R37): registers, note states, pending bits, queues and latches. A queue outside the live mask is left
empty, as R310's zero counts say, and a read of it parks QUEUE (DESIGN CHOICE, log 95). -/
def dropDead (mask : Nat) (g : Group) : Group :=
  { g.dropLatches with
    v := g.v.filter fun (e : Nat × List Word) => !deadReg mask e.1
    s := g.s.filter fun (e : Nat × Word) => !deadReg mask (128 + e.1)
    pend := g.pend.filter fun (e : Nat × Nat) => !deadReg mask e.1
    note := g.note.filter fun (e : Nat × NoteSt) => !deadReg mask e.1
    orphans := g.orphans ++ (g.queues.zipIdx.filter fun q => deadQueue mask q.2).flatMap fun q => q.1.filter fun e => e.val.isNone
    queues := g.queues.zipIdx.map fun q => if deadQueue mask q.2 then [] else q.1 }

/-- The destination registers of an operation, by key. -/
def destRegs (o : Op) : List Nat :=
  match o.dest with
  | none => []
  | some d =>
    let n := match o.kind with
      | .load => loadRegs o.size
      | .sload => loadRegs o.size
      | .atomic => atomRegs o.ty o.scope
      | .satomic => atomRegs o.ty o.scope
      | _ => 1
    (List.range n).map (d + ·)

/-- Operations whose destinations all lie outside the live mask (R313): a replayed one is discarded and its flag counts down; a
detached one writes nothing. -/
def dropDeadOps (s : State) (uid mask : Nat) : State :=
  let mine := s.ops.filter fun e => e.2.uid == uid && e.2.dest.isSome && (destRegs e.2).all (deadReg mask)
  let s1 := mine.foldl (fun t e =>
    if e.2.replays then dropOpEvent (completeOp t e.1) e.1 else t.modOp e.1 fun o => { o with dest := none }) s
  { s1 with mjobs := s1.mjobs.map fun (e : Nat × MJob) =>
      if e.2.uid == uid && (e.2.kind == 5 || e.2.kind == 6) && deadReg mask e.2.dest then (e.1, { e.2 with dest := 512 }) else e }
where
  /-- The fault event of a discarded operation is gone. -/
  dropOpEvent (s : State) (id : Nat) : State :=
    { s with events := s.events.filter fun (e : Nat × FaultEvent) => e.2.agent != .op id }

/-- The lanes of a load that are whole are written, and the others are kept (R307). -/
def splitLanes (s : State) (id : Nat) (o : Op) : State :=
  let wait := awaiting o
  if wait = o.lanes || o.uni then s
  else
    let got : LaneMask := o.lanes &&& ~~~ wait
    let s1 := match o.dest, groupBy s o.uid with
      | some d, some (gid, _) => (List.range (loadRegs o.size)).foldl (fun t k =>
          writeKey t gid (d + k) got fun l => loadedValue o l / 2 ^ (32 * k)) s
      | _, _ => s
    s1.modOp id fun o => { o with lanes := wait, acc := o.acc.filter fun a => inMask wait a.lane }

/-- A load that has got all its data writes it; one that has got some writes the lanes that are whole, and keeps the others (R307). A
prefetch is given up (R154). -/
def keepLanes (s : State) (id : Nat) (o : Op) : State :=
  match o.kind, o.stage with
  | .load, .performed => writeBack s id o
  | .load, .active => splitLanes s id o
  | .sload, .ready => splitLanes s id o
  | .prefetch, _ => deleteOp s id
  | _, _ => s

/-- A replayed operation waits to be issued anew (R307, R308): replies on their way no longer reach it. -/
def holdOp (o : Op) : Op :=
  match o.kind, o.stage with
  | .sload, _ => { o with acc := o.acc.map fun a => if a.team.isSome && !a.done then { a with sent := false, await := 0, hold := 0 } else a }
  | _, .faulted _ => o
  | _, _ => { o with
      stage := .translate, walk := none, pages := [], found := [], bad := []
      acc := o.acc.map fun a => if a.done then a else { a with sent := false } }

/-- Requests of these operations that are outstanding at near caches, for host sectors or under an invalidation are given up; what was
asked for keeps the slot and the CGEN under which it was (R308). -/
def forgetOps (s : State) (ids : List Nat) : State :=
  let keep (l : List Nat) : List Nat := l.filter fun i => !ids.contains i
  let mark (l : List Nat) : List (Nat × Nat) := ((l.filter ids.contains).filterMap fun i =>
    (Tab.get? s.ops i).map fun o => (o.gid, Tab.getD s.cgens o.gid 0)).eraseDups
  { s with
    chips := s.chips.map fun (c : Nat × Chip) => (c.1, { c.2 with
      reqs := c.2.reqs.map fun (r : Nat × NearReq) => (r.1, { r.2 with
        ops := keep r.2.ops, late := keep r.2.late, again := keep r.2.again, old := r.2.old ++ mark (r.2.ops ++ r.2.late) })
      host := c.2.host.map fun (y : Nat × Sector) => (y.1, { y.2 with ops := keep y.2.ops, old := y.2.old ++ mark y.2.ops }) })
    fes := s.fes.map fun (f : Nat × Fe) => (f.1, { f.2 with tlbinvOps := keep f.2.tlbinvOps }) }

/-- Operations of a group that a save replays. -/
def heldIds (s : State) (uid : Nat) : List Nat :=
  (s.ops.filter fun e => e.2.uid == uid && e.2.replays).map (·.1)

/-- The replayed operations of a group that is stopped for a save: what a load has got it writes, the rest is kept for the packet, and no
reply on its way changes anything any more (R307, R308). -/
def holdReplays (s : State) (uid : Nat) : State :=
  let s1 := (s.ops.filter fun e => e.2.uid == uid).foldl (fun t e => keepLanes t e.1 e.2) s
  let ids := heldIds s1 uid
  forgetOps { s1 with ops := s1.ops.map fun (e : Nat × Op) => if ids.contains e.1 then (e.1, holdOp e.2) else e } ids

/-- The groups that a step has stopped for a save hold their replayed operations from that step on (R308). -/
def holdSaves (s : State) : State :=
  (s.groups.filter fun e => e.2.live && !e.2.killed && e.2.grace.isSome).foldl (fun t e => holdReplays t e.2.uid) s

/-- The tiles of a group leave it, their contents kept, and its jobs their turns (R173, R182, R307). -/
def takeTiles (s : State) (gid : Nat) (g : Group) : State :=
  let core := coreOf gid
  let jobs := (savedJobs s g.uid).map (·.1)
  let kept := g.tiles.map fun t => { tileOf s core t with owner := none, turns := [] }
  let s1 := g.tiles.foldl (fun t k => modTile t core k fun y =>
    { y with owner := none, turns := y.turns.filter fun j => !jobs.contains j }) s
  { s1 with mjobs := s1.mjobs.map fun (e : Nat × MJob) => if jobs.contains e.1 then (e.1, { e.2 with tile := none, cols := none }) else e }.modGroup gid
    fun g => { g with tiles := [], kept := kept }

/-- Fragments as an image holds them: what remains of a SLEEP. -/
def keepSleep (clock : Nat) (g : Group) : Group :=
  { g with split := g.split.map fun (e : Nat × SplitEntry) => match e.2 with
      | .frag f => (e.1, .frag (match f.cond with
          | .sleeping till => { f with cond := .sleeping (till - clock) }
          | _ => f))
      | .region _ => e }

/-- Its Attendance entries show SAVED or not (R254, R255). -/
def markEntries (s : State) (uid : Nat) (saved : Bool) : State :=
  { s with chips := s.chips.map fun (c : Nat × Chip) =>
      if c.2.att.any fun e => e.2.uid == uid then
        (c.1, { c.2 with att := c.2.att.map fun (e : Nat × AttEnt) => if e.2.uid == uid then (e.1, { e.2 with saved := saved }) else e })
      else c }

/-- A reply that answers operations of a group slot under a CGEN is still on its way (R308). -/
def cgenFlies (s : State) (gid n : Nat) : Bool :=
  s.chips.any fun c => (c.2.reqs.any fun r => r.2.old.contains (gid, n)) || c.2.host.any fun y => y.2.old.contains (gid, n)

/-- The CGEN that a save advances a slot to: the next one, modulo 256, that no reply still in flight carries (R308). -/
def nextCgen (s : State) (gid : Nat) : Nat :=
  let now := Tab.getD s.cgens gid 0
  ((List.range 256).map fun i => (now + 1 + i) % 256).find? (fun n => !cgenFlies s gid n) |>.getD ((now + 1) % 256)

/-- A group's save is completed (R306 to R313): `safe` for a safe-point save. -/
def completeSave (s : State) (gid : Nat) (g0 : Group) (safe : Bool) : State :=
  let core := coreOf gid
  let s1 := holdReplays s g0.uid
  let s3 := if safe then (dropDeadOps s1 g0.uid g0.liveMask).modGroup gid (dropDead g0.liveMask) else s1
  let s4 := wantDrains (postWanted 64 (wantEntries s3 core fun e => e.holds g0.uid) core) core g0.uid
  let s5 := takeTiles s4 gid g0
  let s6 := markEntries s5 g0.uid true
  let s7 := holdReady (setGState (s6.modGroup gid (keepSleep s.clock)) gid .saved)
  let s8 := s7.modGroup gid fun g => { g with
    savedFrom := g0.state, halted := !safe, tsave := s.clock, saveReq := none, grace := none }
  let s9 := { s8 with cgens := Tab.set s8.cgens gid (nextCgen s8 gid) }
  let s10 := s9.modFe g0.part fun f => { f with saveOrder := f.saveOrder ++ [gid] }
  let s11 := drainNotes s10 core
  match Tab.get? s11.groups gid with
  | some g => writeImage s11 gid g
  | none => s11

/-- SAVE_COMPLETE (R310): the image is complete, CGEN has advanced, held notes are applied. The image's lines may have to be snooped first
(R320). -/
def execSaveComplete (core slot : Nat) (s : State) : Host.Outcome State Fault Refusal :=
  let gid := core * 128 + slot
  .next (match Tab.get? s.groups gid with
    | none => s
    | some g => match g.grace with
      | some h =>
        if g.live && !g.killed then (imageHeld writeGate s gid g).getD (completeSave s gid g (h == 0)) else s
      | none => s)

/-! ### Restoring -/

/-- A saved group may be restored (R305): the host asked for it, or it is the first saved of those on its core; its image is complete. -/
def mayRestore (s : State) (gid : Nat) (g : Group) : Bool :=
  let f := s.fe g.part
  g.state == .saved && !g.killed && !g.behind &&
    (f.restores.contains gid || (f.saveOrder.filter fun k => coreOf k == coreOf gid).head? == some gid)

/-- The fragments of a restored group: their SLEEP goes on, and those parked only for the save are ready (R43, R314). -/
def wakeSaved (clock : Nat) (g : Group) : Group :=
  { g with split := g.split.map fun (e : Nat × SplitEntry) => match e.2 with
      | .frag f => (e.1, .frag (match f.cond with
          | .sleeping n => { f with cond := .sleeping (clock + n) }
          | .parked .preempt _ _ => { f with cond := .ready, since := clock }
          | .ready => { f with since := clock }
          | _ => f))
      | .region _ => e }

/-- Put a restored group's tiles and jobs on physical tiles (R314). -/
def giveTiles (s : State) (gid : Nat) (g : Group) (ts : List Nat) : State :=
  let core := coreOf gid
  let s1 := (ts.zip g.kept).foldl (fun t p => modTile t core p.1 fun _ => { p.2 with owner := some g.uid, turns := [] }) s
  (savedJobs s g.uid).foldl (fun t e =>
    let k := nth ts e.2.name 0
    modTile { t with mjobs := Tab.upd t.mjobs e.1 fun j => { j with tile := some k } } core k fun y =>
      { y with turns := y.turns ++ [e.1] }) s1

/-- Re-issue a replayed operation (R314); one that waits for its fault event stays so. -/
def reissueOp (s : State) (id : Nat) : State :=
  match Tab.get? s.ops id with
  | none => s
  | some o =>
    let go (t : State) : State := if o.kind.pads then t.modOp id fun o => { o with stage := .ready } else beginTranslate t id
    match o.stage with
    | .faulted ev => if (Tab.get? s.events ev).isSome then s else go s
    | .translate => go s
    | _ => s

/-- The VALID bit of an image is cleared (R311, R314). -/
def clearValid (s : State) (gid : Nat) (g : Group) : State :=
  let a := imageBase s gid g + 4
  if imageFits s gid g then deviceWrite s g.part none a [Memory.read s.mem a &&& 0xEF] else s

/-- The line of VALID may not be written now (R232, R320). -/
def headerHeld (s : State) (gid : Nat) (g : Group) : Option State :=
  if imageFits s gid g then writeGate s (imageBase s gid g + 4) 1 else none

/-- The image has been read: lines that a BISnpData let pass are snooped for anew (R320). -/
def imageRead (s : State) (gid : Nat) (g : Group) : State :=
  let base := imageBase s gid g
  (s.hlines.filter fun (h : Nat × HomeLine) => h.2.passed != 0 && decide (base / 128 ≤ h.1) && decide (h.1 < base / 128 + 0xA00)).foldl
    (fun t h => readDone t (h.1 * 128) 128) s

/-- Restore a group into rows and tiles (R314). -/
def restoreInto (s : State) (gid : Nat) (g0 : Group) (sub row : Nat) (ts : List Nat) : State :=
  let g := if imageFits s gid g0 then loadImage s gid g0 else g0
  let s0 := if imageFits s gid g0 then loadRecords s gid g0 else s
  let s1 := clearValid (freshWords (s0.modGroup gid fun _ => g) gid sub row (rowsOf g.vcount)) gid g
  let s2 := giveTiles s1 gid g ts
  let s3 := s2.modGroup gid fun g => { wakeSaved s.clock g with
    subcore := sub, row0 := row, tiles := ts, kept := [], placedAt := s.clock }
  let s4 := markEntries (setGState s3 gid g.savedFrom) g.uid false
  let s5 := s4.modFe g.part fun f => { f with
    saveOrder := f.saveOrder.filter (· != gid), restores := f.restores.filter (· != gid) }
  (heldIds s5 g.uid).foldl reissueOp s5

/-- RESTORE (R314): when rows and tiles are free. -/
def execRestore (core slot : Nat) (s : State) : Host.Outcome State Fault Refusal :=
  let gid := core * 128 + slot
  .next (match Tab.get? s.groups gid with
    | none => s
    | some g =>
      if !mayRestore s gid g then s
      else match restoreRoom s gid g with
        | some (t, sub, row, ts) => match (imageHeld readGate t gid g).or (headerHeld t gid g) with
          | some u => u
          | none => restoreInto (imageRead t gid g) gid g sub row ts
        | none => s)

end Sys2Proof.Machine
end

