-- ==== Sys2Proof/Machine/Regs.lean ====
section
/-! DEFINITION. The host's registers: REGISTER_WRITE for registers with no step of their own (R7), and the value that every register
reads as. -/

namespace Sys2Proof.Machine

/-! ### Writes -/

/-- Keep the bits [lo+n-1:lo] of a value in their place. -/
def fieldAt (v lo n : Nat) : Nat := bitsAt v lo n * 2 ^ lo

/-- A configuration register that may not be written while EN is 1 (R278, R291, R304). -/
def locked (f : Fe) (h : Fe → Fe) : Fe := if f.en then { f with err := true } else h f

/-- A write of FE_CTL (R278): ERR is W1C, and EN commits the configuration or starts a partition reset. -/
def writeFeCtl (s : State) (fe v : Nat) : Host.Outcome State Fault Refusal :=
  let t := if bitAt v 1 then s.modFe fe fun f => { f with err := false } else s
  if bitAt v 0 then execFeCtlEnable fe t else execFeCtlDisable fe t

/-- A write of a front-end register (R278, R279, R282, R291, R304, R331, R362). -/
def writeFe (f : Fe) (o v : Nat) : Fe :=
  match o with
  | 0x008 => locked f fun f => { f with cores := fieldAt v 0 7 + fieldAt v 8 7 }
  | 0x010 => { f with hcolour := v % 2 ^ 8 }
  | 0x018 => { f with wayidx := v % 2 ^ 11 }
  | 0x030 => { f with ringva := v }
  | 0x038 => { f with allowidx := v % 2 ^ 6 }
  | 0x040 => putAllow f fun a => { a with base := v }
  | 0x050 => { f with submitLo := v }
  | 0x068 => locked f fun f => { f with ptroot := fieldAt v 0 1 + fieldAt v 12 40 }
  | 0x070 => locked f fun f => { f with pawin := fieldAt v 0 10 + fieldAt v 16 10 + fieldAt v 32 32 }
  | 0x078 => locked f fun f => { f with fqpa := fieldAt v 12 40 }
  | 0x0A0 => { f with tlbinvVa := fieldAt v 12 45 }
  | 0x0B8 => locked f fun f => { f with ctxpa := fieldAt v 16 36 }
  | 0x0C0 => { f with slice := v % 2 ^ 32 }
  | 0x0D8 => { f with prprog := fieldAt v 6 46 }
  | 0x0F0 => { f with prbudget := v % 2 ^ 24 }
  | 0x108 => { f with prout := fieldAt v 0 4 + fieldAt v 12 40 }
  | 0x120 => { f with prsnap := fieldAt v 16 36 }
  | 0x140 => { f with wdctl := bitAt v 0 }
  | 0x158 => { f with jnlidx := v }
  | 0x200 => putAllow f fun a => { a with grant := v % 4 }
  | _ => f

/-- A write of a register of the host-port block (R319). -/
def writeHp (h : HostPort) (o v : Nat) : HostPort :=
  match o with
  | 0x000 => { h with sobase := fieldAt v 0 1 + fieldAt v 12 28 }
  | 0x008 => { h with solim := fieldAt v 12 28 }
  | 0x010 => { h with biaspa := fieldAt v 12 40 }
  | 0x020 => if bitAt v 4 then { h with ign := false } else h
  | _ => h

/-- A write of a management register (R376), `o` from 0x1_0000. -/
def writeMg (m : Mgmt) (o v : Nat) : Mgmt :=
  if o = 0x20 then { m with pwrcap := max 800 (min 2600 (v % 2 ^ 12)) }
  else if 0x40 ≤ o && o < 0x80 then
    let lo := 8 * (o - 0x40)
    { m with nonce := m.nonce % 2 ^ lo + v % 2 ^ 64 * 2 ^ lo + m.nonce / 2 ^ (lo + 64) * 2 ^ (lo + 64) }
  else m

/-- A write of an Ednan register (R355, R358), `o` from 0x2_0000. -/
def writeEd (e : Ednan) (o v : Nat) : Ednan :=
  match o with
  | 0x1000 => { e with devid := v % 2 ^ 12 }
  | 0x1008 => { e with rtidx := v % 2 ^ 13 }
  | 0x1010 => if bitAt e.rtidx 12 then e else { e with staged := Tab.set e.staged (e.rtidx % 2 ^ 12) (v % 2 ^ 5) }
  | 0x1018 => { e with topvStage := v % 2 ^ 16 }
  | 0x2000 => { e with cmIdx := v % 2 ^ 10 }
  | 0x2010 => { e with cmMapidx := v % 2 ^ 12 }
  | _ => e

/-- A write of a register of BAR 2 (R319, R355, R358, R376). -/
def writeBar2 (s : State) (off v : Nat) : Host.Outcome State Fault Refusal :=
  if off < 0x10000 then .next { s with hp := writeHp s.hp off v }
  else if off < 0x20000 then .next { s with mg := writeMg s.mg (off - 0x10000) v }
  else if off < 0x20400 then
    if off % 0x40 = 8 then
      let p := (off - 0x20000) / 0x40
      if bitAt v 0 then execEdPortEnable p s else execEdPortDisable p s
    else .next s
  else if off < 0x40000 then .next { s with ed := writeEd s.ed (off - 0x20000) v }
  else .next s

/-- A write of a Timetable register (R287): the staged table. -/
def writeTt (t : Timetable) (off v : Nat) : Timetable :=
  if off < 0x200 then { t with slots := Tab.set t.slots (off / 8) (v % 2 ^ 6) }
  else if off < 0x220 then { t with budgets := Tab.set t.budgets ((off - 0x200) / 8) (v % 2 ^ 32) }
  else t

/-- REGISTER_WRITE (R7): the host writes a register that has no step of its own. Reserved fields and read-only registers keep their
value. -/
def execRegisterWrite (bar off : Nat) (v : DWord) (s : State) : Host.Outcome State Fault Refusal :=
  if off % 8 ≠ 0 then .next s
  else match bar with
    | 0 =>
      if 0x20000 ≤ off then .next s
      else if off % 0x1000 = 0 then writeFeCtl s (off / 0x1000) v.toNat
      else .next (s.modFe (off / 0x1000) fun f => writeFe f (off % 0x1000) v.toNat)
    | 2 => writeBar2 s off v.toNat
    | 4 => .next { s with tt := writeTt s.tt off v.toNat }
    | _ => .next s

/-! ### Reads -/

/-- The entry that FE_JNLIDX selects, if it lies between FE_JNLHEAD and FE_JNLTAIL (R362): as its latest durable change left it (R360);
none where both mirrors have failed (R366). -/
def selectedEntry (f : Fe) : Option JEntry :=
  if f.trusted && f.jnlhead ≤ f.jnlidx && f.jnlidx < f.jnltail then Tab.get? f.shown f.jnlidx else none

/-- A 64-bit piece of a list of bytes. -/
def piece64 (bs : List Byte) (o : Nat) : Nat := ofBytes ((bs.drop o).take 8)

/-- The value of a front-end register (R278, R279, R282, R291, R304, R331, R362). -/
def feValue (s : State) (fe o : Nat) : Nat :=
  let f := s.fe fe
  let a := Tab.getD f.allow f.allowidx Allow.empty
  let sl := if f.wayidx = 0x7FF then 0 else f.wayidx
  match o with
  | 0x000 => f.en.toNat + f.err.toNat * 2
  | 0x008 => f.cores
  | 0x010 => f.hcolour
  | 0x018 => f.wayidx
  | 0x020 => Tab.getD (s.slice sl).nextMasks fe (Tab.getD (s.slice sl).masks fe 0xFFFF)
  | 0x028 => (s.slices.any fun e => e.2.cleaning.contains fe).toNat
  | 0x030 => f.ringva
  | 0x038 => f.allowidx
  | 0x040 => a.base
  | 0x048 => a.lim
  | 0x060 => f.last + f.status * 2 ^ 32
  | 0x068 => f.ptroot
  | 0x070 => f.pawin
  | 0x078 => f.fqpa
  | 0x080 => f.fqtail
  | 0x088 => f.fqhead
  | 0x098 => f.frstat
  | 0x0A0 => f.tlbinvVa
  | 0x0B0 => f.tlbinvBusy.toNat
  | 0x0B8 => f.ctxpa
  | 0x0C0 => f.slice
  | 0x0D0 => (!f.restores.isEmpty || s.groups.any fun g => g.2.part == fe && g.2.saveReq.isSome).toNat + f.preemptBad.toNat * 2
  | 0x0D8 => f.prprog
  | 0x0E8 => f.prstat
  | 0x0F0 => f.prbudget
  | 0x0F8 => f.prskip + f.prdropped * 2 ^ 32
  | 0x100 => f.prdrop
  | 0x108 => f.prout
  | 0x110 => f.prouttail
  | 0x118 => f.prouthead
  | 0x120 => f.prsnap
  | 0x128 => f.prirq
  | 0x130 => f.rst.toNat + f.rcause * 2 + f.resets * 2 ^ 8
  | 0x140 => f.wdctl.toNat
  | 0x148 => f.jnlhead
  | 0x150 => f.jnltail
  | 0x158 => f.jnlidx
  | 0x160 => f.serve0.toNat + f.serve1.toNat * 2 + (!f.serve0 && !f.serve1).toNat * 4 +
      (f.jnlhead ≤ f.jnlidx && f.jnlidx < f.jnltail : Bool).toNat * 8
  | 0x200 => a.grant
  | _ =>
    match selectedEntry f with
    | none => 0
    | some e =>
      if 0x180 ≤ o && o < 0x1C0 then piece64 (journalBytes e) (o - 0x180)
      else if 0x1C0 ≤ o && o < 0x200 then piece64 e.blk (o - 0x1C0)
      else 0

/-- The value of a register of the host-port block (R319). -/
def hpValue (h : HostPort) (o : Nat) : Nat :=
  match o with
  | 0x000 => h.sobase
  | 0x008 => h.solim
  | 0x010 => h.biaspa
  | 0x020 => h.flip.isSome.toNat + h.result * 2 + h.ign.toNat * 2 ^ 4 + h.flips * 2 ^ 32
  | 0x028 => h.poisonCnt
  | 0x030 => h.poisonPa
  | _ => 0

/-- The value of a management register (R376), `o` from 0x1_0000. -/
def mgValue (s : State) (o : Nat) : Nat :=
  let m := s.mg
  match o with
  | 0x00 => 0x9680 + Config.stepping % 2 ^ 8 * 2 ^ 16
  | 0x10 => m.bootstat
  | 0x18 => errlogValue s
  | 0x20 => m.pwrcap
  | 0x28 => m.power
  | 0x88 => m.attBusy.toNat + m.attDone.toNat * 2
  | _ =>
    if 0x40 ≤ o && o < 0x80 then m.nonce / 2 ^ (8 * (o - 0x40)) % 2 ^ 64
    else if 0x400 ≤ o && o < 0x800 then piece64 m.attbuf (o - 0x400)
    else 0

/-- The value of an Ednan register (R355, R356, R358), `o` from 0x2_0000. -/
def edValue (s : State) (o : Nat) : Nat :=
  let e := s.ed
  if o < 0x400 then
    let p := s.edPort (o / 0x40)
    if o % 0x40 = 0 then p.st + p.retrains * 2 ^ 8 + p.dur * 2 ^ 16 + p.partner * 2 ^ 32
    else if o % 0x40 = 8 then p.en.toNat
    else 0
  else match o with
    | 0x1000 => e.devid
    | 0x1008 => e.rtidx
    | 0x1010 => Tab.getD (if bitAt e.rtidx 12 then e.active else e.staged) (e.rtidx % 2 ^ 12) 0
    | 0x1018 => e.topvStage
    | 0x1028 => s.topv + e.topvErr.toNat * 2 ^ 17
    | 0x1030 => e.stale
    | 0x2000 => e.cmIdx
    | 0x2008 => (s.comm e.cmIdx).cfg
    | 0x2010 => e.cmMapidx
    | 0x2018 => Tab.getD (s.comm e.cmIdx).ranks e.cmMapidx 0
    | 0x2020 => (s.comm e.cmIdx).seq
    | 0x2028 => (commBusy s e.cmIdx).toNat + e.cmErr.toNat * 2
    | _ => 0

/-- A virtual function of a state. -/
def vfOf (s : State) (v : Nat) : Vf := Tab.getD s.vfs v Vf.empty

/-- What a read of a 64-bit register of the physical function returns (R7, R317); SEP_ROUTE registers are 32 bits each (R349). -/
def regValue (s : State) (bar off : Nat) : Nat :=
  match bar with
  | 0 =>
    if off < 0x20000 then feValue s (off / 0x1000) (off % 0x1000)
    else if off < 0x21000 then (vfOf s ((off - 0x20000) / 8)).map
    else 0
  | 2 =>
    if off < 0x10000 then hpValue s.hp off
    else if off < 0x20000 then mgValue s (off - 0x10000)
    else if off < 0x40000 then edValue s (off - 0x20000)
    else
      let k := (off - 0x40000) / 4
      if isPair (k / 34) (k % 34) then sepRouteValue (s.pair (k / 34) (k % 34)) else 0
  | 4 =>
    if off < 0x200 then Tab.getD s.tt.slots (off / 8) 0x20
    else if off < 0x220 then Tab.getD s.tt.budgets ((off - 0x200) / 8) 0
    else if off = 0x228 then s.tt.failed.toNat + s.tt.next.isSome.toNat * 2
    else 0
  | _ => 0

/-- VF_MBOX_STAT (R280). -/
def mboxStat (s : State) (v : Nat) : Nat := (vfOf s v).fifo.length + (vfOf s v).dropped * 2 ^ 32

end Sys2Proof.Machine
end

