-- ==== Sys2Proof/Machine/Syst.lean ====
section
/-! DEFINITION. SYST (R212 to R218): software traps and the return from one, system registers, SLEEP, PMARK, DBRK, FRESUME. -/

namespace Sys2Proof.Machine

/-- The uniform operand B. -/
def valOps : Opnds := [(.b, .uni .n32)]

/-- The instruction has issued, before it stops behind itself (R218, "Next"). -/
def countIssue (s : State) (x : Ctx) (len : Nat) (sp : Bool) : State :=
  (startRunning s x.gid).modFrag x.gid x.fi fun f => { issued f s.clock sp with yielded := yieldsAfter x.f len }

/-- TRAP (R212, R215). -/
def execTrap (f : Lg) (s : State) : Host.Outcome State Fault Refusal :=
  runLg s 0x23 0 anyone f valOps fun x s1 =>
    takeTrapNext (countIssue s1 x (lgView f).len f.sp.isSome) x (lgView f).len 0x12 (uval s x f valOps .b) 0

/-- The fragment is in its trap handler: HMODE (R213). -/
def inHandler (x : Ctx) : Bool := x.g.hmode == some x.fi

/-- The registers that TRET reads (R217): RPC, RIDX, EXEC, and SCC and CARRY. -/
def tretRegs : List Nat := [keyS 370, keyS 371, keyS 372, keyS 374, keyS 375, keyS 383]

/-- TRET (R214, R217): it reads the record like any source (R42, R61). -/
def execTret (f : Lg) (s : State) : Host.Outcome State Fault Refusal :=
  withIssuer s fun x =>
    if !lgOk 0x23 1 f then takeTrap s x 0x01 0 0
    else if !inHandler x then takeTrap s x 0x09 0 0
    else match operandGate s x (Use.and (usesOf (lgView f) []) { Use.none with rd := tretRegs }) with
      | .go => trapReturn (useRegs s x tretRegs) x (lgView f).len f.sp.isSome
      | g => stopAt s x g

/-- The system registers (R213); none for a number not listed. -/
def sysReg (x : Ctx) (n : Nat) : Option Nat :=
  match n with
  | 0 => some (x.g.launch / 32 % 2 ^ 32)
  | 1 => some (x.g.launch / 32 / 2 ^ 32 % 2 ^ 32)
  | 2 => some (x.g.bprio % 16)
  | 3 => some (bitOf (inHandler x))
  | 4 => some x.g.part
  | 5 => some (x.g.trapcnt % 2 ^ 32)
  | 6 => some (bitOf x.g.dbgen)
  | 7 => some x.g.nfail
  | 8 => some (bitOf x.g.fsvc)
  | _ => none

/-- SGETSR (R213). -/
def execSgetsr (f : Lg) (s : State) : Host.Outcome State Fault Refusal :=
  let os : Opnds := [(.d, .dstS false false), (.a, .uni .n32)]
  runLg s 0x23 2 anyone f os fun x s1 =>
    match sysReg x (uval s x f os .a) with
    | some v => nextLg (writeUni s1 x (sel10 f.d) false v) x f
    | none => illOpnd s x

/-- SSETSR (R213): BPRIO alone can be written. -/
def execSsetsr (f : Lg) (s : State) : Host.Outcome State Fault Refusal :=
  let os : Opnds := [(.a, .uni .n32), (.b, .uni .n32)]
  runLg s 0x23 3 anyone f os fun x s1 =>
    if uval s x f os .a ≠ 2 then illOpnd s x
    else nextLg (raisePriority (s1.modGroup x.gid fun g => { g with bprio := min (uval s x f os .b) g.prioMax }) x.gid) x f

/-- SLEEP (R212): t = 0 acts as YIELD. A fragment that has gone into a fused one sleeps no more. -/
def execSleep (f : Lg) (s : State) : Host.Outcome State Fault Refusal :=
  runLg s 0x23 4 anyone f valOps fun x s1 =>
    let t := uval s x f valOps .b
    (nextLg s1 x f).modFrag x.gid x.fi fun h =>
      if t = 0 then { h with yielded := true }
      else if h.cond == .ready && h.members == x.f.members then { h with cond := .sleeping (s.clock + min t (2 ^ 20)) }
      else h

/-- PMARK (R212, R337). -/
def execPmark (f : Lg) (s : State) : Host.Outcome State Fault Refusal :=
  runLg s 0x23 5 anyone f valOps fun x s1 =>
    nextLg (tap s1 (attChip x.gid) 11 (some x.g.part) [gidOf x.gid, f.mod.toNat % 16, uval s x f valOps .b]) x f

/-- The fault-queue entry of a DBRK in a launch without a handler (R218, R301). -/
def breakEntry (x : Ctx) (v : Nat) : FEntry :=
  { va := x.f.pc0, pte := v, code := 0x13, core := coreOf x.gid, slot := slotOf x.gid, lvl := 0, kind := 11, unit := 0, region := 0
    launch := x.g.launch / 32 % 2 ^ 32, lanes := 2 ^ 64 - 1 }

/-- DBRK (R212, R218): a trap with a handler, a stop for the host's debugger without one, a NOP where DBGEN is 0. -/
def execDbrk (f : Lg) (s : State) : Host.Outcome State Fault Refusal :=
  runLg s 0x23 6 anyone f valOps fun x s1 =>
    let v := uval s x f valOps .b
    if !x.g.dbgen then nextLg s1 x f
    else if x.g.trapVa ≠ 0 then takeTrapNext (countIssue s1 x (lgView f).len f.sp.isSome) x (lgView f).len 0x13 v 0
    else
      let r := faultEvent s1 x.g.part (attChip x.gid) (.debug x.gid x.f.id) [breakEntry x v]
      parkIssued r.1 x (.fault r.2)

/-- FRESUME's privilege (R214). -/
def mayResume (x : Ctx) : Bool := inHandler x || x.g.fsvc

/-- FRESUME (R212, R303). -/
def execFresume (f : Lg) (s : State) : Host.Outcome State Fault Refusal :=
  let os : Opnds := [(.d, .dstS false true), (.a, .spair false)]
  runLg s 0x23 7 mayResume f os fun x s1 =>
    let r := resumeSeq s1 x.g.part (uval s x f os .a)
    nextLg (writeUni r.1 x (sel10 f.d) false r.2) x f

end Sys2Proof.Machine
end

