-- ==== Sys2Proof/Machine/Vint.lean ====
section
/-! DEFINITION. VINT, the vector integer instructions (R116 to R120), and their short forms (R66). -/

namespace Sys2Proof.Machine

/-- D, A, B of one type. -/
def opsAB (t : OpTy) : Opnds := [(.d, .dstV t false), (.a, .src t), (.b, .src t)]
/-- D and A of one type. -/
def opsA (t : OpTy) : Opnds := [(.d, .dstV t false), (.a, .src t)]
/-- D, A, B, C of one type. -/
def opsABC (t : OpTy) : Opnds := [(.d, .dstV t false), (.a, .src t), (.b, .src t), (.c, .src t)]
/-- D, A and a 32-bit count in B (R112). -/
def opsACount (t : OpTy) : Opnds := [(.d, .dstV t false), (.a, .src t), (.b, .src .n32)]

/-- A two-operand integer instruction: `h` is the exact integer result. -/
def vintExact (s : State) (i : AluI) (ok : Bool) (t : OpTy) (h : Int → Int → Int) : Host.Outcome State Fault Refusal :=
  runVec s i ok (opsAB t) false t t.wide fun v _ =>
    (fit t (bitAt i.m 2) (h (ext t (v .a)) (ext t (v .b))), 0)

/-- A two-operand instruction on bit patterns. -/
def vintBits (s : State) (i : AluI) (ok : Bool) (t : OpTy) (h : Nat → Nat → Nat) : Host.Outcome State Fault Refusal :=
  runVec s i ok (opsAB t) false t t.wide fun v _ => (h (v .a) (v .b), 0)

/-- A one-operand instruction on bit patterns. -/
def vintUnary (s : State) (i : AluI) (ok : Bool) (t : OpTy) (h : Nat → Nat) : Host.Outcome State Fault Refusal :=
  runVec s i ok (opsA t) false t t.wide fun v _ => (h (v .a), 0)

/-- a and not b, at a width. -/
def andNot (w a b : Nat) : Nat := a &&& (2 ^ w - 1 - b % 2 ^ w)

/-- The type of a VINT word (R72). -/
def vintTy (i : AluI) : OpTy := intTy (i.m / 8)

/-- fit(a × 2^n), n = b mod w (R116). -/
def shlOf (t : OpTy) (sat : Bool) (a b : Nat) : Nat := fit t sat (ext t a * ((2 ^ (b % t.w) : Nat) : Int))

/-- floor(a / 2^n), a unsigned (R116). -/
def shrOf (t : OpTy) (a b : Nat) : Nat := a % 2 ^ t.w / 2 ^ (b % t.w)

/-- floor(a / 2^n), a signed for every type (R116). -/
def sraOf (t : OpTy) (a b : Nat) : Nat := wrap t.w (sgn t.w a / ((2 ^ (b % t.w) : Nat) : Int))

/-- floor(ext(a) × ext(b) / 2^w) mod 2^w (R116). -/
def mulhiOf (t : OpTy) (a b : Nat) : Nat := wrap t.w (ext t a * ext t b / ((2 ^ t.w : Nat) : Int))

/-- The offset and length of a bit field (R118). -/
def fieldOf (t : OpTy) (b c : Nat) : Nat × Nat :=
  let lw := if t.wide then 6 else 5
  let off := b % 2 ^ lw
  (off, min (c % 2 ^ (lw + 1)) (t.w - off))

/-- Bit-field extract (R118). -/
def bfeOf (t : OpTy) (a b c : Nat) : Nat :=
  let off := (fieldOf t b c).1
  let len := (fieldOf t b c).2
  let f := a % 2 ^ t.w / 2 ^ off % 2 ^ len
  if len = 0 then 0
  else if t.signed && bitAt f (len - 1) then wrap t.w ((f : Int) - ((2 ^ len : Nat) : Int))
  else f

/-- Bit-field insert into `d` (R118). -/
def bfiOf (t : OpTy) (a b c d : Nat) : Nat :=
  let off := (fieldOf t b c).1
  let len := (fieldOf t b c).2
  let m := (2 ^ len - 1) * 2 ^ off
  ((a * 2 ^ off) &&& m) ||| andNot t.w d m

/-- Quotient and remainder, truncated toward zero, with the corners of R120. -/
def divRem (t : OpTy) (a b : Nat) : Nat × Nat :=
  let x := ext t a
  let y := ext t b
  if y = 0 then (2 ^ t.w - 1, a % 2 ^ t.w)
  else
    let q : Int := Int.tdiv x y
    (wrap t.w q, wrap t.w (x - q * y))

/-- VADD (R116). -/
def execVadd (f : Lg) (s : State) : Host.Outcome State Fault Refusal :=
  vintExact s (lgView f) (lgOk 0x00 0x00 f) (vintTy (lgView f)) (· + ·)
/-- VSUB (R116). -/
def execVsub (f : Lg) (s : State) : Host.Outcome State Fault Refusal :=
  vintExact s (lgView f) (lgOk 0x00 0x01 f) (vintTy (lgView f)) (· - ·)
/-- Operands of VADDC and VSUBB (R116): a 64-bit destination pair, a 32-bit carry. -/
def opsCarry (t : OpTy) : Opnds := [(.d, .dstV .n64 false), (.a, .src t), (.b, .src t), (.c, .src .n32)]
/-- VADDC (R116): the sum in D, the carry out in D+1. -/
def execVaddc (f : Lg) (s : State) : Host.Outcome State Fault Refusal :=
  let i := lgView f
  runVec s i (lgOk 0x00 0x02 f) (opsCarry (vintTy i)) false (vintTy i) true fun v _ =>
    let r := v .a + v .b + v .c % 2
    (r % 2 ^ 32 + r / 2 ^ 32 * 2 ^ 32, 0)
/-- VSUBB (R116): the difference in D, the borrow out in D+1. -/
def execVsubb (f : Lg) (s : State) : Host.Outcome State Fault Refusal :=
  let i := lgView f
  runVec s i (lgOk 0x00 0x03 f) (opsCarry (vintTy i)) false (vintTy i) true fun v _ =>
    let r : Int := (v .a : Int) - v .b - (v .c % 2 : Nat)
    (wrap 32 r + (if r < 0 then 2 ^ 32 else 0), 0)
/-- VMUL (R116). -/
def execVmul (f : Lg) (s : State) : Host.Outcome State Fault Refusal :=
  vintExact s (lgView f) (lgOk 0x00 0x04 f) (vintTy (lgView f)) (· * ·)
/-- VMULHI (R116). -/
def execVmulhi (f : Lg) (s : State) : Host.Outcome State Fault Refusal :=
  vintBits s (lgView f) (lgOk 0x00 0x05 f) (vintTy (lgView f)) (mulhiOf (vintTy (lgView f)))
/-- VMAD (R116). -/
def execVmad (f : Lg) (s : State) : Host.Outcome State Fault Refusal :=
  let i := lgView f
  let t := vintTy i
  runVec s i (lgOk 0x00 0x06 f) (opsABC t) false t t.wide fun v _ =>
    (fit t (bitAt i.m 2) (ext t (v .a) * ext t (v .b) + ext t (v .c)), 0)
/-- The 64-bit type that widens an operand under I32 or N32 (R116). -/
def wideTy (t : OpTy) : OpTy := if t.signed then .i64 else .n64
/-- VMADW (R116): C and D are 64 bits wide. -/
def execVmadw (f : Lg) (s : State) : Host.Outcome State Fault Refusal :=
  let i := lgView f
  let t := vintTy i
  runVec s i (lgOk 0x00 0x07 f) [(.d, .dstV (wideTy t) false), (.a, .src t), (.b, .src t), (.c, .src (wideTy t))] false t
    true fun v _ => (wrap 64 (ext t (v .a) * ext t (v .b) + (v .c : Int)), 0)
/-- VABSD (R116, R117). -/
def execVabsd (f : Lg) (s : State) : Host.Outcome State Fault Refusal :=
  vintExact s (lgView f) (lgOk 0x00 0x08 f) (vintTy (lgView f)) fun a b => ((a - b).natAbs : Int)
/-- VMIN (R116). -/
def execVmin (f : Lg) (s : State) : Host.Outcome State Fault Refusal :=
  vintExact s (lgView f) (lgOk 0x00 0x09 f) (vintTy (lgView f)) min
/-- VMAX (R116). -/
def execVmax (f : Lg) (s : State) : Host.Outcome State Fault Refusal :=
  vintExact s (lgView f) (lgOk 0x00 0x0A f) (vintTy (lgView f)) max
/-- VAND (R116). -/
def execVand (f : Lg) (s : State) : Host.Outcome State Fault Refusal :=
  vintBits s (lgView f) (lgOk 0x00 0x0B f) (vintTy (lgView f)) (· &&& ·)
/-- VOR (R116). -/
def execVor (f : Lg) (s : State) : Host.Outcome State Fault Refusal :=
  vintBits s (lgView f) (lgOk 0x00 0x0C f) (vintTy (lgView f)) (· ||| ·)
/-- VXOR (R116). -/
def execVxor (f : Lg) (s : State) : Host.Outcome State Fault Refusal :=
  vintBits s (lgView f) (lgOk 0x00 0x0D f) (vintTy (lgView f)) (· ^^^ ·)
/-- VANDN (R116): a and not b. -/
def execVandn (f : Lg) (s : State) : Host.Outcome State Fault Refusal :=
  vintBits s (lgView f) (lgOk 0x00 0x0E f) (vintTy (lgView f)) (andNot (vintTy (lgView f)).w)
/-- A shift: A at the type, the count at 32 bits. -/
def vintShift (s : State) (i : AluI) (ok : Bool) (t : OpTy) (h : Nat → Nat → Nat) : Host.Outcome State Fault Refusal :=
  runVec s i ok (opsACount t) false t t.wide fun v _ => (h (v .a) (v .b), 0)
/-- VSHL (R116, R117). -/
def execVshl (f : Lg) (s : State) : Host.Outcome State Fault Refusal :=
  let i := lgView f
  vintShift s i (lgOk 0x00 0x0F f) (vintTy i) (shlOf (vintTy i) (bitAt i.m 2))
/-- VSHR (R116). -/
def execVshr (f : Lg) (s : State) : Host.Outcome State Fault Refusal :=
  vintShift s (lgView f) (lgOk 0x00 0x10 f) (vintTy (lgView f)) (shrOf (vintTy (lgView f)))
/-- VSRA (R116). -/
def execVsra (f : Lg) (s : State) : Host.Outcome State Fault Refusal :=
  vintShift s (lgView f) (lgOk 0x00 0x11 f) (vintTy (lgView f)) (sraOf (vintTy (lgView f)))
/-- VFSHR (R116): a funnel shift of b:a. -/
def execVfshr (f : Lg) (s : State) : Host.Outcome State Fault Refusal :=
  let i := lgView f
  let t := vintTy i
  runVec s i (lgOk 0x00 0x12 f) [(.d, .dstV t false), (.a, .src t), (.b, .src t), (.c, .src .n32)] false t t.wide
    fun v _ => ((v .b * 2 ^ t.w + v .a) / 2 ^ (v .c % t.w) % 2 ^ t.w, 0)
/-- VBFE (R118). -/
def execVbfe (f : Lg) (s : State) : Host.Outcome State Fault Refusal :=
  let i := lgView f
  let t := vintTy i
  runVec s i (lgOk 0x00 0x13 f) [(.d, .dstV t false), (.a, .src t), (.b, .src .n32), (.c, .src .n32)] false t t.wide
    fun v _ => (bfeOf t (v .a) (v .b) (v .c), 0)
/-- VBFI (R118): D is also a source. -/
def execVbfi (f : Lg) (s : State) : Host.Outcome State Fault Refusal :=
  let i := lgView f
  let t := vintTy i
  runVec s i (lgOk 0x00 0x14 f) [(.d, .dstV t true), (.a, .src t), (.b, .src .n32), (.c, .src .n32)] false t t.wide
    fun v _ => (bfiOf t (v .a) (v .b) (v .c) (v .d), 0)
/-- VPOPC (R116). -/
def execVpopc (f : Lg) (s : State) : Host.Outcome State Fault Refusal :=
  vintUnary s (lgView f) (lgOk 0x00 0x15 f) (vintTy (lgView f)) (popcount (vintTy (lgView f)).w)
/-- VCLZ (R116). -/
def execVclz (f : Lg) (s : State) : Host.Outcome State Fault Refusal :=
  vintUnary s (lgView f) (lgOk 0x00 0x16 f) (vintTy (lgView f)) (clz (vintTy (lgView f)).w)
/-- VBREV (R116). -/
def execVbrev (f : Lg) (s : State) : Host.Outcome State Fault Refusal :=
  vintUnary s (lgView f) (lgOk 0x00 0x17 f) (vintTy (lgView f)) (bitrev (vintTy (lgView f)).w)
/-- VSEL (R116, R119): C names a mask. -/
def execVsel (f : Lg) (s : State) : Host.Outcome State Fault Refusal :=
  let i := lgView f
  let t := vintTy i
  runVec s i (lgOk 0x00 0x18 f) [(.d, .dstV t false), (.a, .src t), (.b, .src t), (.c, .spair true)] false t t.wide
    fun v l => (if bitAt (v .c) l then v .a else v .b, 0)
/-- VMOV (R116). -/
def execVmov (f : Lg) (s : State) : Host.Outcome State Fault Refusal :=
  vintUnary s (lgView f) (lgOk 0x00 0x19 f) (vintTy (lgView f)) id
/-- VLEA (R116): the A operand and D are 64 bits wide. -/
def execVlea (f : Lg) (s : State) : Host.Outcome State Fault Refusal :=
  let i := lgView f
  let t := vintTy i
  runVec s i (lgOk 0x00 0x1C f)
    [(.d, .dstV (wideTy t) false), (.a, .src (wideTy t)), (.b, .src t), (.c, .src .n32)] false t true
    fun v _ => (wrap 64 ((v .a : Int) + ext t (v .b) * ((2 ^ (v .c % 8) : Nat) : Int)), 0)
/-- VDIV (R120). -/
def execVdiv (f : Lg) (s : State) : Host.Outcome State Fault Refusal :=
  let i := lgView f
  let t := vintTy i
  runVec s i (lgOk 0x00 0x1D f) (opsAB t) true t t.wide fun v _ => ((divRem t (v .a) (v .b)).1, 0)
/-- VREM (R120). -/
def execVrem (f : Lg) (s : State) : Host.Outcome State Fault Refusal :=
  let i := lgView f
  let t := vintTy i
  runVec s i (lgOk 0x00 0x1E f) (opsAB t) true t t.wide fun v _ => ((divRem t (v .a) (v .b)).2, 0)

/-! ### Indexed moves (R119) -/

/-- The register number that a base operand names. -/
def baseReg : Sel → Nat
  | .v n => n
  | _ => 0

/-- The register selected in each active lane: j = base + index. -/
def indexed (s : State) (x : Ctx) (i : AluI) (os : Opnds) (base : Sel) : List (Nat × Nat) :=
  (lanesOf x.f.exec).map fun l => (l, baseReg base + opVal s x i os .b l)

/-- Whether a computed index is out of range (R119). -/
def indexBad (vcount : Nat) (wide : Bool) (j : Nat) : Bool :=
  vcount ≤ j || (wide && (j % 2 == 1 || vcount ≤ j + 1))

/-- Words with an error that an indexed read meets: each active lane reads the register selected for it alone (R61, R119). -/
def indexedBad (c : Core) (x : Ctx) (wide : Bool) (js : List (Nat × Nat)) (double : Bool) : List (Nat × Nat) :=
  js.flatMap fun e => (span wide e.2).filterMap fun k =>
    if Tab.get? c.bad (badKey (rowOf x k) e.1) = some double then some (k, badKey (rowOf x k) e.1) else none

/-- The registers selected. -/
def indexedRegs (wide : Bool) (js : List (Nat × Nat)) : List Nat := (js.flatMap fun e => span wide e.2).eraseDups

/-- Parking for the registers selected (R42): `rd` says whether they are read (VMOVI) or written (VMOVX). -/
def indexedPark (x : Ctx) (wide rd : Bool) (js : List (Nat × Nat)) : Option Await :=
  parkFor x (if rd then { Use.none with rd := indexedRegs wide js } else { Use.none with wr := indexedRegs wide js })

/-- What decides after the computed check, in the order of R60: the named operands' gate `g`, but parking for the registers selected before
an error of a word read; then the errors of the words selected. -/
def indexedGate (s : State) (x : Ctx) (wide rd : Bool) (js : List (Nat × Nat)) (g : Gate) : Gate :=
  match g with
  | .park w => .park w
  | .go => match indexedPark x wide rd js with
    | some w => .park w
    | none =>
      if !rd then .go
      else
        let c := Tab.getD s.cores (coreOf x.gid) Core.empty
        errGate (indexedBad c x wide js true) (indexedBad c x wide js false)
  | .replay ws => match indexedPark x wide rd js with
    | some w => .park w
    | none => .replay ws
  | .trap code i0 i1 =>
    if code = 0x11 then match indexedPark x wide rd js with
      | some w => .park w
      | none => .trap code i0 i1
    else .trap code i0 i1

/-- An indexed move: the static checks, the computed check once the index can be read and before any pop or capture, then parking for the
registers selected, then errors (R60, R119). `rd` says whether the selected registers are read (VMOVI) or written (VMOVX). The beats added count a
64-bit pair as one register (R114, DESIGN CHOICE, log 94). -/
def runIndexed (s : State) (i : AluI) (ok : Bool) (os : Opnds) (t : OpTy) (base : Sel) (rd : Bool)
    (k : Ctx → List (Nat × Nat) → State → State) : Host.Outcome State Fault Refusal :=
  withIssuer s fun x =>
    if ok then
      let u := usesOf i os
      let v := useOf (.src .n32) i.b
      let js := indexed s x i os base
      let far := js.find? fun e => indexBad x.g.vcount t.wide e.2
      let g := computedGate s x u v (far.map fun e => .trap 0x05 e.2 0)
      match if (operandGate s x v).reads && far.isNone then indexedGate s x t.wide rd js g else g with
      | .go =>
        let regs := indexedRegs t.wide js
        let extra := (js.map (·.2)).eraseDups.length - 1
        let s1 := readSources s x i os
        let s2 := if rd && usesFull x.g regs then
            invalidateL1 (s1.modGroup x.gid fun g => useNotes g regs) (coreOf x.gid) else s1
        let s3 := occupy s2 x (baseBeats false t + bankBeats (vectorReads i os) + extra)
        advance (k x js s3) x i.len i.sp.isSome
      | g => stopAt s x g
    else takeTrap s x 0x01 0 0

/-- VMOVI (R119): D[l] := V(base + index[l])[l]. -/
def execVmovi (f : Lg) (s : State) : Host.Outcome State Fault Refusal :=
  let i := lgView f
  let t := vintTy i
  runIndexed s i (lgOk 0x00 0x1A f) [(.d, .dstV t false), (.a, .vbase t.wide), (.b, .src .n32)] t i.a true
    fun x js s1 => writeVec s1 x i.d t.wide x.f.exec fun l =>
      readSel s x none t (.v ((js.find? fun e => e.1 == l).map (·.2) |>.getD 0)) l

/-- VMOVX (R119): V(base + index[l])[l] := A[l]. -/
def execVmovx (f : Lg) (s : State) : Host.Outcome State Fault Refusal :=
  let i := lgView f
  let t := vintTy i
  runIndexed s i (lgOk 0x00 0x1B f) [(.d, .vbase t.wide), (.a, .src t), (.b, .src .n32)] t i.d false
    fun x js s1 => js.foldl (fun st e =>
      writeVec st x (.v e.2) t.wide (BitVec.ofNat 64 (2 ^ e.1)) fun l => opVal s x i
        [(.d, .vbase t.wide), (.a, .src t), (.b, .src .n32)] .a l) s1

/-! ### Short forms (R66): type I32, no modifier -/

/-- Short VADD (R66). -/
def execVaddShort (f : Vs3) (s : State) : Host.Outcome State Fault Refusal := vintExact s (vs3View f) true .i32 (· + ·)
/-- Short VSUB (R66). -/
def execVsubShort (f : Vs3) (s : State) : Host.Outcome State Fault Refusal := vintExact s (vs3View f) true .i32 (· - ·)
/-- Short VMUL (R66). -/
def execVmulShort (f : Vs3) (s : State) : Host.Outcome State Fault Refusal := vintExact s (vs3View f) true .i32 (· * ·)
/-- Short VAND (R66). -/
def execVandShort (f : Vs3) (s : State) : Host.Outcome State Fault Refusal := vintBits s (vs3View f) true .i32 (· &&& ·)
/-- Short VOR (R66). -/
def execVorShort (f : Vs3) (s : State) : Host.Outcome State Fault Refusal := vintBits s (vs3View f) true .i32 (· ||| ·)
/-- Short VXOR (R66). -/
def execVxorShort (f : Vs3) (s : State) : Host.Outcome State Fault Refusal := vintBits s (vs3View f) true .i32 (· ^^^ ·)
/-- Short VSHL (R66). -/
def execVshlShort (f : Vs3) (s : State) : Host.Outcome State Fault Refusal :=
  vintShift s (vs3View f) true .i32 (shlOf .i32 false)
/-- Short VSHR (R66). -/
def execVshrShort (f : Vs3) (s : State) : Host.Outcome State Fault Refusal := vintShift s (vs3View f) true .i32 (shrOf .i32)
/-- Short VSRA (R66). -/
def execVsraShort (f : Vs3) (s : State) : Host.Outcome State Fault Refusal := vintShift s (vs3View f) true .i32 (sraOf .i32)
/-- Short VMIN (R66). -/
def execVminShort (f : Vs3) (s : State) : Host.Outcome State Fault Refusal := vintExact s (vs3View f) true .i32 min
/-- Short VMAX (R66). -/
def execVmaxShort (f : Vs3) (s : State) : Host.Outcome State Fault Refusal := vintExact s (vs3View f) true .i32 max
/-- Short VMOV (R66): B must be zero. -/
def execVmovShort (f : Vs3) (s : State) : Host.Outcome State Fault Refusal :=
  vintUnary s (vs3View f) (f.b == 0) .i32 id
/-- VADDI (R66). -/
def execVaddi (f : Vs2i) (s : State) : Host.Outcome State Fault Refusal := vintExact s (vs2iView f) true .i32 (· + ·)
/-- VSHLI (R66). -/
def execVshli (f : Vs2i) (s : State) : Host.Outcome State Fault Refusal :=
  vintShift s (vs2iView f) true .i32 (shlOf .i32 false)
/-- VSHRI (R66). -/
def execVshri (f : Vs2i) (s : State) : Host.Outcome State Fault Refusal := vintShift s (vs2iView f) true .i32 (shrOf .i32)
/-- VANDI (R66). -/
def execVandi (f : Vs2i) (s : State) : Host.Outcome State Fault Refusal := vintBits s (vs2iView f) true .i32 (· &&& ·)

end Sys2Proof.Machine
end

