-- ==== Sys2Proof/Machine/Ualu.lean ====
section
/-! DEFINITION. UALU, the uniform instructions (R130 to R133), with the short SADDI and SMOVI (R66). -/

namespace Sys2Proof.Machine

/-- The type of a UALU word (R132). -/
def ualuTy (i : AluI) : OpTy := intTy (i.m / 8)

/-- A two-operand uniform integer instruction: `h` gives the result and CARRY where it writes it. -/
def uniAB (s : State) (i : AluI) (ok : Bool) (t : OpTy) (h : Nat → Nat → Nat × Option Bool) :
    Host.Outcome State Fault Refusal :=
  runUni s i ok [(.d, .dstU t false), (.a, .uni t), (.b, .uni t)] t.wide fun _ v =>
    ((h (v .a) (v .b)).1, 0, none, (h (v .a) (v .b)).2)

/-- A two-operand uniform integer instruction on exact integers, without CARRY. -/
def uniExact (s : State) (i : AluI) (ok : Bool) (t : OpTy) (h : Int → Int → Int) : Host.Outcome State Fault Refusal :=
  uniAB s i ok t fun a b => (fit t (bitAt i.m 2) (h (ext t a) (ext t b)), none)

/-- A uniform shift: the count is a 32-bit operand (R112). -/
def uniShift (s : State) (i : AluI) (ok : Bool) (t : OpTy) (h : Nat → Nat → Nat) : Host.Outcome State Fault Refusal :=
  runUni s i ok [(.d, .dstU t false), (.a, .uni t), (.b, .uni .n32)] t.wide fun _ v => (h (v .a) (v .b), 0, none, none)

/-- A one-operand uniform instruction. -/
def uniA (s : State) (i : AluI) (ok : Bool) (t : OpTy) (h : Nat → Nat) : Host.Outcome State Fault Refusal :=
  runUni s i ok [(.d, .dstU t false), (.a, .uni t)] t.wide fun _ v => (h (v .a), 0, none, none)

/-- SADD with its CARRY (R133). -/
def saddRun (s : State) (i : AluI) (ok : Bool) (t : OpTy) : Host.Outcome State Fault Refusal :=
  uniAB s i ok t fun a b => (fit t (bitAt i.m 2) (ext t a + ext t b), some (carryAdd t a b))

/-- SADD (R133). -/
def execSadd (f : Lg) (s : State) : Host.Outcome State Fault Refusal :=
  saddRun s (lgView f) (lgOk 0x08 0x00 f) (ualuTy (lgView f))
/-- SSUB (R133). -/
def execSsub (f : Lg) (s : State) : Host.Outcome State Fault Refusal :=
  let i := lgView f
  let t := ualuTy i
  uniAB s i (lgOk 0x08 0x01 f) t fun a b => (fit t (bitAt i.m 2) (ext t a - ext t b), some (carrySub t a b))
/-- SMUL (R133). -/
def execSmul (f : Lg) (s : State) : Host.Outcome State Fault Refusal :=
  uniExact s (lgView f) (lgOk 0x08 0x02 f) (ualuTy (lgView f)) (· * ·)
/-- SMULHI (R133). -/
def execSmulhi (f : Lg) (s : State) : Host.Outcome State Fault Refusal :=
  uniAB s (lgView f) (lgOk 0x08 0x03 f) (ualuTy (lgView f)) fun a b => (mulhiOf (ualuTy (lgView f)) a b, none)
/-- SAND (R133). -/
def execSand (f : Lg) (s : State) : Host.Outcome State Fault Refusal :=
  uniAB s (lgView f) (lgOk 0x08 0x04 f) (ualuTy (lgView f)) fun a b => (a &&& b, none)
/-- SOR (R133). -/
def execSor (f : Lg) (s : State) : Host.Outcome State Fault Refusal :=
  uniAB s (lgView f) (lgOk 0x08 0x05 f) (ualuTy (lgView f)) fun a b => (a ||| b, none)
/-- SXOR (R133). -/
def execSxor (f : Lg) (s : State) : Host.Outcome State Fault Refusal :=
  uniAB s (lgView f) (lgOk 0x08 0x06 f) (ualuTy (lgView f)) fun a b => (a ^^^ b, none)
/-- SANDN (R133). -/
def execSandn (f : Lg) (s : State) : Host.Outcome State Fault Refusal :=
  uniAB s (lgView f) (lgOk 0x08 0x07 f) (ualuTy (lgView f)) fun a b => (andNot (ualuTy (lgView f)).w a b, none)
/-- SSHL (R133). -/
def execSshl (f : Lg) (s : State) : Host.Outcome State Fault Refusal :=
  let i := lgView f
  uniShift s i (lgOk 0x08 0x08 f) (ualuTy i) (shlOf (ualuTy i) (bitAt i.m 2))
/-- SSHR (R133). -/
def execSshr (f : Lg) (s : State) : Host.Outcome State Fault Refusal :=
  uniShift s (lgView f) (lgOk 0x08 0x09 f) (ualuTy (lgView f)) (shrOf (ualuTy (lgView f)))
/-- SSRA (R133). -/
def execSsra (f : Lg) (s : State) : Host.Outcome State Fault Refusal :=
  uniShift s (lgView f) (lgOk 0x08 0x0A f) (ualuTy (lgView f)) (sraOf (ualuTy (lgView f)))
/-- SBFE (R118, R133). -/
def execSbfe (f : Lg) (s : State) : Host.Outcome State Fault Refusal :=
  let i := lgView f
  let t := ualuTy i
  runUni s i (lgOk 0x08 0x0B f) [(.d, .dstU t false), (.a, .uni t), (.b, .uni .n32), (.c, .uni .n32)] t.wide
    fun _ v => (bfeOf t (v .a) (v .b) (v .c), 0, none, none)
/-- SPOPC (R133). -/
def execSpopc (f : Lg) (s : State) : Host.Outcome State Fault Refusal :=
  uniA s (lgView f) (lgOk 0x08 0x0C f) (ualuTy (lgView f)) (popcount (ualuTy (lgView f)).w)
/-- SCLZ (R133). -/
def execSclz (f : Lg) (s : State) : Host.Outcome State Fault Refusal :=
  uniA s (lgView f) (lgOk 0x08 0x0D f) (ualuTy (lgView f)) (clz (ualuTy (lgView f)).w)
/-- SMIN (R133). -/
def execSmin (f : Lg) (s : State) : Host.Outcome State Fault Refusal :=
  uniExact s (lgView f) (lgOk 0x08 0x0E f) (ualuTy (lgView f)) min
/-- SMAX (R133). -/
def execSmax (f : Lg) (s : State) : Host.Outcome State Fault Refusal :=
  uniExact s (lgView f) (lgOk 0x08 0x0F f) (ualuTy (lgView f)) max
/-- SMOV (R133). -/
def execSmov (f : Lg) (s : State) : Host.Outcome State Fault Refusal :=
  uniA s (lgView f) (lgOk 0x08 0x10 f) (ualuTy (lgView f)) id
/-- SSEL (R133): a where the fragment's SCC is 1, else b. -/
def execSsel (f : Lg) (s : State) : Host.Outcome State Fault Refusal :=
  let i := lgView f
  let t := ualuTy i
  runUni s i (lgOk 0x08 0x11 f) [(.d, .dstU t false), (.a, .uni t), (.b, .uni t)] t.wide fun x v =>
    (if x.f.scc then v .a else v .b, 0, none, none)
/-- SCMP (R133): a 32-bit result and SCC. Its D is 32 bits wide whatever its type, so EXEC as D takes ILLOPND (R50; DESIGN CHOICE, log 76). -/
def execScmp (f : Lg) (s : State) : Host.Outcome State Fault Refusal :=
  let i := lgView f
  let t := ualuTy i
  runUni s i (lgOk 0x08 0x12 f) [(.d, .dstU .n32 false), (.a, .uni t), (.b, .uni t)] false fun _ v =>
    let c := intCond t (i.m % 8) (v .a) (v .b)
    (bitOf c, 0, some c, none)
/-- SLEA (R133): A and D are 64 bits wide. Its type is I32 or N32, so EXEC is no destination of it (R50). -/
def execSlea (f : Lg) (s : State) : Host.Outcome State Fault Refusal :=
  let i := lgView f
  let t := ualuTy i
  runUni s i (lgOk 0x08 0x13 f)
    [(.d, .dstP), (.a, .uni (wideTy t)), (.b, .uni t), (.c, .uni .n32)] true fun _ v =>
    (wrap 64 ((v .a : Int) + ext t (v .b) * ((2 ^ (v .c % 8) : Nat) : Int)), 0, none, none)
/-- The old value of a uniform destination (R133): NULL reads as zero. -/
def oldUni (s : State) (x : Ctx) (d : Sel) (wide : Bool) : Nat := readSel s x none (if wide then .n64 else .n32) d 0
/-- SMOVK (R133): D's old value is a source. -/
def execSmovk (f : Lg) (s : State) : Host.Outcome State Fault Refusal :=
  let i := lgView f
  let t := ualuTy i
  runUni s i (lgOk 0x08 0x14 f) [(.d, .dstU t true), (.a, .uni t), (.c, .uni t)] t.wide fun x v =>
    ((v .a &&& v .c) ||| andNot t.w (oldUni s x i.d t.wide) (v .c), 0, none, none)
/-- SFADD (R133). -/
def execSfadd (f : Lg) (s : State) : Host.Outcome State Fault Refusal :=
  let i := lgView f
  let t := vfltTy i
  runUni s i (lgOk 0x08 0x15 f) [(.d, .dstU t false), (.a, .uni t), (.b, .uni t)] t.wide fun _ v =>
    let r := fpAdd (fmtOf t) (vfltRm i) (v .a) (v .b)
    (r.1, r.2, none, none)
/-- SFMUL (R133). -/
def execSfmul (f : Lg) (s : State) : Host.Outcome State Fault Refusal :=
  let i := lgView f
  let t := vfltTy i
  runUni s i (lgOk 0x08 0x16 f) [(.d, .dstU t false), (.a, .uni t), (.b, .uni t)] t.wide fun _ v =>
    let r := fpMul (fmtOf t) (vfltRm i) (v .a) (v .b)
    (r.1, r.2, none, none)
/-- SFMA (R133). -/
def execSfma (f : Lg) (s : State) : Host.Outcome State Fault Refusal :=
  let i := lgView f
  let t := vfltTy i
  runUni s i (lgOk 0x08 0x17 f) [(.d, .dstU t false), (.a, .uni t), (.b, .uni t), (.c, .uni t)] t.wide fun _ v =>
    let r := fpFma (fmtOf t) (vfltRm i) (v .a) (v .b) (v .c)
    (r.1, r.2, none, none)
/-- SMFF1 (R133). -/
def execSmff1 (f : Lg) (s : State) : Host.Outcome State Fault Refusal :=
  let i := lgView f
  let t := ualuTy i
  runUni s i (lgOk 0x08 0x18 f) [(.d, .dstU t false), (.a, .uni t)] t.wide fun _ v =>
    (ctz t.w (v .a), 0, some (v .a != 0), none)
/-- SADDI (R66): SADD.i32 with an immediate; it writes CARRY. -/
def execSaddi (f : Us) (s : State) : Host.Outcome State Fault Refusal := saddRun s (usView f) true .i32
/-- SMOVI (R66): SMOV.i32 of an immediate. -/
def execSmovi (f : Usi) (s : State) : Host.Outcome State Fault Refusal := uniA s (usiView f) true .i32 id

end Sys2Proof.Machine
end

