-- ==== Sys2Proof/Machine/Dispatch.lean ====
section
/-! DEFINITION. The meaning of every instruction and step: one arm per constructor of Instr. -/

namespace Sys2Proof.Machine

def exec (i : Instr) (s : State) : Host.Outcome State Fault Refusal :=
  match i with
  | .vaddShort f => Sys2Proof.Machine.execVaddShort f s
  | .vsubShort f => Sys2Proof.Machine.execVsubShort f s
  | .vmulShort f => Sys2Proof.Machine.execVmulShort f s
  | .vandShort f => Sys2Proof.Machine.execVandShort f s
  | .vorShort f => Sys2Proof.Machine.execVorShort f s
  | .vxorShort f => Sys2Proof.Machine.execVxorShort f s
  | .vshlShort f => Sys2Proof.Machine.execVshlShort f s
  | .vshrShort f => Sys2Proof.Machine.execVshrShort f s
  | .vsraShort f => Sys2Proof.Machine.execVsraShort f s
  | .vminShort f => Sys2Proof.Machine.execVminShort f s
  | .vmaxShort f => Sys2Proof.Machine.execVmaxShort f s
  | .vfaddShort f => Sys2Proof.Machine.execVfaddShort f s
  | .vfsubShort f => Sys2Proof.Machine.execVfsubShort f s
  | .vfmulShort f => Sys2Proof.Machine.execVfmulShort f s
  | .vfmac f => Sys2Proof.Machine.execVfmac f s
  | .vfminShort f => Sys2Proof.Machine.execVfminShort f s
  | .vfmaxShort f => Sys2Proof.Machine.execVfmaxShort f s
  | .vmovShort f => Sys2Proof.Machine.execVmovShort f s
  | .vaddi f => Sys2Proof.Machine.execVaddi f s
  | .vshli f => Sys2Proof.Machine.execVshli f s
  | .vshri f => Sys2Proof.Machine.execVshri f s
  | .vandi f => Sys2Proof.Machine.execVandi f s
  | .saddi f => Sys2Proof.Machine.execSaddi f s
  | .smovi f => Sys2Proof.Machine.execSmovi f s
  | .jmpShort f => Sys2Proof.Machine.execJmpShort f s
  | .brsShort f => Sys2Proof.Machine.execBrsShort f s
  | .nop f => Sys2Proof.Machine.execNop f s
  | .vadd f => Sys2Proof.Machine.execVadd f s
  | .vsub f => Sys2Proof.Machine.execVsub f s
  | .vaddc f => Sys2Proof.Machine.execVaddc f s
  | .vsubb f => Sys2Proof.Machine.execVsubb f s
  | .vmul f => Sys2Proof.Machine.execVmul f s
  | .vmulhi f => Sys2Proof.Machine.execVmulhi f s
  | .vmad f => Sys2Proof.Machine.execVmad f s
  | .vmadw f => Sys2Proof.Machine.execVmadw f s
  | .vabsd f => Sys2Proof.Machine.execVabsd f s
  | .vmin f => Sys2Proof.Machine.execVmin f s
  | .vmax f => Sys2Proof.Machine.execVmax f s
  | .vand f => Sys2Proof.Machine.execVand f s
  | .vor f => Sys2Proof.Machine.execVor f s
  | .vxor f => Sys2Proof.Machine.execVxor f s
  | .vandn f => Sys2Proof.Machine.execVandn f s
  | .vshl f => Sys2Proof.Machine.execVshl f s
  | .vshr f => Sys2Proof.Machine.execVshr f s
  | .vsra f => Sys2Proof.Machine.execVsra f s
  | .vfshr f => Sys2Proof.Machine.execVfshr f s
  | .vbfe f => Sys2Proof.Machine.execVbfe f s
  | .vbfi f => Sys2Proof.Machine.execVbfi f s
  | .vpopc f => Sys2Proof.Machine.execVpopc f s
  | .vclz f => Sys2Proof.Machine.execVclz f s
  | .vbrev f => Sys2Proof.Machine.execVbrev f s
  | .vsel f => Sys2Proof.Machine.execVsel f s
  | .vmov f => Sys2Proof.Machine.execVmov f s
  | .vmovi f => Sys2Proof.Machine.execVmovi f s
  | .vmovx f => Sys2Proof.Machine.execVmovx f s
  | .vlea f => Sys2Proof.Machine.execVlea f s
  | .vdiv f => Sys2Proof.Machine.execVdiv f s
  | .vrem f => Sys2Proof.Machine.execVrem f s
  | .vfadd f => Sys2Proof.Machine.execVfadd f s
  | .vfsub f => Sys2Proof.Machine.execVfsub f s
  | .vfmul f => Sys2Proof.Machine.execVfmul f s
  | .vfma f => Sys2Proof.Machine.execVfma f s
  | .vfmin f => Sys2Proof.Machine.execVfmin f s
  | .vfmax f => Sys2Proof.Machine.execVfmax f s
  | .vfrnd f => Sys2Proof.Machine.execVfrnd f s
  | .vffract f => Sys2Proof.Machine.execVffract f s
  | .vfdot2 f => Sys2Proof.Machine.execVfdot2 f s
  | .vfclass f => Sys2Proof.Machine.execVfclass f s
  | .vfldexp f => Sys2Proof.Machine.execVfldexp f s
  | .vffrexp f => Sys2Proof.Machine.execVffrexp f s
  | .vfcopys f => Sys2Proof.Machine.execVfcopys f s
  | .vfdiv f => Sys2Proof.Machine.execVfdiv f s
  | .vrcp f => Sys2Proof.Machine.execVrcp f s
  | .vrsq f => Sys2Proof.Machine.execVrsq f s
  | .vsqrt f => Sys2Proof.Machine.execVsqrt f s
  | .vexp2 f => Sys2Proof.Machine.execVexp2 f s
  | .vlog2 f => Sys2Proof.Machine.execVlog2 f s
  | .vsinpi f => Sys2Proof.Machine.execVsinpi f s
  | .vcospi f => Sys2Proof.Machine.execVcospi f s
  | .vtanh f => Sys2Proof.Machine.execVtanh f s
  | .vcvtf f => Sys2Proof.Machine.execVcvtf f s
  | .vcvtfi f => Sys2Proof.Machine.execVcvtfi f s
  | .vcvtif f => Sys2Proof.Machine.execVcvtif f s
  | .vpack f => Sys2Proof.Machine.execVpack f s
  | .vunpk f => Sys2Proof.Machine.execVunpk f s
  | .vcvtlg f => Sys2Proof.Machine.execVcvtlg f s
  | .vlgcvt f => Sys2Proof.Machine.execVlgcvt f s
  | .vcmp f => Sys2Proof.Machine.execVcmp f s
  | .vcmpf f => Sys2Proof.Machine.execVcmpf f s
  | .vshfl f => Sys2Proof.Machine.execVshfl f s
  | .vbcst f => Sys2Proof.Machine.execVbcst f s
  | .vrdln f => Sys2Proof.Machine.execVrdln f s
  | .vwrln f => Sys2Proof.Machine.execVwrln f s
  | .vballot f => Sys2Proof.Machine.execVballot f s
  | .vmpfx f => Sys2Proof.Machine.execVmpfx f s
  | .vred f => Sys2Proof.Machine.execVred f s
  | .vscan f => Sys2Proof.Machine.execVscan f s
  | .vqswz f => Sys2Proof.Machine.execVqswz f s
  | .vmatch f => Sys2Proof.Machine.execVmatch f s
  | .sadd f => Sys2Proof.Machine.execSadd f s
  | .ssub f => Sys2Proof.Machine.execSsub f s
  | .smul f => Sys2Proof.Machine.execSmul f s
  | .smulhi f => Sys2Proof.Machine.execSmulhi f s
  | .sand f => Sys2Proof.Machine.execSand f s
  | .sor f => Sys2Proof.Machine.execSor f s
  | .sxor f => Sys2Proof.Machine.execSxor f s
  | .sandn f => Sys2Proof.Machine.execSandn f s
  | .sshl f => Sys2Proof.Machine.execSshl f s
  | .sshr f => Sys2Proof.Machine.execSshr f s
  | .ssra f => Sys2Proof.Machine.execSsra f s
  | .sbfe f => Sys2Proof.Machine.execSbfe f s
  | .spopc f => Sys2Proof.Machine.execSpopc f s
  | .sclz f => Sys2Proof.Machine.execSclz f s
  | .smin f => Sys2Proof.Machine.execSmin f s
  | .smax f => Sys2Proof.Machine.execSmax f s
  | .smov f => Sys2Proof.Machine.execSmov f s
  | .ssel f => Sys2Proof.Machine.execSsel f s
  | .scmp f => Sys2Proof.Machine.execScmp f s
  | .slea f => Sys2Proof.Machine.execSlea f s
  | .smovk f => Sys2Proof.Machine.execSmovk f s
  | .sfadd f => Sys2Proof.Machine.execSfadd f s
  | .sfmul f => Sys2Proof.Machine.execSfmul f s
  | .sfma f => Sys2Proof.Machine.execSfma f s
  | .smff1 f => Sys2Proof.Machine.execSmff1 f s
  | .jmp f => Sys2Proof.Machine.execJmp f s
  | .brs f => Sys2Proof.Machine.execBrs f s
  | .brz f => Sys2Proof.Machine.execBrz f s
  | .split f => Sys2Proof.Machine.execSplit f s
  | .break f => Sys2Proof.Machine.execBreak f s
  | .call f => Sys2Proof.Machine.execCall f s
  | .ret f => Sys2Proof.Machine.execRet f s
  | .jmpi f => Sys2Proof.Machine.execJmpi f s
  | .exit f => Sys2Proof.Machine.execExit f s
  | .yield f => Sys2Proof.Machine.execYield f s
  | .gld f => Sys2Proof.Machine.execGld f s
  | .gst f => Sys2Proof.Machine.execGst f s
  | .uld f => Sys2Proof.Machine.execUld f s
  | .ust f => Sys2Proof.Machine.execUst f s
  | .cpf f => Sys2Proof.Machine.execCpf f s
  | .sld f => Sys2Proof.Machine.execSld f s
  | .sst f => Sys2Proof.Machine.execSst f s
  | .xld f => Sys2Proof.Machine.execXld f s
  | .xst f => Sys2Proof.Machine.execXst f s
  | .gatom f => Sys2Proof.Machine.execGatom f s
  | .satom f => Sys2Proof.Machine.execSatom f s
  | .xatom f => Sys2Proof.Machine.execXatom f s
  | .uatom f => Sys2Proof.Machine.execUatom f s
  | .fence f => Sys2Proof.Machine.execFence f s
  | .fencex f => Sys2Proof.Machine.execFencex f s
  | .cinv f => Sys2Proof.Machine.execCinv f s
  | .cwb f => Sys2Proof.Machine.execCwb f s
  | .wbind f => Sys2Proof.Machine.execWbind f s
  | .wunbind f => Sys2Proof.Machine.execWunbind f s
  | .wwarm f => Sys2Proof.Machine.execWwarm f s
  | .wtest f => Sys2Proof.Machine.execWtest f s
  | .wwait f => Sys2Proof.Machine.execWwait f s
  | .wslice f => Sys2Proof.Machine.execWslice f s
  | .chfill f => Sys2Proof.Machine.execChfill f s
  | .chcopy f => Sys2Proof.Machine.execChcopy f s
  | .chcmp f => Sys2Proof.Machine.execChcmp f s
  | .chred f => Sys2Proof.Machine.execChred f s
  | .mma f => Sys2Proof.Machine.execMma f s
  | .mzero f => Sys2Proof.Machine.execMzero f s
  | .mdrain f => Sys2Proof.Machine.execMdrain f s
  | .mdrainq f => Sys2Proof.Machine.execMdrainq f s
  | .mldacc f => Sys2Proof.Machine.execMldacc f s
  | .mstat f => Sys2Proof.Machine.execMstat f s
  | .mrprog f => Sys2Proof.Machine.execMrprog f s
  | .capmint f => Sys2Proof.Machine.execCapmint f s
  | .caprev f => Sys2Proof.Machine.execCaprev f s
  | .note f => Sys2Proof.Machine.execNote f s
  | .noteu f => Sys2Proof.Machine.execNoteu f s
  | .expect f => Sys2Proof.Machine.execExpect f s
  | .npoll f => Sys2Proof.Machine.execNpoll f s
  | .wreg f => Sys2Proof.Machine.execWreg f s
  | .wdrop f => Sys2Proof.Machine.execWdrop f s
  | .wait f => Sys2Proof.Machine.execWait f s
  | .lock f => Sys2Proof.Machine.execLock f s
  | .unlock f => Sys2Proof.Machine.execUnlock f s
  | .bar f => Sys2Proof.Machine.execBar f s
  | .bara f => Sys2Proof.Machine.execBara f s
  | .barw f => Sys2Proof.Machine.execBarw f s
  | .whold f => Sys2Proof.Machine.execWhold f s
  | .wstat f => Sys2Proof.Machine.execWstat f s
  | .spawn f => Sys2Proof.Machine.execSpawn f s
  | .launch f => Sys2Proof.Machine.execLaunch f s
  | .join f => Sys2Proof.Machine.execJoin f s
  | .kill f => Sys2Proof.Machine.execKill f s
  | .quota f => Sys2Proof.Machine.execQuota f s
  | .coll f => Sys2Proof.Machine.execColl f s
  | .ctopv f => Sys2Proof.Machine.execCtopv f s
  | .trap f => Sys2Proof.Machine.execTrap f s
  | .tret f => Sys2Proof.Machine.execTret f s
  | .sgetsr f => Sys2Proof.Machine.execSgetsr f s
  | .ssetsr f => Sys2Proof.Machine.execSsetsr f s
  | .sleep f => Sys2Proof.Machine.execSleep f s
  | .pmark f => Sys2Proof.Machine.execPmark f s
  | .dbrk f => Sys2Proof.Machine.execDbrk f s
  | .fresume f => Sys2Proof.Machine.execFresume f s
  | .prLde f => Sys2Proof.Machine.execPrLde f s
  | .prLdi f => Sys2Proof.Machine.execPrLdi f s
  | .prAdd f => Sys2Proof.Machine.execPrAdd f s
  | .prSub f => Sys2Proof.Machine.execPrSub f s
  | .prAnd f => Sys2Proof.Machine.execPrAnd f s
  | .prOr f => Sys2Proof.Machine.execPrOr f s
  | .prXor f => Sys2Proof.Machine.execPrXor f s
  | .prShl f => Sys2Proof.Machine.execPrShl f s
  | .prShr f => Sys2Proof.Machine.execPrShr f s
  | .prMin f => Sys2Proof.Machine.execPrMin f s
  | .prMax f => Sys2Proof.Machine.execPrMax f s
  | .prMul f => Sys2Proof.Machine.execPrMul f s
  | .prHash f => Sys2Proof.Machine.execPrHash f s
  | .prBfw f => Sys2Proof.Machine.execPrBfw f s
  | .prHinc f => Sys2Proof.Machine.execPrHinc f s
  | .prSkinc f => Sys2Proof.Machine.execPrSkinc f s
  | .prHll f => Sys2Proof.Machine.execPrHll f s
  | .prLdm f => Sys2Proof.Machine.execPrLdm f s
  | .prStm f => Sys2Proof.Machine.execPrStm f s
  | .prTrigIrq f => Sys2Proof.Machine.execPrTrigIrq f s
  | .prTrigSnap f => Sys2Proof.Machine.execPrTrigSnap f s
  | .prTrigArm f => Sys2Proof.Machine.execPrTrigArm f s
  | .prTrigDisarm f => Sys2Proof.Machine.execPrTrigDisarm f s
  | .prEmit f => Sys2Proof.Machine.execPrEmit f s
  | .prEnd f => Sys2Proof.Machine.execPrEnd f s
  | .enterClause core slot frag => Sys2Proof.Machine.execEnterClause core slot frag s
  | .waitingTableRetest core slot frag => Sys2Proof.Machine.execWaitingTableRetest core slot frag s
  | .sleepExpiry core slot frag => Sys2Proof.Machine.execSleepExpiry core slot frag s
  | .spillBringBack core slot idx => Sys2Proof.Machine.execSpillBringBack core slot idx s
  | .globalLoadReply op => Sys2Proof.Machine.execGlobalLoadReply op s
  | .homeLoadRequest chip mc => Sys2Proof.Machine.execHomeLoadRequest chip mc s
  | .dramReadComplete mc line bad => Sys2Proof.Machine.execDramReadComplete mc line bad s
  | .nearCacheGrant chip mc => Sys2Proof.Machine.execNearCacheGrant chip mc s
  | .nearCacheProbe chip mc => Sys2Proof.Machine.execNearCacheProbe chip mc s
  | .combineBufferTimeout core line => Sys2Proof.Machine.execCombineBufferTimeout core line s
  | .homePostingMerge chip mc => Sys2Proof.Machine.execHomePostingMerge chip mc s
  | .probeAckReceive chip mc => Sys2Proof.Machine.execProbeAckReceive chip mc s
  | .postingAck chip mc => Sys2Proof.Machine.execPostingAck chip mc s
  | .homeAtomic chip mc => Sys2Proof.Machine.execHomeAtomic chip mc s
  | .atomicReply op => Sys2Proof.Machine.execAtomicReply op s
  | .tableWalkStep op => Sys2Proof.Machine.execTableWalkStep op s
  | .feFqhead fe v => Sys2Proof.Machine.execFeFqhead fe v s
  | .feFresume fe v => Sys2Proof.Machine.execFeFresume fe v s
  | .feTlbinv fe v => Sys2Proof.Machine.execFeTlbinv fe v s
  | .tlbinvComplete fe => Sys2Proof.Machine.execTlbinvComplete fe s
  | .fePreemptSave fe v => Sys2Proof.Machine.execFePreemptSave fe v s
  | .fePreemptRestore fe v => Sys2Proof.Machine.execFePreemptRestore fe v s
  | .sliceEnd core slot => Sys2Proof.Machine.execSliceEnd core slot s
  | .saveGraceExpiry core slot => Sys2Proof.Machine.execSaveGraceExpiry core slot s
  | .saveComplete core slot => Sys2Proof.Machine.execSaveComplete core slot s
  | .restore core slot => Sys2Proof.Machine.execRestore core slot s
  | .registerCompaction core => Sys2Proof.Machine.execRegisterCompaction core s
  | .teamPlacement fe => Sys2Proof.Machine.execTeamPlacement fe s
  | .cohortPlacement fe => Sys2Proof.Machine.execCohortPlacement fe s
  | .feSubmit fe v => Sys2Proof.Machine.execFeSubmit fe v s
  | .journalDurable fe jseq => Sys2Proof.Machine.execJournalDurable fe jseq s
  | .journalMirrorFailure mc => Sys2Proof.Machine.execJournalMirrorFailure mc s
  | .feReset fe v => Sys2Proof.Machine.execFeReset fe v s
  | .feCtlEnable fe => Sys2Proof.Machine.execFeCtlEnable fe s
  | .feCtlDisable fe => Sys2Proof.Machine.execFeCtlDisable fe s
  | .watchdogExpiry fe jseq => Sys2Proof.Machine.execWatchdogExpiry fe jseq s
  | .hardwareFailure chip => Sys2Proof.Machine.execHardwareFailure chip s
  | .mgReset v img cause => Sys2Proof.Machine.execMgReset v img cause s
  | .fatalDeviceError cause => Sys2Proof.Machine.execFatalDeviceError cause s
  | .planesTrained => Sys2Proof.Machine.execPlanesTrained s
  | .mgAttcmd v => Sys2Proof.Machine.execMgAttcmd v s
  | .attestationDone => Sys2Proof.Machine.execAttestationDone s
  | .powerLimitReached => Sys2Proof.Machine.execPowerLimitReached s
  | .clockRaise => Sys2Proof.Machine.execClockRaise s
  | .ttCommit v => Sys2Proof.Machine.execTtCommit v s
  | .timetableRoundStart => Sys2Proof.Machine.execTimetableRoundStart s
  | .timetableSlotStart => Sys2Proof.Machine.execTimetableSlotStart s
  | .feWaymask fe v => Sys2Proof.Machine.execFeWaymask fe v s
  | .wayMaskApply fe slice => Sys2Proof.Machine.execWayMaskApply fe slice s
  | .wayCleaningDone fe slice => Sys2Proof.Machine.execWayCleaningDone fe slice s
  | .feAllowlim fe v => Sys2Proof.Machine.execFeAllowlim fe v s
  | .vfMbox vf v => Sys2Proof.Machine.execVfMbox vf v s
  | .mailboxFifoRead vf => Sys2Proof.Machine.execMailboxFifoRead vf s
  | .vfMap vf v => Sys2Proof.Machine.execVfMap vf v s
  | .feJnlhead fe v => Sys2Proof.Machine.execFeJnlhead fe v s
  | .feProuthead fe v => Sys2Proof.Machine.execFeProuthead fe v s
  | .registerWrite bar off v => Sys2Proof.Machine.execRegisterWrite bar off v s
  | .biasFlipToHost => Sys2Proof.Machine.execBiasFlipToHost s
  | .biasFlipToDevice => Sys2Proof.Machine.execBiasFlipToDevice s
  | .flushRequest chip => Sys2Proof.Machine.execFlushRequest chip s
  | .flushdone chip => Sys2Proof.Machine.execFlushdone chip s
  | .flushInvalidationAck chip => Sys2Proof.Machine.execFlushInvalidationAck chip s
  | .bisnpResponse line half data => Sys2Proof.Machine.execBisnpResponse line half data s
  | .hostMemRead pa n => Sys2Proof.Machine.execHostMemRead pa n s
  | .hostMemWrite pa data => Sys2Proof.Machine.execHostMemWrite pa data s
  | .hostCacheRequest line half own => Sys2Proof.Machine.execHostCacheRequest line half own s
  | .snpdata line half => Sys2Proof.Machine.execSnpdata line half s
  | .snpinv line half => Sys2Proof.Machine.execSnpinv line half s
  | .snpcur line half => Sys2Proof.Machine.execSnpcur line half s
  | .hostSectorGrant chip line half data own => Sys2Proof.Machine.execHostSectorGrant chip line half data own s
  | .upgradeNotice chip line half => Sys2Proof.Machine.execUpgradeNotice chip line half s
  | .flitReceive a b ok => Sys2Proof.Machine.execFlitReceive a b ok s
  | .flitAck a b => Sys2Proof.Machine.execFlitAck a b s
  | .switchoverDrainTimeout a b => Sys2Proof.Machine.execSwitchoverDrainTimeout a b s
  | .creditReturn a b => Sys2Proof.Machine.execCreditReturn a b s
  | .colourLoss a b colour => Sys2Proof.Machine.execColourLoss a b colour s
  | .lossReport a b colour => Sys2Proof.Machine.execLossReport a b colour s
  | .sepRoute a b v => Sys2Proof.Machine.execSepRoute a b v s
  | .colourRetest a b colour ok => Sys2Proof.Machine.execColourRetest a b colour ok s
  | .lossOfLight p => Sys2Proof.Machine.execLossOfLight p s
  | .trainingComplete p partner us => Sys2Proof.Machine.execTrainingComplete p partner us s
  | .trainingTimeout p => Sys2Proof.Machine.execTrainingTimeout p s
  | .edPortEnable p => Sys2Proof.Machine.execEdPortEnable p s
  | .edPortDisable p => Sys2Proof.Machine.execEdPortDisable p s
  | .ednanFlitReceive p ok pkt => Sys2Proof.Machine.execEdnanFlitReceive p ok pkt s
  | .collectivePacketReceive p => Sys2Proof.Machine.execCollectivePacketReceive p s
  | .topvCommit v => Sys2Proof.Machine.execTopvCommit v s
  | .cmCfg v => Sys2Proof.Machine.execCmCfg v s
  | .cmMapdata v => Sys2Proof.Machine.execCmMapdata v s
  | .collectiveComplete op => Sys2Proof.Machine.execCollectiveComplete op s
  | .deadlockProbe chip => Sys2Proof.Machine.execDeadlockProbe chip s
  | .cycleDelivery chip => Sys2Proof.Machine.execCycleDelivery chip s
  | .priorityRaise core slot => Sys2Proof.Machine.execPriorityRaise core slot s
  | .waitReread chip idx => Sys2Proof.Machine.execWaitReread chip idx s
  | .noteArrival core => Sys2Proof.Machine.execNoteArrival core s
  | .noteBufferRetry core => Sys2Proof.Machine.execNoteBufferRetry core s
  | .noteAckReceive op => Sys2Proof.Machine.execNoteAckReceive op s
  | .windowChunkArrival team region chunk => Sys2Proof.Machine.execWindowChunkArrival team region chunk s
  | .mmaJob core tile => Sys2Proof.Machine.execMmaJob core tile s
  | .mldaccJob core tile => Sys2Proof.Machine.execMldaccJob core tile s
  | .mdrainJob core tile => Sys2Proof.Machine.execMdrainJob core tile s
  | .mdrainqTurn core tile => Sys2Proof.Machine.execMdrainqTurn core tile s
  | .tileStatusTurn core tile => Sys2Proof.Machine.execTileStatusTurn core tile s
  | .mzeroTurn core tile => Sys2Proof.Machine.execMzeroTurn core tile s
  | .churnGranule op k => Sys2Proof.Machine.execChurnGranule op k s
  | .proctorInvocation port => Sys2Proof.Machine.execProctorInvocation port s
  | .proctorAttach fe v => Sys2Proof.Machine.execProctorAttach fe v s
  | .proctorDetach fe v => Sys2Proof.Machine.execProctorDetach fe v s
  | .registerScrub core row lane => Sys2Proof.Machine.execRegisterScrub core row lane s
  | .storageScrub kind place line fatal => Sys2Proof.Machine.execStorageScrub kind place line fatal s
  | .dramPatrol mc line bad => Sys2Proof.Machine.execDramPatrol mc line bad s
  | .unlistedOpcode ws => Sys2Proof.Machine.execUnlistedOpcode ws s
  | .scratchpadAccessComplete op => Sys2Proof.Machine.execScratchpadAccessComplete op s
  | .chipletPowerGating chip => Sys2Proof.Machine.execChipletPowerGating chip s

end Sys2Proof.Machine
end

