-- ==== Sys2Proof/Machine/Place.lean ====
section
/-! DEFINITION. Placing one instruction where the next step executes it (log 22): it stands for the load of a program. -/

namespace Sys2Proof.Machine

/-- The header of a clause of `n` words and a class (R26): no flag is joined or awaited. -/
def plainHeader (cls n : Nat) : Word := BitVec.ofNat 32 (0xA7F80000 + cls * 16 + n)

/-- The group of core 0, slot 0, with these words as its first fragment's clause, at word 1. -/
def placeWords (s : State) (ws : List Word) : State :=
  let cls := match ws with
    | w :: _ => (majorClass (flag w 30) (majorOf w).toNat).getD 0
    | [] => 0
  let g0 := match Tab.get? s.groups 0 with
    | some g => g
    | none => { Group.blank s.clock 0 with uid := s.nextOp }
  let f0 := (g0.frag? 0).getD (firstFrag 0 s.clock)
  let f := { f0 with hdr := plainHeader cls ws.length, words := ws, idx := 1, cond := .ready, since := s.clock }
  { s with
    nextOp := if (Tab.get? s.groups 0).isSome then s.nextOp else s.nextOp + 1
    groups := Tab.set s.groups 0 { g0 with split := Tab.set g0.split 0 (.frag f) }
    agenda := .issue 0 0 0 :: s.agenda }

/-- A Proctor that runs this instruction next: port 0, an attachment of partition 0 in slot 0. -/
def placePr (s : State) (w : Word) : State :=
  let ev : PrEvent := { src := 0, part := none, e := List.replicate 8 0 }
  let att : PrAtt :=
    { part := 0, slot := 0, src := 0, armed := true, count := 0, samp := 0, seeds := [1, 1, 1, 1]
      code := w :: List.replicate 63 0x54000000, size := 16384, scratch := [], snapBusy := false, skip := 0, leaving := false }
  { s with
    proctors := Tab.set s.proctors 0 { s.proctor 0 with
      atts := Tab.set (s.proctor 0).atts 0 att, run := some { att := 0, pc := 0, w := [], ev := ev, round := s.tt.round } }
    agenda := .proctor 0 :: s.agenda }

/-- Place the instruction of these bits. -/
def placeWord (s : State) (nbits w : Nat) : State :=
  let v := w % 2 ^ nbits
  let ws := wordsOf 5 v
  match decode none ws with
  | .ok (_, n) => placeWords s (ws.take n)
  | .error _ => placePr s (BitVec.ofNat 32 v)

end Sys2Proof.Machine
end

