-- ==== Sys2Proof/Machine/Settle.lean ====
section
/-! DEFINITION. What follows from a step in the same cycle (log 2): operations go on, results arrive, groups wake and retire, the images
of saved groups follow. -/

namespace Sys2Proof.Machine

/-- Every WBIND or WWARM that waits takes effect where the copy before it has ended (R165, R270). -/
def bindAll (s : State) : State :=
  s.teams.foldl (fun t e =>
    (e.2.regions.filter fun w => !w.2.held.isEmpty).foldl (fun u w => bindNow w.2.held.length u e.1 w.1) t) s

/-- Churn jobs and drains whose last answer has come end (R169, R185). -/
def finishJobs (s : State) : State :=
  let s1 := (Tab.keys s.churns).foldl finishChurn s
  ((s1.mjobs.filter fun j => j.2.kind == 4 && j.2.begun).map (·.1)).foldl finishDrain s1

/-- Results arrive in the queues of every group that is not saved (R53). -/
def arriveAll (s : State) : State :=
  if s.groups.any fun e => e.2.queues.any fun q => !q.isEmpty then
    { s with groups := s.groups.map fun (e : Nat × Group) => (e.1, if e.2.queues.all List.isEmpty then e.2 else arriveQueues e.2) }
  else s

/-- Combine-buffer lines that are asked for and may go are posted (R153). -/
def postAll (s : State) : State :=
  ((s.cores.filter fun c => c.2.cb.any fun e => e.want).map (·.1)).foldl (fun t c => postWanted 64 t c) s

/-- What the fragments and groups do next: barriers, Attendance, wakes, retirement, states, priorities. -/
def settleGroups (s : State) : State :=
  let each (f : State → Nat → State) (t : State) : State := (Tab.keys t.groups).foldl f t
  let s1 := each noteEntries (wakeEntries (each barStep s))
  let s2 := holdReady (wakeAll (endResets (serveWorks s1)))
  let s3 := retireAll ((Tab.keys s2.cores).foldl drainNotes s2)
  raisePriorities (each followState s3)

/-- Everything that a step brings with it: accesses and jobs meet the bindings they were issued under before any later one takes effect
(R165, R270). -/
def settle (s : State) : State :=
  let s1 := bindAll (noticeJobs (flipStep (sendWaiting (settleSwitches s.pairs.length (postAll (stepOps (holdSaves s)))))))
  let s2 := dropGranules (drainQueues (moveSectors s1))
  drainProctors (releaseIdle (holdSaves (settleGroups (arriveAll (finishJobs (sendNotes s2))))))

/-- A step is complete: `old` is the state before it, `s` what its action has made of it. -/
def closeStep (old s : State) : State := syncImages old (settle s)

/-- A step that executed an instruction is complete: a save that is requested begins at its safe point (R306). -/
def closeRun (i : Instr) (old s : State) : State := closeStep old (safePoint i old s)

/-- `n` cycles pass (R50); those in which all of a launch's groups are saved do not count for its watchdog (R364). -/
def tick (s : State) (n : Nat) : State :=
  let t := { s with clock := s.clock + n }
  if s.groups.any fun g => g.2.state == .saved then
    { t with launches := s.launches.map fun (l : Nat × Launch) =>
        if l.2.live != 0 && s.groups.all fun g => g.2.launch != l.1 || g.2.state == .saved then
          (l.1, { l.2 with savedFor := l.2.savedFor + n })
        else l }
  else t

end Sys2Proof.Machine
end

