-- ==== Sys2Proof/Machine/Auto.lean ====
section
/-! DEFINITION. The steps that the device can take of itself in a state, from which `plan` takes one where the agenda names none and no
fragment issues (log 2). The list leaves out what only the outside can do, and errors of the hardware. -/

namespace Sys2Proof.Machine

/-- A step of the device. -/
abbrev Auto := State → Host.Outcome State Fault Refusal

/-- The step of a Churn job: its first granule that is not done (R251). -/
def autoChurn (s : State) (job : Nat) : List Auto :=
  match Tab.get? s.churns job with
  | none => []
  | some c => match (List.range c.granules).find? fun k => !c.done.contains k with
    | some k => [execChurnGranule job k]
    | none => []

/-- The step that a message of a receive buffer allows, which nothing in front of it holds up. -/
def autoMsg (s : State) (i j : Nat) (m : Msg) : List Auto :=
  match m with
  | .loadReq _ _ _ _ _ _ => [execHomeLoadRequest i (j - 16)]
  | .grant _ _ _ _ _ _ _ _ _ => [execNearCacheGrant j (i - 16)]
  | .posting _ _ _ _ _ _ _ => [execHomePostingMerge i (j - 16)]
  | .postAck _ _ _ _ => [execPostingAck j (i - 16)]
  | .probe _ _ => [execNearCacheProbe j (i - 16)]
  | .probeAck _ _ => [execProbeAckReceive i (j - 16)]
  | .atomReq _ _ _ _ _ _ => [execHomeAtomic i (j - 16)]
  | .atomReply op _ _ _ _ _ => [execAtomicReply op]
  | .note op => match Tab.get? s.notes op with
    | some n => [execNoteArrival n.core]
    | none => []
  | .noteAck op _ => [execNoteAckReceive op]
  | .host _ => []
  | .flush _ => [execFlushRequest j]
  | .flushDone _ => [execFlushdone i]
  | .flushInv _ => [execFlushInvalidationAck i]
  | .granReq job _ => autoChurn s job
  | .granData job _ _ => autoChurn s job

/-- Steps that bring a link's flits on: a flit received, an acknowledgement, a credit returned (R347, R352). -/
def linkSteps (i j : Nat) (p : Pair) : List Auto :=
  (if p.wire.isEmpty then [] else [execFlitReceive i j true]) ++
  (if p.acksDue then [execFlitAck i j] else []) ++
  (if 0 < p.owed then [execCreditReturn i j] else [])

/-- Steps of the pairs of the Separator (R347 to R352). -/
def autoPairs (s : State) : List Auto :=
  s.pairs.flatMap fun e =>
    let i := e.1 / 34
    let j := e.1 % 34
    let p := e.2
    linkSteps i j p ++
    (p.lossRep.map fun c => execLossReport i j c) ++
    (if 8 ≤ p.fails then [execColourLoss i j (primaryColour i j)] else []) ++
    (if 8 ≤ p.fails2 then [execColourLoss i j (primaryColour i j + 34)] else []) ++
    (if p.switching && p.since + 4200 ≤ s.clock then [execSwitchoverDrainTimeout i j] else []) ++
    ((openMsgs p.inbox).flatMap fun m => autoMsg s i j m.2.2)

/-- Steps of the homes: DRAM reads, way masks (R21, R286). -/
def autoHomes (s : State) : List Auto :=
  ((s.hlines.filter fun h => h.2.dram).map fun h => execDramReadComplete (homeMc (h.1 * 128)) h.1 false) ++
  s.slices.flatMap fun e =>
    (e.2.nextMasks.map fun m => execWayMaskApply m.1 e.1) ++ e.2.cleaning.map fun f => execWayCleaningDone f e.1

/-- Steps of operations in flight (R150, R294). -/
def autoOps (s : State) : List Auto :=
  s.ops.flatMap fun e =>
    match e.2.stage with
    | .translate => [execTableWalkStep e.1]
    | .ready => if e.2.kind.pads then [execScratchpadAccessComplete e.1] else []
    | .performed => if e.2.kind = .atomic then [execAtomicReply e.1] else [execGlobalLoadReply e.1]
    | _ => []

/-- Steps of a fragment's condition (R44, R212, R222). -/
def autoFrag (s : State) (gid fi : Nat) (f : Frag) : List Auto :=
  match f.cond with
  | .ready => if inTable fi then [] else [execSpillBringBack (coreOf gid) (slotOf gid) fi]
  | .parked _ tabled since => if tabled || s.clock % 16 != since % 16 then [] else [execWaitingTableRetest (coreOf gid) (slotOf gid) fi]
  | .sleeping till => if till ≤ s.clock then [execSleepExpiry (coreOf gid) (slotOf gid) fi] else []
  | .atRpc => []

/-- Steps of the groups: their fragments, saves and restores (R304 to R315). -/
def autoGroups (s : State) : List Auto :=
  s.groups.flatMap fun e =>
    let g := e.2
    let core := coreOf e.1
    let slot := slotOf e.1
    (if g.live then g.frags.flatMap fun f => autoFrag s e.1 f.1 f.2 else []) ++
    (if g.state = .saved then [execRestore core slot]
     else if g.grace.isSome then [execSaveComplete core slot]
     else if g.saveReq.isSome then [execSaveGraceExpiry core slot]
     else if (s.fe g.part).slice != 0 && decide (g.placedAt + (s.fe g.part).slice ≤ s.clock) then [execSliceEnd core slot]
     else [])

/-- Steps of the cores: combine buffers and held notes (R153, R267). -/
def autoCores (s : State) : List Auto :=
  (s.cores.flatMap fun c =>
    (c.2.cb.filter fun e => decide (e.first + 512 ≤ s.clock)).map fun e => execCombineBufferTimeout c.1 e.line) ++
  ((s.notes.filter fun n => n.2.stage == 3).map fun n => execNoteBufferRetry n.2.core)

/-- A chunk of a region can come (R250): of its own copy; or of a share, fetched here, or copied once its fetcher has it. -/
def chunkComes (s : State) (team : Nat) (t : Team) (b c : Nat) : Bool :=
  (t.region b).state != 3 || (match Tab.get? s.sliceSets (setKey t b) with
    | none => false
    | some z => match fetcherOf s z c with
      | none => false
      | some k => k == team || (match Tab.get? s.teams k with
        | some q => bitAt (q.region b).chunks c
        | none => false))

/-- Steps of the engines: matrix, Churn, window copies, collectives (R166, R174, R251, R211). -/
def autoJobs (s : State) : List Auto :=
  (s.mjobs.flatMap fun e =>
    match e.2.tile with
    | none => []
    | some t =>
      let core := coreOf e.2.gid
      match e.2.kind with
      | 1 => [execMmaJob core t]
      | 2 => [execMldaccJob core t]
      | 3 => [execMdrainqTurn core t]
      | 4 => [execMdrainJob core t]
      | 7 => [execMzeroTurn core t]
      | _ => [execTileStatusTurn core t]) ++
  (s.churns.flatMap fun e => autoChurn s e.1) ++
  (s.teams.flatMap fun t => t.2.regions.flatMap fun w =>
    if w.2.running then
      match (List.range w.2.chunkCount).find? fun k => !w.2.noChunk k && chunkComes s t.1 t.2 w.1 k with
      | some k => [execWindowChunkArrival t.1 w.1 k]
      | none => []
    else []) ++
  s.colls.map fun e => execCollectiveComplete e.1

/-- Steps of the Attendance units (R204, R259, R260). -/
def autoAttend (s : State) : List Auto :=
  s.chips.flatMap fun c =>
    if c.2.att.isEmpty then []
    else
      (if s.clock % 4096 < 2 then [execDeadlockProbe c.1] else []) ++
      (match c.2.scan with
        | some z => if z.confirmed then [execCycleDelivery c.1] else []
        | none => []) ++
      (c.2.att.filter fun e => e.2.st == 1 && (e.2.kind == 2 || e.2.kind == 3)).map fun e => execWaitReread c.1 e.1

/-- Steps of the front ends: the Journal, placement, invalidations, watchdogs (R276, R298, R361, R364). -/
def autoFes (s : State) : List Auto :=
  (s.fes.flatMap fun e =>
    (e.2.notDurable.map fun j => execJournalDurable e.1 j) ++
    (if e.2.tlbinvBusy then [execTlbinvComplete e.1] else []) ++
    (match nextLaunch s e.1 with
      | some (_, l) => if l.cohort = 0 then [execTeamPlacement e.1] else [execCohortPlacement e.1]
      | none => [])) ++
  (if s.mg.bootstat = 0 then [bootVerify] else []) ++
  (if clockMhz s < 2100 && coolLong s then [execClockRaise] else []) ++
  (s.launches.filter fun l => l.2.started && decide (l.2.moved + l.2.savedFor + 2 ^ 28 ≤ s.clock)).map fun l =>
    execWatchdogExpiry l.2.part l.2.jseq

/-- Steps of the Timetable and of Ednan's ports (R287, R357). -/
def autoFabric (s : State) : List Auto :=
  (if slotEnd s ≤ s.clock then (if s.tt.slot = 63 then [execTimetableRoundStart] else [execTimetableSlotStart]) else []) ++
  (s.ed.ports.filter fun p => !p.2.inq.isEmpty).map fun p => execCollectivePacketReceive p.1

/-- Steps of requests that have waited half of the 65,536 cc of R229 and R289: at a slice or a memory port that could serve them now; and of the
links, while a message at a source has waited so long. -/
def lateSteps (s : State) : List Auto :=
  let late (since : Nat) : Bool := decide (since + 32768 ≤ s.clock)
  (s.pairs.flatMap fun e =>
    let i := e.1 / 34
    let j := e.1 % 34
    match (openMsgs e.2.inbox).find? fun y => late y.2.1 && (reqOf y.2.2).isSome && mayServe s i (j - 16) y.2.1 y.2.2 with
    | some y => autoMsg s i j y.2.2
    | none => []) ++
  ((s.hlines.filter fun h => h.2.dram && late h.2.dramAt && (match dramFor h.2 with
      | some (part, cls, _, m) => budgetOk s (memPort (homeMc (h.1 * 128))) part cls && !dramOutranked s (homeMc (h.1 * 128)) h.1 m
      | none => true)).map fun h => execDramReadComplete (homeMc (h.1 * 128)) h.1 false) ++
  (if s.pairs.any fun e => (e.2.queue.any fun q => late q.1) || (e.2.part.any fun q => late q.1) then
    s.pairs.flatMap fun e =>
      if e.2.mode == 3 || (e.2.wire.any fun w => e.2.lost w.2) then [] else linkSteps (e.1 / 34) (e.1 % 34) e.2
  else [])

/-- Steps that R44, R62, R153, R201, R212, R222, R229, R287, R289, R306 and R364 do not let wait beyond their cycle: each makes itself undue. -/
def dueSteps (s : State) : List Auto :=
  (if slotEnd s ≤ s.clock then (if s.tt.slot = 63 then [execTimetableRoundStart] else [execTimetableSlotStart]) else []) ++
  (s.groups.flatMap fun e =>
    if e.2.live then
      (e.2.frags.flatMap fun f => match f.2.cond with
        | .parked why false since =>
          if s.clock % 16 = since % 16 && since < s.clock && awaitMet s e.1 e.2 why then [execWaitingTableRetest (coreOf e.1) (slotOf e.1) f.1]
          else []
        | .sleeping till => if till ≤ s.clock then [execSleepExpiry (coreOf e.1) (slotOf e.1) f.1] else []
        | .ready => if !inTable f.1 && max f.2.since f.2.spilled + 255 ≤ s.clock then [execSpillBringBack (coreOf e.1) (slotOf e.1) f.1] else []
        | _ => []) ++
      (match e.2.saveReq, e.2.grace with
        | some t, none => if t + 4096 ≤ s.clock then [execSaveGraceExpiry (coreOf e.1) (slotOf e.1)] else []
        | _, _ => [])
    else []) ++
  (s.cores.flatMap fun c =>
    (c.2.cb.filter fun e => decide (e.first + 512 ≤ s.clock) && !e.want).map fun e => execCombineBufferTimeout c.1 e.line) ++
  (s.chips.flatMap fun c => (c.2.att.filter fun e => e.2.st == 1 && (e.2.kind == 2 || e.2.kind == 3) && wordAway c e.2).map fun e =>
    execWaitReread c.1 e.1) ++
  ((s.cores.filter fun c => !c.2.bad.isEmpty && decide (c.2.swept / 2 ^ 20 < s.clock / 2 ^ 20)).map fun c => sweepCore c.1) ++
  ((s.launches.filter fun l => l.2.started && l.2.fin == 0 && decide (l.2.moved + l.2.savedFor + 2 ^ 28 ≤ s.clock) && (s.fe l.2.part).wdctl).map
    fun l => execWatchdogExpiry l.2.part l.2.jseq) ++
  lateSteps s
where
  /-- The host sector of a waiter's word is neither held nor asked for. -/
  wordAway (c : Nat × Chip) (e : AttEnt) : Bool := match e.place with
    | some (none, pa) => isHost pa && (let y := Tab.getD c.2.host (pa / 64) Sector.empty; y.st == 0 && !y.engs.contains e.uid)
    | _ => false

/-- Every step that the device can take of itself. -/
def autoSteps (s : State) : List Auto :=
  autoFabric s ++ autoPairs s ++ autoHomes s ++ autoOps s ++ autoGroups s ++ autoCores s ++ autoJobs s ++ autoAttend s ++ autoFes s

end Sys2Proof.Machine
end

