-- ==== Sys2Proof/Machine/Plan.lean ====
section
/-! DEFINITION. What a step does: the action taken (R38, R228; log 2), the instruction fetched for it, and what stands before
an instruction's own effect. -/

namespace Sys2Proof.Machine

/-- What a step comes to: an instruction or agenda event to execute, a step of the device that the model raises itself, or
a state already reached. -/
inductive Plan where
  | run (i : Instr) (s : State)
  | raised (o : Host.Outcome State Fault Refusal)
  | done (s : State)

/-- w of R228: cycles since the fragment last issued or became ready. -/
def waitOf (s : State) (f : Frag) : Nat := s.clock - f.since

/-- sp of R228. -/
def spOf (s : State) (g : Group) (f : Frag) : Nat := min 15 (g.eprio + waitOf s f / 256)

/-- A group may issue: it lives, no save of it has begun, and it is not stopped at a fault event (R149, R218, R300, R306). -/
def mayIssue (s : State) (gid : Nat) (g : Group) : Bool :=
  g.live && !g.killed && g.grace.isNone && (groupStop s gid g.uid).isNone

/-- A fragment may be chosen (R215, R228). -/
def frag_ready (g : Group) (fi : Nat) (f : Frag) : Bool :=
  inTable fi && f.cond == .ready && (match g.hmode with | some h => h == fi | none => true)

/-- The fragment's next instruction is of the VEC class (R26, R73). -/
def vectorNext (f : Frag) : Bool :=
  f.idx != 0 && (match (f.words.drop (f.idx - 1)).head? with
    | some w => majorClass (bitAt w.toNat 30) (majorOf w).toNat == some 0
    | none => false)

/-- The next instruction must wait for the sub-core's vector datapath (R39). -/
def datapathBusy (s : State) (gid : Nat) (g : Group) (f : Frag) : Bool :=
  vectorNext f && decide (s.clock < Tab.getD (s.core (coreOf gid)).busy g.subcore 0)

/-- A fragment that may be chosen (R228): its group and index, sp, w, whether it loses its ties, whether it has its clause still to enter,
which takes no issue slot (R38), and the sub-core, by core × 8 + sub-core. -/
structure Cand where
  gid : Nat
  fi : Nat
  sp : Nat
  w : Nat
  late : Bool
  enters : Bool
  sub : Nat
  deriving DecidableEq, Repr

/-- A sub-core of the device by one number. -/
def subKey (gid : Nat) (g : Group) : Nat := coreOf gid * 8 + g.subcore

/-- The fragments that may be chosen. -/
def candidates (s : State) : List Cand :=
  s.groups.flatMap fun e =>
    if mayIssue s e.1 e.2 then
      (e.2.frags.filter fun y => frag_ready e.2 y.1 y.2 && !datapathBusy s e.1 e.2 y.2).map fun y =>
        { gid := e.1, fi := y.1, sp := spOf s e.2 y.2, w := waitOf s y.2, late := y.2.yielded, enters := y.2.idx == 0, sub := subKey e.1 e.2 }
    else []

/-- Candidate `c` ranks before `d`, which stands before it in the order of slots and indices (R228): higher sp, then larger w; at equal
ones a fragment that has yielded loses, and otherwise `d`, of the lower slot or index, stays before. -/
def Cand.over (c d : Cand) : Bool :=
  decide (d.sp < c.sp) || (c.sp == d.sp && (decide (d.w < c.w) || (c.w == d.w && d.late && !c.late)))

/-- The first in rank of some candidates. -/
def firstRank (l : List Cand) : Option Cand :=
  l.foldl (fun b c => match b with
    | none => some c
    | some d => if c.over d then some c else some d) none

/-- The fragment of the device that ranks first: by default it goes next (log 2). -/
def bestFrag (s : State) : Option (Nat × Nat) := (firstRank (candidates s)).map fun c => (c.gid, c.fi)

/-- The fragment that ranks first on a sub-core (R228). -/
def foremost (s : State) (gid : Nat) (g : Group) : Option (Nat × Nat) :=
  (firstRank ((candidates s).filter fun c => c.sub == subKey gid g)).map fun c => (c.gid, c.fi)

/-- The fragment that its sub-core's rank selects for the issue slot of this cycle (R38, R228): one that has its clause still to enter,
which takes no issue slot, enters it first. -/
def selected (s : State) (gid : Nat) (g : Group) : Option (Nat × Nat) :=
  if Tab.get? (s.core (coreOf gid)).last g.subcore = some s.clock then none else foremost s gid g

/-- A sub-core selects a fragment: it uses its issue slot of this cycle, and the ready fragments that had yielded have had their next
selection (R38, R228). -/
def select (s : State) (gid fi : Nat) (g : Group) : State :=
  let s1 := s.modCore (coreOf gid) fun c => { c with last := Tab.set c.last g.subcore s.clock }
  { s1 with
    cur := some (gid, fi)
    groups := if s1.groups.any fun e => subKey e.1 e.2 == subKey gid g && e.2.frags.any fun f => f.2.yielded then
        s1.groups.map fun (e : Nat × Group) =>
          if subKey e.1 e.2 = subKey gid g then
            (e.1, { e.2 with split := e.2.split.map fun (y : Nat × SplitEntry) => match y.2 with
              | .frag f => (y.1, .frag (if f.cond = .ready then { f with yielded := false } else f))
              | .region r => (y.1, .region r) })
          else e
      else s1.groups }

/-- The step of one fragment: it enters its clause; or it issues its instruction, if its sub-core selects it. -/
def planIssue (s : State) (gid fi : Nat) : Plan :=
  match Tab.get? s.groups gid with
  | none => .done s
  | some g => match g.frag? fi with
    | none => .done s
    | some f =>
      if !mayIssue s gid g || !frag_ready g fi f || datapathBusy s gid g f then .done s
      else if f.idx = 0 then .raised (execEnterClause (coreOf gid) (slotOf gid) fi { s with cur := some (gid, fi) })
      else if selected s gid g ≠ some (gid, fi) then .done s
      else
        let s1 := select s gid fi g
        match instrAt f with
        | .ok i => .run i s1
        | .error .wrongClass => .done (takeTrap s1 { gid := gid, fi := fi, g := g, f := f } 0x03 0 0)
        | .error .overrun => .done (takeTrap s1 { gid := gid, fi := fi, g := g, f := f } 0x04 0 0)
        | .error _ => .raised (execUnlistedOpcode (f.words.drop (f.idx - 1)) s1)

/-- The next instruction of a Proctor's invocation (R333, R338), or its next invocation. -/
def planProctor (s : State) (port : Nat) : Plan :=
  let s1 := { s with curPr := some port }
  match s1.prIssuer with
  | none => .raised (execProctorInvocation port s1)
  | some x => match (x.att.code[x.run.pc]?).bind decodePr with
    | some i => .run i s1
    | none => .done s1

/-- A register word meets an error (R61): one wrong bit, or two. -/
def softError (s : State) (core row lane : Nat) (double : Bool) : State :=
  if row < 6144 + 128 * 384 && lane < 64 then s.modCore core fun c => { c with bad := Tab.set c.bad (badKey row lane) double } else s

/-- The Proctors' steps. -/
def proctorPlans (s : State) : List (State → Plan) :=
  (s.proctors.filter fun p => p.2.run.isSome || p.2.cur.isSome || !p.2.fifo.isEmpty).map fun p => fun t => planProctor t p.1

/-- A step that the device takes of itself, each in its turn. -/
def autoPlan (s : State) : Option Plan :=
  let l : List (State → Plan) := (autoSteps s).map (fun a => fun t => .raised (a t)) ++ proctorPlans s
  (l[s.clock / 2 % max 1 l.length]?).map fun p => p s

/-- The step of the fragment that ranks first (R228). -/
def fragPlan (s : State) : Option Plan := (bestFrag s).map fun b => planIssue s b.1 b.2

/-- A step that the agenda may name as an event: one of the device or the host. An instruction word that is not listed reaches issue
only by way of a fragment. -/
def eventOk (i : Instr) : Bool :=
  match i with
  | .unlistedOpcode _ => false
  | j => j.enc.isNone

/-- A fragment whose wait comes near the issue bound (R229): one that its sub-core selects, or one that ranks first there and enters its
clause, which takes no time (R38). -/
def dueFrag (s : State) : Option Cand :=
  firstRank ((candidates s).filter fun c => decide (3840 ≤ c.w) && (match Tab.get? s.groups c.gid with
    | some g => (if c.enters then foremost s c.gid g else selected s c.gid g) == some (c.gid, c.fi)
    | none => false))

/-- A WBIND has taken effect in this cycle: what it changes is found by touches of later cycles (R270). -/
def boundNow (s : State) : Bool := s.teams.any fun t => t.2.regions.any fun w => w.2.state != 0 && w.2.bound == s.clock

/-- What must happen in this cycle, before anything else does (log 2): a step of the device whose time has come, or a fragment near its
issue bound (R229). -/
def duePlan (s : State) : Option Plan :=
  match (dueSteps s).head? with
  | some a => some (.raised (a s))
  | none => (dueFrag s).map fun c => planIssue (if boundNow s && !c.enters then tick s 1 else s) c.gid c.fi

/-- The step that the agenda names next; by default a fragment and the device take turns, and time passes where neither can go on
(log 2). -/
def planNext (s : State) : Plan :=
  match s.agenda with
  | .wait 0 :: r => .done { s with agenda := r }
  | .wait (n + 1) :: r => .done (tick { s with agenda := .wait n :: r } 1)
  | .event i :: r => if eventOk i then .run i (tick { s with agenda := r, cur := none } 1) else .done { s with agenda := r }
  | .issue core slot frag :: r => planIssue (tick { s with agenda := r } 1) (core * 128 + slot) frag
  | .proctor port :: r => planProctor (tick { s with agenda := r } 1) port
  | .softError core row lane double :: r => .done (softError { s with agenda := r } core row lane double)
  | [] =>
    let s1 := tick s 1
    let a := if s1.clock % 2 = 0 then (fragPlan s1, autoPlan s1) else (autoPlan s1, fragPlan s1)
    match a with
    | (some p, _) => p
    | (none, some p) => p
    | (none, none) => .done s1

/-- What a step does: what is due in this cycle, else what comes next. -/
def plan (s : State) : Plan := (duePlan s).getD (planNext s)

end Sys2Proof.Machine
end

