-- ==== Sys2Proof/Machine/Step.lean ====
section
/-! DEFINITION. One step of the device, and the placing of an instruction where the next step takes it. -/

namespace Sys2Proof.Machine

/-- What follows an action in the same cycle, by what it has made of the state. -/
def after (h : State → State) : Host.Outcome State Fault Refusal → Host.Outcome State Fault Refusal
  | .next u => .next (h u)
  | .fault r => .fault r
  | .refused r => .refused r

/-- One step (log 2): what `plan` chooses is executed, and what follows from it in the same cycle is done. -/
def step (s : State) : Host.Outcome State Fault Refusal :=
  match plan s with
  | .done t => .next (closeStep s t)
  | .run i t => after (closeRun i t) (exec i t)
  | .raised o => after (closeStep s) o

/-- The state with the instruction of these bits placed where the next step executes it: in the clause of a group's only
fragment, or in a Proctor's program if the decoder reads a Proctor instruction (log 22). -/
def State.withFetchWord (s : State) (nbits w : Nat) : State := placeWord s nbits w

end Sys2Proof.Machine
end

