-- ==== Sys2Proof/Safety.lean ====
section
/-! DEFINITION. What counts as a safe run, and the words that the statements use: when an instruction passes its checks, what
an instruction on registers may touch, what a result is. -/

namespace Sys2Proof

open Sys2Proof.Machine

/-- What a step answers. -/
abbrev Answer := Host.Outcome State Fault Refusal

/-- The outcome is a next state. -/
def isNext (o : Answer) : Bool :=
  match o with
  | .next _ => true
  | .fault _ => false
  | .refused _ => false

/-- Every one of the next `n` steps answers a next state. -/
def safeFor : Nat → State → Bool
  | 0, _ => true
  | n + 1, s =>
    match step s with
    | .next t => safeFor n t
    | .fault _ => false
    | .refused _ => false

/-! ### Passing the checks -/

/-- The fragment of `x` issues in `s` and its instruction passes every check of R75 up to the operands' (R60): `ok` are the checks
of step 4, `u` is what the operands ask. -/
def Ready (s : State) (x : Ctx) (ok : Bool) (u : Use) : Prop :=
  s.issuer = some x ∧ ok = true ∧ operandGate s x u = .go

/-! ### What an instruction leaves alone -/

/-- Nothing of the device differs but the group itself, its core's datapath times, check bits of register words and L1 (all of it
kept or emptied), and what a Proctor tap leaves: FIFOs and drop counts. Memory, homes, every special register and
every other group are as before. -/
structure RegistersOnly (gid : Nat) (s t : State) : Prop where
  rest : t = { s with groups := t.groups, cores := t.cores, proctors := t.proctors, fes := t.fes }
  others : ∀ k, k ≠ gid → Tab.get? t.groups k = Tab.get? s.groups k
  cores : ∀ c, t.core c = { s.core c with busy := (t.core c).busy, bad := (t.core c).bad, l1 := (t.core c).l1 }
  l1 : ∀ c, (t.core c).l1 = (s.core c).l1 ∨ (t.core c).l1 = []
  fes : ∀ n, t.fe n = { s.fe n with prdrop := (t.fe n).prdrop }
  taps : ∀ p, t.proctor p = { s.proctor p with fifo := (t.proctor p).fifo }

/-- The address is the reconvergence point of the region the issuing fragment is in (R223). -/
def MeetsRpc (x : Ctx) (pc : Nat) : Prop :=
  ∃ id ri r, x.f.region = some id ∧ x.g.region? id = some (ri, r) ∧ r.rpc = pc

/-- The group keeps every register whose key `u` does not write, every note state of a register that `u` neither reads nor
writes, every queue that `u` does not read, and everything else but its split table (and the counts of regions and fragments named), sticky flags,
state and handler mode. -/
def GroupKeeps (x : Ctx) (t : State) (u : Use) : Prop :=
  ∃ g, Tab.get? t.groups x.gid = some g ∧
    (∀ n, keyV n ∉ u.wr → g.vrow n = x.g.vrow n) ∧
    (∀ n, keyS n ∉ u.wr → g.sreg n = x.g.sreg n) ∧
    (∀ k, k ∉ u.rd → k ∉ u.wr → Tab.get? g.note k = Tab.get? x.g.note k) ∧
    (∀ q, q ∉ u.qs → nth g.queues q [] = nth x.g.queues q []) ∧
    g = { x.g with v := g.v, s := g.s, note := g.note, queues := g.queues, split := g.split, sticky := g.sticky,
                   state := g.state, hmode := g.hmode, nextRegion := g.nextRegion, nextFrag := g.nextFrag }

/-- Where the issuing fragment stays in its clause, or the fall-through is not the reconvergence point of its region: it goes
on at the next instruction or at the fall-through (R27), with these SCC, CARRY and EXEC, its latches but the one that HOLD
names (R41), its members and its place in the divergence as before; no other entry of the split table changes. -/
def GoesOn (x : Ctx) (t : State) (len hold : Nat) (scc carry : Bool) (exec : LaneMask) : Prop :=
  x.f.isLast len = false ∨ ¬ MeetsRpc x x.f.fallThrough →
  ∃ g f, Tab.get? t.groups x.gid = some g ∧ g.frag? x.fi = some f ∧
    f.scc = scc ∧ f.carry = carry ∧ f.exec = exec ∧ f.cond = .ready ∧ f.count = x.f.count + 1 ∧
    f.members = x.f.members ∧ f.depth = x.f.depth ∧ f.region = x.f.region ∧
    (x.f.isLast len = true → f.pc = x.f.fallThrough ∧ f.idx = 0) ∧
    (x.f.isLast len = false → f.pc = x.f.pc ∧ f.idx = x.f.idx + len) ∧
    (∀ n, n + 1 ≠ hold → Tab.get? f.latches n = Tab.get? x.f.latches n) ∧
    (∀ k, k ≠ x.fi → Tab.get? g.split k = Tab.get? x.g.split k) ∧ g.hmode = x.g.hmode

/-- Where a waiting instruction with SP has ended, a safe point is reached: no operand latch of the group is left (R41). -/
def afterSp (x : Ctx) (sp : Bool) : Ctx := if sp then { x with g := x.g.dropLatches, f := { x.f with latches := [] } } else x

/-- The sticky flags of the group (R51). -/
def StickyIs (x : Ctx) (t : State) (v : Nat) : Prop := ∃ g, Tab.get? t.groups x.gid = some g ∧ g.sticky = v

/-! ### Results -/

/-- A lane of a V register, or of a pair. -/
def vval (g : Group) (wide : Bool) (n l : Nat) : Nat :=
  if wide then (pairOf (g.vlane n l) (g.vlane (n + 1) l)).toNat else (g.vlane n l).toNat

/-- An S register, or a pair. -/
def sval (g : Group) (wide : Bool) (n : Nat) : Nat := if wide then (g.spair n).toNat else (g.sreg n).toNat

/-- Bits of a register or pair. -/
def bitsOf (wide : Bool) : Nat := if wide then 64 else 32

/-- A vector destination holds `r l` in every lane of `m`, and its other lanes are as before (R113). -/
def LanesAre (x : Ctx) (t : State) (d : Sel) (wide : Bool) (m : LaneMask) (r : Nat → Nat) : Prop :=
  ∀ n, d = .v n → ∃ g, Tab.get? t.groups x.gid = some g ∧ ∀ l, l < 64 →
    vval g wide n l = if inMask m l then r l % 2 ^ bitsOf wide else vval x.g wide n l

/-- What a vector instruction answers (R113): its lanes, its sticky flags by OR over the active lanes, and nothing else. -/
def VecStep (s : State) (x : Ctx) (i : AluI) (os : Opnds) (wide : Bool) (r : Nat → Nat) (st : Nat → Nat) (o : Answer) : Prop :=
  ∃ t, o = .next t ∧ LanesAre x t i.d wide x.f.exec r ∧ RegistersOnly x.gid s t ∧ GroupKeeps x t (usesOf i os) ∧
    StickyIs x t (x.g.sticky ||| stickyOf x.f.exec st) ∧ GoesOn x t i.len i.hold x.f.scc x.f.carry x.f.exec

/-- A uniform destination holds a value (R46, R130): an S register or pair. -/
def UniIs (x : Ctx) (t : State) (d : Sel) (wide : Bool) (r : Nat) : Prop :=
  ∀ n, d = .s n → ∃ g, Tab.get? t.groups x.gid = some g ∧ sval g wide n = r % 2 ^ bitsOf wide

/-- What a uniform instruction answers (R130, R133), when its entry sets the sticky bits `st`, SCC to `scc` and CARRY to `carry`:
the destination is written last, FLAGS taking the low byte and EXEC the value AND the members (R50, R51). -/
def UniStep (s : State) (x : Ctx) (i : AluI) (os : Opnds) (wide : Bool) (r st : Nat) (scc carry : Bool) (o : Answer) : Prop :=
  ∃ t, o = .next t ∧ UniIs x t i.d wide r ∧ RegistersOnly x.gid s t ∧ GroupKeeps x t (usesOf i os) ∧
    StickyIs x t (if i.d = .flags then r % 256 - r % 4 else x.g.sticky ||| st) ∧
    GoesOn x t i.len i.hold (if i.d = .flags then bitAt r 0 else scc) (if i.d = .flags then bitAt r 1 else carry)
      (if i.d = .exec then BitVec.ofNat 64 r &&& x.f.members else x.f.exec)

/-! ### One instruction's clause -/

/-- Step 4 of R75 passes: no must-be-zero field is non-zero and no field holds a reserved code. -/
def fieldsOk (i : Instr) : Bool :=
  match i.enc with
  | some e => e.fieldsOk
  | none => false

/-- Instruction `i`, whose operands are `os` in the fields of `v`, passes its checks (R60, R75) when fragment `x` issues it in `s`. -/
def Issues (s : State) (x : Ctx) (i : Instr) (v : AluI) (os : Opnds) : Prop := Ready s x (fieldsOk i) (usesOf v os)

/-- A vector instruction that passes its checks completes with lane `l` of its destination holding `r` of the operand values (R113). -/
def VecDoes (s : State) (x : Ctx) (i : Instr) (v : AluI) (os : Opnds) (wide : Bool) (r st : (Fld → Nat) → Nat → Nat) : Prop :=
  Issues s x i v os →
    VecStep s x v os wide (fun l => r (fun fld => opVal s x v os fld l) l) (fun l => st (fun fld => opVal s x v os fld l) l)
      (exec i s)

/-- No sticky flag. -/
def quiet (_ : Fld → Nat) (_ : Nat) : Nat := 0

/-- A uniform instruction that passes its checks completes with its destination holding `r` of the operand values, with the sticky
bits `st` and the SCC and CARRY that its entry gives (R130, R133). -/
def UniDoes (s : State) (x : Ctx) (i : Instr) (v : AluI) (os : Opnds) (wide : Bool) (r st : (Fld → Nat) → Nat)
    (scc carry : (Fld → Nat) → Bool) : Prop :=
  Issues s x i v os →
    UniStep s x v os wide (r fun fld => opVal s x v os fld 0) (st fun fld => opVal s x v os fld 0)
      (scc fun fld => opVal s x v os fld 0) (carry fun fld => opVal s x v os fld 0) (exec i s)

/-- The integer type of a VINT or UALU word: MOD[4:3] (R72). -/
def ityOf (f : Lg) : OpTy := intTy (f.mod.toNat / 8)

/-- Its SAT modifier: MOD[2] (R72). -/
def satOf (f : Lg) : Bool := bitAt f.mod.toNat 2

/-- D of a type, A and B of a type and C of a type. -/
def dabc (d a b c : OpTy) : Opnds := [(.d, .dstV d false), (.a, .src a), (.b, .src b), (.c, .src c)]

/-- D of a type, A and B of a type. -/
def dab (d a b : OpTy) : Opnds := [(.d, .dstV d false), (.a, .src a), (.b, .src b)]

/-- D of a type, A of a type. -/
def da (d a : OpTy) : Opnds := [(.d, .dstV d false), (.a, .src a)]

/-- A vector instruction whose result and sticky bits come together. -/
def FltDoes (s : State) (x : Ctx) (i : Instr) (v : AluI) (os : Opnds) (wide : Bool) (lane : (Fld → Nat) → Nat → Nat × Nat) : Prop :=
  VecDoes s x i v os wide (fun o l => (lane o l).1) (fun o l => (lane o l).2)

/-- The float type of a VFLT, VXFN or SF word: MOD[4:3] (R72). -/
def ftyOf (f : Lg) : OpTy := fltTy (f.mod.toNat / 8)

/-- Its rounding mode: MOD[2:1] (R72). -/
def frmOf (f : Lg) : Rm := rmOf (f.mod.toNat / 2)

/-- Its CLAMP modifier: MOD[0] (R72). -/
def clampOf (f : Lg) : Bool := bitAt f.mod.toNat 0

/-- The magnitude m × 2^e of a finite value (R88). -/
def magnitude (m : Nat) (e : Int) : Rat := (m : Rat) * (2 : Rat) ^ e

/-- The signed value (-1)^neg × m × 2^e. -/
def signedValue (neg : Bool) (m : Nat) (e : Int) : Rat := if neg then -magnitude m e else magnitude m e

/-- The pattern and the sticky bits `r` are the exact value (-1)^neg × v, v > 0, rounded once to the format (R89, R92). Unless OF is set, the
pattern is a finite value of that sign; NX is set exactly when it differs from the exact value; under RNE no value of the format is nearer, and of two
that are as near it is the one whose last bit is 0; under the other modes it is the neighbour on the mode's side. OF is set for every value of
2^(emax+1) and above, and for none up to the largest finite one; the result is then an infinity or the largest finite value, with NX. -/
def RoundedOnce (t : FpFmt) (rm : Rm) (neg : Bool) (v : ℝ) (r : Nat × Nat) : Prop :=
  let sg : ℝ := if neg then -1 else 1
  (r.2 &&& fOF = 0 →
    ∃ n k, unpack t r.1 = .fin neg n k ∧ (r.2 &&& fNX = 0 ↔ (magnitude n k : ℝ) = v) ∧
      ∀ y ny ky, y < 2 ^ t.width → unpack t y = .fin neg ny ky →
        let z : ℝ := magnitude n k
        let w : ℝ := magnitude ny ky
        match rm with
        | .rne => |z - v| ≤ |w - v| ∧ (|z - v| = |w - v| → z ≠ w → n % 2 = 0)
        | .rtz => z ≤ v ∧ (w ≤ v → w ≤ z)
        | .rup => sg * v ≤ sg * z ∧ (sg * v ≤ sg * w → sg * z ≤ sg * w)
        | .rdn => sg * z ≤ sg * v ∧ (sg * w ≤ sg * v → sg * w ≤ sg * z)) ∧
  (r.2 &&& fOF ≠ 0 → (magnitude (2 ^ (t.mb + 1) - 1) ((t.bias : Int) - t.mb) : ℝ) < v ∧ r.2 = fOF + fNX ∧
    r.1 = (if neg then t.signW else 0) +
      (if rm = .rne ∨ (rm = .rup ∧ neg = false) ∨ (rm = .rdn ∧ neg = true) then t.infBits else t.infBits - 1)) ∧
  ((2 : ℝ) ^ (t.bias + 1) ≤ v → r.2 &&& fOF ≠ 0)

/-- `r` is the exact value `v` rounded once; where that is zero, it is the zero of sign `zero` and no sticky bit is set (R89). -/
def IsRounded (t : FpFmt) (rm : Rm) (v : Rat) (zero : Bool) (r : Nat × Nat) : Prop :=
  (v = 0 → r = ((if zero then t.signW else 0), 0)) ∧ (0 < v → RoundedOnce t rm false v r) ∧ (v < 0 → RoundedOnce t rm true ((-v : Rat) : ℝ) r)

/-- The integer that a value is rounded to in a mode (R108). -/
def RoundedInt (rm : Rm) (v : Rat) (k : Int) : Prop :=
  match rm with
  | .rne => |v - k| ≤ 1 / 2 ∧ (|v - k| = 1 / 2 → k % 2 = 0)
  | .rtz => (0 ≤ v → (k : Rat) ≤ v ∧ v < k + 1) ∧ (v < 0 → v ≤ k ∧ (k : Rat) - 1 < v)
  | .rup => v ≤ k ∧ (k : Rat) - 1 < v
  | .rdn => (k : Rat) ≤ v ∧ v < k + 1

/-- The table T of R94. -/
def lgTable : List Nat := [65536, 71468, 77936, 84990, 92682, 101070, 110218, 120194]

/-- The table-based magnitude of the code with magnitude code `k`; zero for code 0 (R93, R94). -/
def lgValue (six : Bool) (k : Nat) : Rat :=
  if k = 0 then 0
  else if six then magnitude (nth lgTable (2 * (k % 4)) 0) ((k / 4 : Nat) - 20 : Int) else magnitude (nth lgTable (k % 8) 0) ((k / 8 : Nat) - 24 : Int)

/-- The pattern `p` lies within `n` units in the last place of the value v, whose unit is that of v's binade and at least the smallest subnormal
(R127); an infinity stands for 2^(emax+1) or anything above. -/
def WithinUlps (t : FpFmt) (n : Nat) (v : ℝ) (p : Nat) : Prop :=
  ∀ k : Int, (2 : ℝ) ^ k ≤ |v| → |v| < (2 : ℝ) ^ (k + 1) →
    let u : ℝ := (2 : ℝ) ^ (max k t.emin - t.mb)
    match unpack t p with
    | .fin neg m e => |(signedValue neg m e : ℝ) - v| ≤ n * u
    | .inf neg => (neg = true ↔ v < 0) ∧ (2 : ℝ) ^ (t.bias + 1) - n * u ≤ |v|
    | .nan _ => False

/-- A uniform result written to an S register, an S pair or NULL by a lane instruction or a compare (R135): it holds `r` where EXEC is
not zero; nothing is written where it is. -/
def LaneUniStep (s : State) (x : Ctx) (v : AluI) (os : Opnds) (wide : Bool) (r st : Nat) (o : Answer) : Prop :=
  ∃ t, o = .next t ∧ (x.f.exec ≠ 0 → UniIs x t v.d wide r) ∧ RegistersOnly x.gid s t ∧
    GroupKeeps x t (if x.f.exec = 0 then { usesOf v os with wr := [] } else usesOf v os) ∧
    StickyIs x t (x.g.sticky ||| st) ∧ GoesOn x t v.len v.hold x.f.scc x.f.carry x.f.exec

/-! ### Control -/

/-- A control instruction passes its checks (R60, R75): a branch stands last in its clause, and its operand asks `u`. -/
def CtlReady (s : State) (x : Ctx) (i : Instr) (len : Nat) (branch : Bool) (u : Use) : Prop :=
  Ready s x (fieldsOk i) u ∧ (branch = true → x.f.isLast len = true)

/-- The fragment of `x` stands at the clause header `pc`, if that is not the reconvergence point of its region, and nothing else of
it changes; no other entry of the split table changes (R190). -/
def BranchesTo (x : Ctx) (t : State) (pc : Nat) : Prop :=
  ¬ MeetsRpc x pc →
  ∃ g f, Tab.get? t.groups x.gid = some g ∧ g.frag? x.fi = some f ∧ f.pc = pc ∧ f.idx = 0 ∧ f.words = [] ∧
    f.scc = x.f.scc ∧ f.carry = x.f.carry ∧ f.exec = x.f.exec ∧ f.members = x.f.members ∧ f.cond = .ready ∧
    f.depth = x.f.depth ∧ f.region = x.f.region ∧ f.latches = x.f.latches ∧
    (∀ k, k ≠ x.fi → Tab.get? g.split k = Tab.get? x.g.split k) ∧ g.hmode = x.g.hmode

/-- What a branch answers: it goes to `pc`, having used `u`, and changes nothing else. -/
def BranchStep (s : State) (x : Ctx) (u : Use) (pc : Nat) (o : Answer) : Prop :=
  ∃ t, o = .next t ∧ BranchesTo x t pc ∧ RegistersOnly x.gid s t ∧ GroupKeeps x t u ∧ StickyIs x t x.g.sticky

/-- pc0 + 4 × the offset, modulo 2^64 (R27). -/
def branchTarget (x : Ctx) (off : Int) : Nat := (((x.f.pc + 4 * x.f.idx : Nat) + 4 * off : Int) % (2 ^ 64 : Nat)).toNat

/-- A program trap is taken (R215, R216): with a handler and not in one, the fragment enters it with EXEC kept, the record of R216 lies
in S368 to S383, the trap is counted and the fragment is in handler mode; otherwise the group is killed with the code. `tpc` is
the trapping address, `rpc` and `ridx` the place to resume at. -/
def TrapTaken (x : Ctx) (t : State) (tpc rpc ridx code info0 info1 : Nat) (scc : Bool) (iw : List Word) : Prop :=
  (x.g.trapVa ≠ 0 → x.g.hmode = none →
    ∃ g f, Tab.get? t.groups x.gid = some g ∧ g.frag? x.fi = some f ∧
      f.pc = x.g.trapVa ∧ f.idx = 0 ∧ f.exec = x.f.exec ∧ f.members = x.f.members ∧ f.cond = .ready ∧
      g.hmode = some x.fi ∧ g.trapcnt = x.g.trapcnt + 1 ∧ g.sticky = x.g.sticky ∧
      (g.spair 368).toNat = tpc % 2 ^ 64 ∧ (g.spair 370).toNat = rpc % 2 ^ 64 ∧
      g.sreg 372 = BitVec.ofNat 32 (ridx % 16 + code * 16) ∧ g.sreg 373 = 0 ∧ g.spair 374 = x.f.exec ∧
      (g.spair 376).toNat = info0 % 2 ^ 64 ∧ (g.spair 378).toNat = info1 % 2 ^ 64 ∧
      g.sreg 380 = nth iw 0 0 ∧ g.sreg 381 = nth iw 1 0 ∧ g.sreg 382 = nth iw 2 0 ∧
      g.sreg 383 = BitVec.ofNat 32 ((if scc then 1 else 0) + (if x.f.carry then 2 else 0)) ∧
      (∀ n, g.vrow n = x.g.vrow n) ∧ (∀ n, n < 368 → g.sreg n = x.g.sreg n) ∧
      (∀ k, k ≠ x.fi → Tab.get? g.split k = Tab.get? x.g.split k)) ∧
  (x.g.trapVa = 0 ∨ x.g.hmode ≠ none →
    ∃ g, Tab.get? t.groups x.gid = some g ∧ g.killed = true ∧ g.trapKill = some code ∧ g.v = x.g.v ∧ g.s = x.g.s)

/-! ### Operations -/

/-- A memory instruction issues (R31, R60, R75, R146, R149, R150, R264, R307): its checks pass, EXEC is not zero where it is a vector
instruction, its addresses are aligned where they must be, no object with waiters is written, its flag has room, every earlier
memory instruction of the group is translated, and no buffer or link holds it back. -/
def MemReady (s : State) (x : Ctx) (i : MemIssue) (kind : AccKind) : Prop :=
  s.issuer = some x ∧ i.ok = true ∧ operandGate s x i.use = .go ∧ (i.vector = true → x.f.exec ≠ 0) ∧
  (∀ n, i.align = some n → ∀ a ∈ i.addrs, a.2 % n = 0) ∧ objectWaits s x i kind = none ∧
  objectHit s x i kind = none ∧ flagFull x.g i.flag = none ∧
  allTranslated s x.g.uid = true ∧ (i.replay = true → replayable s x.g.uid < 16) ∧
  linkCause s x.g.uid = none

/-- Every form of the memory instructions of classes MGLB, MSCR and MATM on a load or store and an atomic encoding: the instruction, its issue
record, and how it accesses memory. -/
def memForms (s : State) (x : Ctx) (f : Lm) (q : La) : List (Instr × MemIssue × AccKind) :=
  [(.gld f, lmIssue 0x10 0 false false f x, .load), (.gst f, lmIssue 0x10 1 false true f x, .store),
   (.uld f, lmIssue 0x10 2 true false f x, .load), (.ust f, lmIssue 0x10 3 true true f x, .store), (.cpf f, cpfIssue f x, .load),
   (.sld f, padIssue s 0 false false f x, .load), (.sst f, padIssue s 1 false true f x, .load),
   (.xld f, padIssue s 2 true false f x, .load), (.xst f, padIssue s 3 true true f x, .load),
   (.gatom q, laIssue 0 false true q x, .atomic), (.uatom q, laIssue 3 true true q x, .atomic),
   (.satom q, padAtomIssue s 1 false q x, .load), (.xatom q, padAtomIssue s 2 true q x, .load)]

/-- The issuing fragment parks with a reason of the given form, and nothing else of its group changes. -/
def ParksFor (x : Ctx) (t : State) (p : Await → Prop) : Prop :=
  ∃ g h w b c, Tab.get? t.groups x.gid = some g ∧ g.v = x.g.v ∧ g.s = x.g.s ∧ g.fcnt = x.g.fcnt ∧ g.pend = x.g.pend ∧
    g.sticky = x.g.sticky ∧ g.trapcnt = x.g.trapcnt ∧ g.frag? x.fi = some h ∧ h = { x.f with cond := .parked w b c } ∧ p w

/-- Registers, sticky flags, trap state and note failures of the issuing group are as before; a completion flag, if there is one, counts
one more operation (R30). -/
def GroupCounts (x : Ctx) (t : State) (flag : Option Nat) : Prop :=
  ∃ g, Tab.get? t.groups x.gid = some g ∧ g.v = x.g.v ∧ g.s = x.g.s ∧ g.sticky = x.g.sticky ∧ g.trapcnt = x.g.trapcnt ∧
    g.nfail = x.g.nfail ∧ g.fcnt = (match flag with | some n => updNth x.g.fcnt n (· + 1) | none => x.g.fcnt)

/-- Accesses as the instruction makes them: lane, address, bytes, place in the lane's data, data to store. -/
def accessesOf (l : List Acc) : List (Nat × Nat × Nat × Nat × List Byte) := l.map fun a => (a.lane, a.va, a.n, a.off, a.data)

/-- What issue of a memory operation leaves (R30, R42, R151): an outstanding operation with these accesses, lanes and operands; its
destinations pending for it and no other register; its flag counted; every register and every other group as before. -/
def OpIssued (s : State) (x : Ctx) (t : State) (len : Nat) (o : Op) (pend : List Nat) : Prop :=
  GroupCounts x t o.flag ∧ GoesOn x t len 0 x.f.scc x.f.carry x.f.exec ∧
  (∀ k, k ≠ x.gid → Tab.get? t.groups k = Tab.get? s.groups k) ∧
  ∃ g p, Tab.get? t.groups x.gid = some g ∧ (∀ k ∈ pend, Tab.get? g.pend k = some s.nextOp) ∧
    (∀ k, k ∉ pend → Tab.get? g.pend k = Tab.get? x.g.pend k) ∧ Tab.get? t.ops s.nextOp = some p ∧
    p.kind = o.kind ∧ p.gid = x.gid ∧ p.uid = x.g.uid ∧ p.frag = x.f.id ∧ p.part = x.g.part ∧ p.flag = o.flag ∧ p.dest = o.dest ∧
    p.lanes = x.f.exec ∧ p.uni = o.uni ∧ p.size = o.size ∧ p.sx = o.sx ∧ p.order = o.order ∧ p.scope = o.scope ∧ p.aop = o.aop ∧
    p.ty = o.ty ∧ p.data = o.data ∧ p.cmp = o.cmp ∧ accessesOf p.acc = accessesOf o.acc

/-- The accesses of an LM instruction to global memory (R144, R146): each lane's bytes, whole where aligned and byte by byte where not. -/
def lmAccesses (s : State) (x : Ctx) (f : Lm) (uniform store : Bool) : List Acc :=
  let n := 2 ^ f.size.toNat
  (laneAddrs x uniform (sel10 f.addr) (sgn 16 f.off.toNat) n).flatMap fun a =>
    laneAccs a.1 a.2 n (if store then toBytes n (storeValue s x f.lit f.size.toNat (sel10 f.d) a.1) else [])

/-- The state but for its operations: only registers, flags and pending marks of the group may differ. -/
def OnlyOps (x : Ctx) (s t : State) : Prop := RegistersOnly x.gid s { t with ops := s.ops, nextOp := s.nextOp }

/-- The state but for the teams' windows and slice sets. -/
def OnlyWindows (x : Ctx) (s t : State) : Prop :=
  RegistersOnly x.gid s { t with ops := s.ops, nextOp := s.nextOp, teams := s.teams, sliceSets := s.sliceSets }

/-- A region of the team of `x` (R165). -/
def regionOf (s : State) (x : Ctx) (b : Nat) : Window :=
  match Tab.get? s.teams x.g.team with
  | some t => t.region b
  | none => Window.free

/-- Region `b` of the team of `x` becomes `w`; no other region of any team changes. -/
def RegionIs (s : State) (x : Ctx) (t : State) (b : Nat) (w : Window) : Prop :=
  regionOf t x b = w ∧ (∀ c, c ≠ b → regionOf t x c = regionOf s x c) ∧
    ∀ k, k ≠ x.g.team → Tab.get? t.teams k = Tab.get? s.teams k

/-! ### Matrix jobs, ranges -/

/-- An MTRX instruction passes its checks (R60, R75, R172, R307): its fields, its operands `u`, a tile the group has, and room for a
job of the group on its flag. -/
def MatrixReady (s : State) (x : Ctx) (i : Instr) (f : Lx) (u : Use) (flag : Option Nat) : Prop :=
  Ready s x (fieldsOk i) u ∧ u.bad = false ∧ u.lits < 2 ∧ f.tile.toNat < x.g.tiles.length ∧ flagFull x.g flag = none ∧
    jobCount s x.g.uid < 16

/-- A matrix job was issued (R174, R181): it names the tile, holds these operands, and takes the last turn on the tile that the name
maps to; its flag is counted; no register changes. -/
def JobIssued (s : State) (x : Ctx) (t : State) (f : Lx) (kind : Nat) (flag : Option Nat) (fb : List Nat) (a b : Nat) : Prop :=
  GroupCounts x t flag ∧ GoesOn x t (2 + tailLen f.lit f.sp) 0 x.f.scc x.f.carry x.f.exec ∧ t.mem = s.mem ∧
  ∃ g j, Tab.get? t.groups x.gid = some g ∧ Tab.get? t.mjobs s.nextOp = some j ∧ j.kind = kind ∧ j.gid = x.gid ∧ j.uid = x.g.uid ∧
    j.name = f.tile.toNat ∧ j.tile = some (physTile g f.tile.toNat) ∧ j.shape = f.shape.toNat ∧ j.flag = flag ∧ j.fb = fb ∧ j.a = a ∧
    j.b = b ∧ j.begun = false ∧ (tileOf t (coreOf x.gid) (physTile g f.tile.toNat)).turns.getLast? = some s.nextOp

/-- An instruction on a register range passes its checks (R194): `base` is the range's first register key and `n` its count. -/
def RangeReady (s : State) (x : Ctx) (i : Instr) (f : Lg) (d : Opnds) (most base n : Nat) : Prop :=
  let os := d ++ [(.b, .uni .n32)]
  Ready s x (fieldsOk i) (Use.and (baseUse (sel10 f.a)) (usesOf (lgView f) os)) ∧ rangeBase (sel10 f.a) = some base ∧
    opVal s x (lgView f) os .b 0 = n ∧ 0 < n ∧ n ≤ most ∧ rangeBad x.g base n = none

/-! ### Objects, entries -/

/-- An instruction on an object of `n` bytes passes its checks (R60, R75, R179, R200, R201), and no access of its group holds it back
(R148, R151): `a` is where the object lies, in the state `t` that its translation leaves. -/
def ObjReady (s : State) (x : Ctx) (i : Instr) (f : Lg) (os : Opnds) (n : Nat) (kind : AccKind) (device release : Bool)
    (t : State) (a : Option Nat × Nat × Nat) : Prop :=
  Issues s x i (lgView f) os ∧
    resolveObj s x (opVal s x (lgView f) os .a 0) n (some (attScope f)) kind device = .ok t a.1 a.2.1 a.2.2 ∧
    objWaits t x release kind.writes (objScope n f) a.1 a.2.1 a.2.2 = none

/-- The fragment is parked for `why`; only its latches may differ otherwise (R41, R43). -/
def ParkedFor (x : Ctx) (t : State) (why : Await) : Prop :=
  ∃ g f b n, Tab.get? t.groups x.gid = some g ∧ g.frag? x.fi = some f ∧
    f = { x.f with cond := .parked why b n, latches := f.latches } ∧ g.v = x.g.v ∧ g.s = x.g.s

/-- The entries of the unit of `x`. -/
def entriesAt (s : State) (x : Ctx) : Tab AttEnt := (s.chip (attChip x.gid)).att

/-- The fragment gets an entry of its unit that was free, with this state, kind and object; the others stay (R254). -/
def EntryAdded (s t : State) (x : Ctx) (st kind obj : Nat) : Prop :=
  ∃ k e, Tab.get? (entriesAt s x) k = none ∧ Tab.get? (entriesAt t x) k = some e ∧ e.st = st ∧ e.kind = kind ∧ e.obj = obj ∧
    e.gid = x.gid ∧ e.uid = x.g.uid ∧ e.part = x.g.part ∧ e.frag = x.f.id ∧
    ∀ j, j ≠ k → Tab.get? (entriesAt t x) j = Tab.get? (entriesAt s x) j

/-- Registers of the issuing group are as before. -/
def SameRegs (x : Ctx) (t : State) : Prop := ∃ g, Tab.get? t.groups x.gid = some g ∧ g.v = x.g.v ∧ g.s = x.g.s

/-- The instruction reserved an entry of queue `q` under the name `op`, with its flag (R53); `res` is the result that it has at once. -/
def Reserved (x : Ctx) (t : State) (q op : Nat) (flag : Option Nat) (res : Option (List Word)) : Prop :=
  ∀ l, x.g.queues[q]? = some l → ∃ g m e, Tab.get? t.groups x.gid = some g ∧ g.queues[q]? = some m ∧ m.length = l.length + 1 ∧
    m.getLast? = some e ∧ e.op = op ∧ e.flag = flag ∧ e.val = none ∧
    (∀ (k : Nat) y, l[k]? = some y → y.op ≠ op → m[k]? = some y) ∧
    (res = none → e.res = none) ∧ ∀ ws, res = some ws → ∃ y ∈ m, y.op = op ∧ y.res = some ws

/-! ### Proctor instructions -/

/-- A Proctor instruction has executed (R334, R338): the invocation goes on at `pc`, its event and every other Proctor are as before, and it
has cost one unit of the budget of the round in which it started. -/
def PrGoesTo (s : State) (x : PrCtx) (t : State) (pc : Nat) : Prop :=
  (∃ r, (t.proctor x.port).run = some r ∧ r.pc = pc ∧ r.att = x.run.att ∧ r.ev = x.run.ev ∧ r.round = x.run.round) ∧
    t = { s with proctors := t.proctors, fes := t.fes, outs := t.outs } ∧ (∀ p, p ≠ x.port → t.proctor p = s.proctor p) ∧
    Tab.getD (t.proctor x.port).used x.att.part 0 =
      Tab.getD (s.proctor x.port).used x.att.part 0 + (if x.run.round = s.tt.round then 1 else 0)

/-- The work registers after: `w` says what each holds. -/
def PrRegs (x : PrCtx) (t : State) (w : BitVec 4 → Word) : Prop :=
  ∃ r, (t.proctor x.port).run = some r ∧ ∀ k : BitVec 4, Tab.getD r.w k.toNat 0 = w k

/-- The instruction puts `v`, modulo 2^32, into W[d], and changes nothing else (R338). -/
def PrWrites (s : State) (x : PrCtx) (i : Instr) (d : BitVec 4) (v : Nat) : Prop :=
  ∃ t, exec i s = .next t ∧ PrGoesTo s x t (x.run.pc + 1) ∧ PrRegs x t (fun k => if k = d then BitVec.ofNat 32 v else x.w k) ∧
    (t.proctor x.port).atts = (s.proctor x.port).atts ∧ (t.proctor x.port).stores = (s.proctor x.port).stores ∧ t.fes = s.fes ∧
    t.outs = s.outs

/-- The instruction leaves the work registers and changes the scratch of its program only: word `k` becomes `w k` (R339). -/
def PrScratches (s : State) (x : PrCtx) (t : State) (w : Nat → Nat) : Prop :=
  PrGoesTo s x t (x.run.pc + 1) ∧ PrRegs x t x.w ∧ t.fes = s.fes ∧ t.outs = s.outs ∧
    (∀ k, k ≠ x.run.att → Tab.get? (t.proctor x.port).atts k = Tab.get? (s.proctor x.port).atts k) ∧
    ∃ a, Tab.get? (t.proctor x.port).atts x.run.att = some a ∧ a = { x.att with scratch := a.scratch } ∧
      ∀ k, (Tab.getD a.scratch k 0).toNat = w k

/-! ### Events -/

/-- A fragment of a group. -/
def fragOf (s : State) (gid fi : Nat) : Option Frag := (Tab.get? s.groups gid).bind fun g => g.frag? fi

/-- Nothing differs but this one fragment. -/
def OnlyFrag (s t : State) (gid fi : Nat) : Prop :=
  t = { s with groups := t.groups } ∧ (∀ k, k ≠ gid → Tab.get? t.groups k = Tab.get? s.groups k) ∧
    ∀ g, Tab.get? s.groups gid = some g → ∃ y, Tab.get? t.groups gid = some y ∧ y = { g with split := y.split } ∧
      ∀ k, k ≠ fi → Tab.get? y.split k = Tab.get? g.split k

/-- Messages of a pair whose last flit has not been acknowledged: on their way, then waiting (R347). -/
def msgsOf (p : Pair) : List Msg := (p.sent.filter (·.last)).map (·.msg) ++ p.unsent

/-- A message joins those of the pair from port `i` to port `j`, which may leave in the order of the slot's requests (R288). -/
def Sends (s t : State) (i j : Nat) (m : Msg) : Prop := (msgsOf (t.pair i j)).Perm (m :: msgsOf (s.pair i j))

/-- The receive buffer from a compute chiplet to a memory chiplet begins with `m` in `s` and has lost it in `t`. -/
def Taken (s t : State) (i j : Nat) (m : Msg) : Prop := ∃ since, (s.pair i j).inbox = (since, m) :: (t.pair i j).inbox

/-- Bytes of a line by offset are written over memory; no other byte changes. -/
def LineWritten (s t : State) (line : Nat) (bytes : Tab Byte) : Prop :=
  ∀ a, Memory.read t.mem a =
    if line * 128 ≤ a then (Tab.get? bytes (a - line * 128)).getD (Memory.read s.mem a) else Memory.read s.mem a

/-- No register of the group is pending for an operation (R42). -/
def NotPending (t : State) (id gid : Nat) : Prop := ∀ y, Tab.get? t.groups gid = some y → ∀ e ∈ y.pend, e.2 ≠ id

/-- An operation of the group `g` has completed: it is gone, and its flag counts one less (R30). -/
def OpCompleted (t : State) (id : Nat) (o : Op) (gid : Nat) (g : Group) : Prop :=
  Tab.get? t.ops id = none ∧ ∃ y, Tab.get? t.groups gid = some y ∧ y.fcnt = (match o.flag with
      | some n => updNth g.fcnt n (· - 1)
      | none => g.fcnt)

/-- The bytes that a lane of a load has got, extended as SIZE and SX say (R145). -/
def extended (size : Nat) (sx : Bool) (v : Nat) : Nat :=
  if size = 0 then (if sx then (sgn 8 v % (2 ^ 32 : Int)).toNat else v % 2 ^ 8)
  else if size = 1 then (if sx then (sgn 16 v % (2 ^ 32 : Int)).toNat else v % 2 ^ 16) else v

/-! ### Invariants -/

/-- In every group the flag counters are at most 63 (R30), and EXEC of every fragment is within the fragment's members (R50). -/
def GroupForm (s : State) : Prop :=
  ∀ e ∈ s.groups, (∀ n ∈ e.2.fcnt, n ≤ 63) ∧ ∀ y ∈ e.2.split, ∀ f, y.2 = .frag f → f.exec &&& ~~~f.members = 0

/-- Memory and every team's scratchpad keep their canonical form: addresses strictly rise, and no byte listed equals what an unlisted
one reads as. -/
def MemoryForm (s : State) : Prop := Memory.wf s.mem = true ∧ ∀ e ∈ s.teams, Memory.wf e.2.pad = true

end Sys2Proof
end

