-- ==== Sys2Proof/WellFormed.lean ====
section
/-! DEFINITION. Well-formed instructions: what the encodings admit (R64 to R73, R338), and for a step of the device or
the host that the unit it names exists (R2, R11, R12). `encode` and `decode` agree on exactly these. -/

namespace Sys2Proof

/-- A well-formed encoding: the checks of step 4 of R75 hold, it carries a literal word exactly when a source selector
is 1023 (R64), and its opcode is listed. -/
def Enc.wf (e : Enc) : Bool := e.fieldsOk && e.lit.isSome == e.usesLit

/-- The units a step of the device or the host names exist. -/
def eventWf : Instr → Bool
  | .vaddShort _ => true
  | .vsubShort _ => true
  | .vmulShort _ => true
  | .vandShort _ => true
  | .vorShort _ => true
  | .vxorShort _ => true
  | .vshlShort _ => true
  | .vshrShort _ => true
  | .vsraShort _ => true
  | .vminShort _ => true
  | .vmaxShort _ => true
  | .vfaddShort _ => true
  | .vfsubShort _ => true
  | .vfmulShort _ => true
  | .vfmac _ => true
  | .vfminShort _ => true
  | .vfmaxShort _ => true
  | .vmovShort _ => true
  | .vaddi _ => true
  | .vshli _ => true
  | .vshri _ => true
  | .vandi _ => true
  | .saddi _ => true
  | .smovi _ => true
  | .jmpShort _ => true
  | .brsShort _ => true
  | .nop _ => true
  | .vadd _ => true
  | .vsub _ => true
  | .vaddc _ => true
  | .vsubb _ => true
  | .vmul _ => true
  | .vmulhi _ => true
  | .vmad _ => true
  | .vmadw _ => true
  | .vabsd _ => true
  | .vmin _ => true
  | .vmax _ => true
  | .vand _ => true
  | .vor _ => true
  | .vxor _ => true
  | .vandn _ => true
  | .vshl _ => true
  | .vshr _ => true
  | .vsra _ => true
  | .vfshr _ => true
  | .vbfe _ => true
  | .vbfi _ => true
  | .vpopc _ => true
  | .vclz _ => true
  | .vbrev _ => true
  | .vsel _ => true
  | .vmov _ => true
  | .vmovi _ => true
  | .vmovx _ => true
  | .vlea _ => true
  | .vdiv _ => true
  | .vrem _ => true
  | .vfadd _ => true
  | .vfsub _ => true
  | .vfmul _ => true
  | .vfma _ => true
  | .vfmin _ => true
  | .vfmax _ => true
  | .vfrnd _ => true
  | .vffract _ => true
  | .vfdot2 _ => true
  | .vfclass _ => true
  | .vfldexp _ => true
  | .vffrexp _ => true
  | .vfcopys _ => true
  | .vfdiv _ => true
  | .vrcp _ => true
  | .vrsq _ => true
  | .vsqrt _ => true
  | .vexp2 _ => true
  | .vlog2 _ => true
  | .vsinpi _ => true
  | .vcospi _ => true
  | .vtanh _ => true
  | .vcvtf _ => true
  | .vcvtfi _ => true
  | .vcvtif _ => true
  | .vpack _ => true
  | .vunpk _ => true
  | .vcvtlg _ => true
  | .vlgcvt _ => true
  | .vcmp _ => true
  | .vcmpf _ => true
  | .vshfl _ => true
  | .vbcst _ => true
  | .vrdln _ => true
  | .vwrln _ => true
  | .vballot _ => true
  | .vmpfx _ => true
  | .vred _ => true
  | .vscan _ => true
  | .vqswz _ => true
  | .vmatch _ => true
  | .sadd _ => true
  | .ssub _ => true
  | .smul _ => true
  | .smulhi _ => true
  | .sand _ => true
  | .sor _ => true
  | .sxor _ => true
  | .sandn _ => true
  | .sshl _ => true
  | .sshr _ => true
  | .ssra _ => true
  | .sbfe _ => true
  | .spopc _ => true
  | .sclz _ => true
  | .smin _ => true
  | .smax _ => true
  | .smov _ => true
  | .ssel _ => true
  | .scmp _ => true
  | .slea _ => true
  | .smovk _ => true
  | .sfadd _ => true
  | .sfmul _ => true
  | .sfma _ => true
  | .smff1 _ => true
  | .jmp _ => true
  | .brs _ => true
  | .brz _ => true
  | .split _ => true
  | .break _ => true
  | .call _ => true
  | .ret _ => true
  | .jmpi _ => true
  | .exit _ => true
  | .yield _ => true
  | .gld _ => true
  | .gst _ => true
  | .uld _ => true
  | .ust _ => true
  | .cpf _ => true
  | .sld _ => true
  | .sst _ => true
  | .xld _ => true
  | .xst _ => true
  | .gatom _ => true
  | .satom _ => true
  | .xatom _ => true
  | .uatom _ => true
  | .fence _ => true
  | .fencex _ => true
  | .cinv _ => true
  | .cwb _ => true
  | .wbind _ => true
  | .wunbind _ => true
  | .wwarm _ => true
  | .wtest _ => true
  | .wwait _ => true
  | .wslice _ => true
  | .chfill _ => true
  | .chcopy _ => true
  | .chcmp _ => true
  | .chred _ => true
  | .mma _ => true
  | .mzero _ => true
  | .mdrain _ => true
  | .mdrainq _ => true
  | .mldacc _ => true
  | .mstat _ => true
  | .mrprog _ => true
  | .capmint _ => true
  | .caprev _ => true
  | .note _ => true
  | .noteu _ => true
  | .expect _ => true
  | .npoll _ => true
  | .wreg _ => true
  | .wdrop _ => true
  | .wait _ => true
  | .lock _ => true
  | .unlock _ => true
  | .bar _ => true
  | .bara _ => true
  | .barw _ => true
  | .whold _ => true
  | .wstat _ => true
  | .spawn _ => true
  | .launch _ => true
  | .join _ => true
  | .kill _ => true
  | .quota _ => true
  | .coll _ => true
  | .ctopv _ => true
  | .trap _ => true
  | .tret _ => true
  | .sgetsr _ => true
  | .ssetsr _ => true
  | .sleep _ => true
  | .pmark _ => true
  | .dbrk _ => true
  | .fresume _ => true
  | .prLde _ => true
  | .prLdi _ => true
  | .prAdd _ => true
  | .prSub _ => true
  | .prAnd _ => true
  | .prOr _ => true
  | .prXor _ => true
  | .prShl _ => true
  | .prShr _ => true
  | .prMin _ => true
  | .prMax _ => true
  | .prMul _ => true
  | .prHash _ => true
  | .prBfw _ => true
  | .prHinc _ => true
  | .prSkinc _ => true
  | .prHll _ => true
  | .prLdm _ => true
  | .prStm _ => true
  | .prTrigIrq _ => true
  | .prTrigSnap _ => true
  | .prTrigArm _ => true
  | .prTrigDisarm _ => true
  | .prEmit _ => true
  | .prEnd _ => true
  | .enterClause core slot _ => core < 128 && slot < 128
  | .waitingTableRetest core slot _ => core < 128 && slot < 128
  | .sleepExpiry core slot _ => core < 128 && slot < 128
  | .spillBringBack core slot _ => core < 128 && slot < 128
  | .globalLoadReply _ => true
  | .homeLoadRequest chip mc => chip < 16 && mc < 16
  | .dramReadComplete mc _ _ => mc < 16
  | .nearCacheGrant chip mc => chip < 16 && mc < 16
  | .nearCacheProbe chip mc => chip < 16 && mc < 16
  | .combineBufferTimeout core _ => core < 128
  | .homePostingMerge chip mc => chip < 16 && mc < 16
  | .probeAckReceive chip mc => chip < 16 && mc < 16
  | .postingAck chip mc => chip < 16 && mc < 16
  | .homeAtomic chip mc => chip < 16 && mc < 16
  | .atomicReply _ => true
  | .tableWalkStep _ => true
  | .feFqhead fe _ => fe < 32
  | .feFresume fe _ => fe < 32
  | .feTlbinv fe _ => fe < 32
  | .tlbinvComplete fe => fe < 32
  | .fePreemptSave fe _ => fe < 32
  | .fePreemptRestore fe _ => fe < 32
  | .sliceEnd core slot => core < 128 && slot < 128
  | .saveGraceExpiry core slot => core < 128 && slot < 128
  | .saveComplete core slot => core < 128 && slot < 128
  | .restore core slot => core < 128 && slot < 128
  | .registerCompaction core => core < 128
  | .teamPlacement fe => fe < 32
  | .cohortPlacement fe => fe < 32
  | .feSubmit fe _ => fe < 32
  | .journalDurable fe _ => fe < 32
  | .journalMirrorFailure mc => mc < 16
  | .feReset fe _ => fe < 32
  | .feCtlEnable fe => fe < 32
  | .feCtlDisable fe => fe < 32
  | .watchdogExpiry fe _ => fe < 32
  | .hardwareFailure chip => chip < 34
  | .mgReset _ _ _ => true
  | .fatalDeviceError _ => true
  | .planesTrained => true
  | .mgAttcmd _ => true
  | .attestationDone => true
  | .powerLimitReached => true
  | .clockRaise => true
  | .ttCommit _ => true
  | .timetableRoundStart => true
  | .timetableSlotStart => true
  | .feWaymask fe _ => fe < 32
  | .wayMaskApply fe slice => fe < 32 && slice < 1280
  | .wayCleaningDone fe slice => fe < 32 && slice < 1280
  | .feAllowlim fe _ => fe < 32
  | .vfMbox vf _ => vf < 512
  | .mailboxFifoRead vf => vf < 512
  | .vfMap vf _ => vf < 512
  | .feJnlhead fe _ => fe < 32
  | .feProuthead fe _ => fe < 32
  | .registerWrite bar _ _ => bar < 6
  | .biasFlipToHost => true
  | .biasFlipToDevice => true
  | .flushRequest chip => chip < 16
  | .flushdone chip => chip < 16
  | .flushInvalidationAck chip => chip < 16
  | .bisnpResponse _ half _ => half < 2
  | .hostMemRead _ _ => true
  | .hostMemWrite _ _ => true
  | .hostCacheRequest _ half _ => half < 2
  | .snpdata _ half => half < 2
  | .snpinv _ half => half < 2
  | .snpcur _ half => half < 2
  | .hostSectorGrant chip _ half _ _ => chip < 16 && half < 2
  | .upgradeNotice chip _ half => chip < 16 && half < 2
  | .flitReceive i j _ => i < 34 && j < 34
  | .flitAck i j => i < 34 && j < 34
  | .switchoverDrainTimeout i j => i < 34 && j < 34
  | .creditReturn i j => i < 34 && j < 34
  | .colourLoss i j colour => i < 34 && j < 34 && colour < 68
  | .lossReport i j colour => i < 34 && j < 34 && colour < 68
  | .sepRoute i j _ => i < 34 && j < 34
  | .colourRetest i j colour _ => i < 34 && j < 34 && colour < 68
  | .lossOfLight p => p < 16
  | .trainingComplete p _ _ => p < 16
  | .trainingTimeout p => p < 16
  | .edPortEnable p => p < 16
  | .edPortDisable p => p < 16
  | .ednanFlitReceive p _ k => p < 16 && k.ok
  | .collectivePacketReceive p => p < 16
  | .topvCommit _ => true
  | .cmCfg _ => true
  | .cmMapdata _ => true
  | .collectiveComplete _ => true
  | .deadlockProbe chip => chip < 16
  | .cycleDelivery chip => chip < 16
  | .priorityRaise core slot => core < 128 && slot < 128
  | .waitReread chip _ => chip < 16
  | .noteArrival core => core < 128
  | .noteBufferRetry core => core < 128
  | .noteAckReceive _ => true
  | .windowChunkArrival _ region chunk => region < 64 && chunk < 1536
  | .mmaJob core tile => core < 128 && tile < 32
  | .mldaccJob core tile => core < 128 && tile < 32
  | .mdrainJob core tile => core < 128 && tile < 32
  | .mdrainqTurn core tile => core < 128 && tile < 32
  | .tileStatusTurn core tile => core < 128 && tile < 32
  | .mzeroTurn core tile => core < 128 && tile < 32
  | .churnGranule _ _ => true
  | .proctorInvocation port => port < 34
  | .proctorAttach fe _ => fe < 32
  | .proctorDetach fe _ => fe < 32
  | .registerScrub core row lane => core < 128 && row < 55296 && lane < 64
  | .storageScrub kind _ _ _ => kind < 8
  | .dramPatrol mc _ _ => mc < 16
  | .unlistedOpcode _ => true
  | .scratchpadAccessComplete _ => true
  | .chipletPowerGating chip => chip < 16

/-- The four actions of TRIG share one opcode: act, in bits [1:0] of the immediate, says which it is (R338, R340). -/
def trigWf : Instr → Bool
  | .prTrigIrq f => f.imm.toNat % 4 == 0
  | .prTrigSnap f => f.imm.toNat % 4 == 1
  | .prTrigArm f => f.imm.toNat % 4 == 2
  | .prTrigDisarm f => f.imm.toNat % 4 == 3
  | _ => true

/-- A well-formed instruction. -/
def Instr.wf (i : Instr) : Bool :=
  match i.enc with
  | some e => e.wf && trigWf i
  | none => eventWf i

end Sys2Proof
end

