-- ==== Sys2Proof/Certificates/Slice0/Obligations.lean ====
section
/-! DEFINITION. The statements for the provers. Each `def Obligations.<Name>` formalises rules of spec/ that its docstring names. -/


open Sys2Proof Sys2Proof.Machine

/-! ### Vector instructions -/

/-- VINT arithmetic (R116, R120): sums, differences, products, absolute difference, minimum and maximum at the width of the type,
saturated where SAT is set; carries and borrows in D+1; wide multiply-add and address sums in 64 bits; division with its corners.
Nothing else changes (R113). The short forms (R66), logic, shifts and moves among them, mean their long forms with type I32, no modifier and no HOLD;
the immediate forms take the sign-extended 8-bit immediate as B. -/
def Obligations.VectorIntegerArithmetic : Prop :=
  (∀ (s : State) (x : Ctx) (f : Lg),
    let t := ityOf f
    let i := lgView f
    let w2 := wideTy t
    VecDoes s x (.vadd f) i (dab t t t) t.wide (fun v _ => fit t (satOf f) (ext t (v .a) + ext t (v .b))) quiet ∧
    VecDoes s x (.vsub f) i (dab t t t) t.wide (fun v _ => fit t (satOf f) (ext t (v .a) - ext t (v .b))) quiet ∧
    VecDoes s x (.vmul f) i (dab t t t) t.wide (fun v _ => fit t (satOf f) (ext t (v .a) * ext t (v .b))) quiet ∧
    VecDoes s x (.vmulhi f) i (dab t t t) t.wide
      (fun v _ => wrap t.w (ext t (v .a) * ext t (v .b) / ((2 ^ t.w : Nat) : Int))) quiet ∧
    VecDoes s x (.vmad f) i (dabc t t t t) t.wide
      (fun v _ => fit t (satOf f) (ext t (v .a) * ext t (v .b) + ext t (v .c))) quiet ∧
    VecDoes s x (.vmadw f) i (dabc w2 t t w2) true (fun v _ => wrap 64 (ext t (v .a) * ext t (v .b) + (v .c : Int))) quiet ∧
    VecDoes s x (.vabsd f) i (dab t t t) t.wide
      (fun v _ => fit t (satOf f) ((ext t (v .a) - ext t (v .b)).natAbs : Int)) quiet ∧
    VecDoes s x (.vmin f) i (dab t t t) t.wide (fun v _ => fit t (satOf f) (min (ext t (v .a)) (ext t (v .b)))) quiet ∧
    VecDoes s x (.vmax f) i (dab t t t) t.wide (fun v _ => fit t (satOf f) (max (ext t (v .a)) (ext t (v .b)))) quiet ∧
    VecDoes s x (.vaddc f) i (dabc .n64 t t .n32) true (fun v _ => v .a + v .b + v .c % 2) quiet ∧
    VecDoes s x (.vsubb f) i (dabc .n64 t t .n32) true
      (fun v _ => wrap 32 ((v .a : Int) - v .b - (v .c % 2 : Nat)) + (if v .a < v .b + v .c % 2 then 2 ^ 32 else 0)) quiet ∧
    VecDoes s x (.vlea f) i (dabc w2 w2 t .n32) true
      (fun v _ => wrap 64 ((v .a : Int) + ext t (v .b) * ((2 ^ (v .c % 8) : Nat) : Int))) quiet ∧
    VecDoes s x (.vdiv f) i (dab t t t) t.wide
      (fun v _ => if ext t (v .b) = 0 then 2 ^ t.w - 1 else wrap t.w (Int.tdiv (ext t (v .a)) (ext t (v .b)))) quiet ∧
    VecDoes s x (.vrem f) i (dab t t t) t.wide
      (fun v _ => if ext t (v .b) = 0 then v .a else wrap t.w (Int.tmod (ext t (v .a)) (ext t (v .b)))) quiet) ∧
  ∀ (s : State) (x : Ctx) (f : Vs3) (h : Vs2i),
    let i := vs3View f
    let j := vs2iView h
    let t := OpTy.i32
    VecDoes s x (.vaddShort f) i (dab t t t) false (fun v _ => fit t false (ext t (v .a) + ext t (v .b))) quiet ∧
    VecDoes s x (.vsubShort f) i (dab t t t) false (fun v _ => fit t false (ext t (v .a) - ext t (v .b))) quiet ∧
    VecDoes s x (.vmulShort f) i (dab t t t) false (fun v _ => fit t false (ext t (v .a) * ext t (v .b))) quiet ∧
    VecDoes s x (.vandShort f) i (dab t t t) false (fun v _ => v .a &&& v .b) quiet ∧
    VecDoes s x (.vorShort f) i (dab t t t) false (fun v _ => v .a ||| v .b) quiet ∧
    VecDoes s x (.vxorShort f) i (dab t t t) false (fun v _ => v .a ^^^ v .b) quiet ∧
    VecDoes s x (.vshlShort f) i (dab t t .n32) false
      (fun v _ => fit t false (ext t (v .a) * ((2 ^ (v .b % 32) : Nat) : Int))) quiet ∧
    VecDoes s x (.vshrShort f) i (dab t t .n32) false (fun v _ => v .a % 2 ^ 32 / 2 ^ (v .b % 32)) quiet ∧
    VecDoes s x (.vsraShort f) i (dab t t .n32) false
      (fun v _ => wrap 32 (sgn 32 (v .a) / ((2 ^ (v .b % 32) : Nat) : Int))) quiet ∧
    VecDoes s x (.vminShort f) i (dab t t t) false (fun v _ => fit t false (min (ext t (v .a)) (ext t (v .b)))) quiet ∧
    VecDoes s x (.vmaxShort f) i (dab t t t) false (fun v _ => fit t false (max (ext t (v .a)) (ext t (v .b)))) quiet ∧
    VecDoes s x (.vmovShort f) i (da t t) false (fun v _ => v .a) quiet ∧
    VecDoes s x (.vaddi h) j (dab t t t) false (fun v _ => fit t false (ext t (v .a) + ext t (v .b))) quiet ∧
    VecDoes s x (.vshli h) j (dab t t .n32) false
      (fun v _ => fit t false (ext t (v .a) * ((2 ^ (v .b % 32) : Nat) : Int))) quiet ∧
    VecDoes s x (.vshri h) j (dab t t .n32) false (fun v _ => v .a % 2 ^ 32 / 2 ^ (v .b % 32)) quiet ∧
    VecDoes s x (.vandi h) j (dab t t t) false (fun v _ => v .a &&& v .b) quiet

/-- VINT on bit patterns (R116, R118, R119): logic, shifts by B mod the width, the funnel shift of B:A, bit fields, counts, selection
by a mask and moves. Nothing else changes (R113). The bit fields bit by bit: with offset B mod 2^5 (2^6 in 64 bits) and length C mod 2^6 (2^7) cut
off at the top, VBFE moves the field down and fills with zeros, or with the field's top bit for a signed type; VBFI replaces the field of D by the
low bits of A. -/
def Obligations.VectorBitOperations : Prop :=
  (∀ (s : State) (x : Ctx) (f : Lg),
    let t := ityOf f
    let i := lgView f
    VecDoes s x (.vand f) i (dab t t t) t.wide (fun v _ => v .a &&& v .b) quiet ∧
    VecDoes s x (.vor f) i (dab t t t) t.wide (fun v _ => v .a ||| v .b) quiet ∧
    VecDoes s x (.vxor f) i (dab t t t) t.wide (fun v _ => v .a ^^^ v .b) quiet ∧
    VecDoes s x (.vandn f) i (dab t t t) t.wide (fun v _ => v .a &&& (2 ^ t.w - 1 - v .b % 2 ^ t.w)) quiet ∧
    VecDoes s x (.vshl f) i (dab t t .n32) t.wide
      (fun v _ => fit t (satOf f) (ext t (v .a) * ((2 ^ (v .b % t.w) : Nat) : Int))) quiet ∧
    VecDoes s x (.vshr f) i (dab t t .n32) t.wide (fun v _ => v .a % 2 ^ t.w / 2 ^ (v .b % t.w)) quiet ∧
    VecDoes s x (.vsra f) i (dab t t .n32) t.wide
      (fun v _ => wrap t.w (sgn t.w (v .a) / ((2 ^ (v .b % t.w) : Nat) : Int))) quiet ∧
    VecDoes s x (.vfshr f) i (dabc t t t .n32) t.wide
      (fun v _ => (v .b * 2 ^ t.w + v .a) / 2 ^ (v .c % t.w) % 2 ^ t.w) quiet ∧
    VecDoes s x (.vbfe f) i (dabc t t .n32 .n32) t.wide (fun v _ => bfeOf t (v .a) (v .b) (v .c)) quiet ∧
    VecDoes s x (.vbfi f) i [(.d, .dstV t true), (.a, .src t), (.b, .src .n32), (.c, .src .n32)] t.wide
      (fun v _ => bfiOf t (v .a) (v .b) (v .c) (v .d)) quiet ∧
    VecDoes s x (.vpopc f) i (da t t) t.wide (fun v _ => popcount t.w (v .a)) quiet ∧
    VecDoes s x (.vclz f) i (da t t) t.wide (fun v _ => clz t.w (v .a)) quiet ∧
    VecDoes s x (.vbrev f) i (da t t) t.wide (fun v _ => bitrev t.w (v .a)) quiet ∧
    VecDoes s x (.vsel f) i [(.d, .dstV t false), (.a, .src t), (.b, .src t), (.c, .spair true)] t.wide
      (fun v l => if bitAt (v .c) l then v .a else v .b) quiet ∧
    VecDoes s x (.vmov f) i (da t t) t.wide (fun v _ => v .a) quiet) ∧
  ∀ (t : OpTy) (a b c d k : Nat), t = .i32 ∨ t = .n32 ∨ t = .i64 ∨ t = .n64 → k < t.w →
    let off := b % (if t.wide then 64 else 32)
    let len := min (c % (if t.wide then 128 else 64)) (t.w - off)
    (bfeOf t a b c).testBit k =
      (if k < len then a.testBit (off + k) else t.signed && (0 < len && a.testBit (off + len - 1))) ∧
    (bfiOf t a b c d).testBit k = (if off ≤ k ∧ k < off + len then a.testBit (k - off) else d.testBit k)

/-- The indexed moves (R119). VMOVI copies V(base + B) of each active lane into D; VMOVX copies A of each active lane into V(base + B). The
selected registers must be in range and not pending or armed; no other register changes. -/
def Obligations.IndexedMoves : Prop :=
  (∀ (s : State) (x : Ctx) (f : Lg),
    let t := ityOf f
    let i := lgView f
    let os : Opnds := [(.d, .dstV t false), (.a, .vbase t.wide), (.b, .src .n32)]
    let j := fun l => baseReg i.a + opVal s x i os .b l
    let regs := (lanesOf x.f.exec).flatMap fun l => span t.wide (j l)
    Issues s x (.vmovi f) i os → (∀ l ∈ lanesOf x.f.exec, indexBad x.g.vcount t.wide (j l) = false) →
    indexedGate s x t.wide true ((lanesOf x.f.exec).map fun l => (l, j l)) .go = .go →
    ∃ u, exec (.vmovi f) s = .next u ∧ LanesAre x u i.d t.wide x.f.exec (fun l => vval x.g t.wide (j l) l) ∧
      RegistersOnly x.gid s u ∧ GroupKeeps x u { usesOf i os with rd := (usesOf i os).rd ++ regs } ∧
      StickyIs x u x.g.sticky ∧ GoesOn x u i.len i.hold x.f.scc x.f.carry x.f.exec) ∧
  (∀ (s : State) (x : Ctx) (f : Lg),
    let t := ityOf f
    let i := lgView f
    let os : Opnds := [(.d, .vbase t.wide), (.a, .src t), (.b, .src .n32)]
    let j := fun l => baseReg i.d + opVal s x i os .b l
    let regs := (lanesOf x.f.exec).flatMap fun l => span t.wide (j l)
    Issues s x (.vmovx f) i os → (∀ l ∈ lanesOf x.f.exec, indexBad x.g.vcount t.wide (j l) = false) →
    indexedGate s x t.wide false ((lanesOf x.f.exec).map fun l => (l, j l)) .go = .go →
    ∃ u g, exec (.vmovx f) s = .next u ∧ Tab.get? u.groups x.gid = some g ∧
      (∀ n l, l < 64 → (g.vlane n l).toNat =
        if inMask x.f.exec l && n == j l then opVal s x i os .a l % 2 ^ 32
        else if inMask x.f.exec l && t.wide && n == j l + 1 then opVal s x i os .a l / 2 ^ 32 % 2 ^ 32
        else (x.g.vlane n l).toNat) ∧
      RegistersOnly x.gid s u ∧ GroupKeeps x u { usesOf i os with wr := regs } ∧
      StickyIs x u x.g.sticky ∧ GoesOn x u i.len i.hold x.f.scc x.f.carry x.f.exec)

/-- VFLT (R88 to R92, R121 to R125) and the short forms of R66: each element is computed in the format of the type, rounded once in the instruction's
mode, and clamped where CLAMP is set; the sticky bits are ORed into FLAGS. Nothing else changes (R113). That VFFRACT of an integral value is +0 in
every rounding mode is the model's choice (log 11). -/
def Obligations.VectorFloat : Prop :=
  ∀ (s : State) (x : Ctx) (f : Lg) (h : Vs3),
    let t := ftyOf f
    let m := fmtOf t
    let rm := frmOf f
    let i := lgView f
    let j := vs3View h
    let two := fun (op : Nat → Nat → Nat × Nat) (v : Fld → Nat) (_ : Nat) =>
      perElem t (clampOf f) fun k => op (elem t k (v .a)) (elem t k (v .b))
    let one := fun (op : Nat → Nat × Nat) (v : Fld → Nat) (_ : Nat) => perElem t (clampOf f) fun k => op (elem t k (v .a))
    FltDoes s x (.vfadd f) i (dab t t t) t.wide (two (fpAdd m rm)) ∧
    FltDoes s x (.vfsub f) i (dab t t t) t.wide (two (fpSub m rm)) ∧
    FltDoes s x (.vfmul f) i (dab t t t) t.wide (two (fpMul m rm)) ∧
    FltDoes s x (.vfma f) i (dabc t t t t) t.wide
      (fun v _ => perElem t (clampOf f) fun k => fpFma m rm (elem t k (v .a)) (elem t k (v .b)) (elem t k (v .c))) ∧
    FltDoes s x (.vfmin f) i (dab t t t) t.wide (two (fpMinMax m false)) ∧
    FltDoes s x (.vfmax f) i (dab t t t) t.wide (two (fpMinMax m true)) ∧
    FltDoes s x (.vfrnd f) i (da t t) t.wide (one (fpRnd m rm)) ∧
    FltDoes s x (.vffract f) i (da t t) t.wide (one (fpFract m rm)) ∧
    FltDoes s x (.vfdot2 f) i (dabc .f32 t t .f32) false
      (fun v _ => perElem .f32 (clampOf f) fun _ =>
        fpDot2 m rm (elem t 0 (v .a)) (elem t 1 (v .a)) (elem t 0 (v .b)) (elem t 1 (v .b)) (v .c)) ∧
    VecDoes s x (.vfclass f) i (da .n32 t) false
      (fun v _ => if t.packed then fpClass m (elem t 0 (v .a)) + fpClass m (elem t 1 (v .a)) * 2 ^ 16 else fpClass m (v .a)) quiet ∧
    FltDoes s x (.vfldexp f) i (dab t t .n32) t.wide
      (fun v _ => perElem t (clampOf f) fun k =>
        fpLdexp m rm (elem t k (v .a)) (if t.packed then sgn 16 (elem t k (v .b)) else sgn 32 (v .b))) ∧
    FltDoes s x (.vffrexp f) i (da .n32 t) false
      (fun v _ => if t.packed then
          (wrap 16 (fpFrexp m (elem t 0 (v .a))).1 + wrap 16 (fpFrexp m (elem t 1 (v .a))).1 * 2 ^ 16,
            (fpFrexp m (elem t 0 (v .a))).2 ||| (fpFrexp m (elem t 1 (v .a))).2)
        else (wrap 32 (fpFrexp m (v .a)).1, (fpFrexp m (v .a)).2)) ∧
    FltDoes s x (.vfcopys f) i (dab t t t) t.wide (two fun a b => (fpCopysign m a b, 0)) ∧
    FltDoes s x (.vfdiv f) i (dab t t t) t.wide (two (fpDiv m rm)) ∧
    FltDoes s x (.vfaddShort h) j (dab .f32 .f32 .f32) false (fun v _ => fpAdd f32 .rne (v .a) (v .b)) ∧
    FltDoes s x (.vfsubShort h) j (dab .f32 .f32 .f32) false (fun v _ => fpSub f32 .rne (v .a) (v .b)) ∧
    FltDoes s x (.vfmulShort h) j (dab .f32 .f32 .f32) false (fun v _ => fpMul f32 .rne (v .a) (v .b)) ∧
    FltDoes s x (.vfmac h) (macView h) (dabc .f32 .f32 .f32 .f32) false (fun v _ => fpFma f32 .rne (v .a) (v .b) (v .c)) ∧
    FltDoes s x (.vfminShort h) j (dab .f32 .f32 .f32) false (fun v _ => fpMinMax f32 false (v .a) (v .b)) ∧
    FltDoes s x (.vfmaxShort h) j (dab .f32 .f32 .f32) false (fun v _ => fpMinMax f32 true (v .a) (v .b))

/-- Rounding (R89, R92): every exact value is rounded once. So are the sum, difference, product, fused sum of a product, and quotient of finite values
in each format and mode; an exact zero has the sign of its operands where those agree, and is otherwise +0, or -0 under RDN; a zero product or quotient
has the product of the signs. -/
def Obligations.FloatRoundsOnce : Prop :=
  ∀ (t : FpFmt) (rm : Rm), t ∈ [f16, bf16, f32, f64] →
    (∀ neg m e, m ≠ 0 → RoundedOnce t rm neg (magnitude m e) (roundFp t rm neg m e)) ∧
    ∀ x y z na ma ea nb mb eb nc mc ec, x < 2 ^ t.width → y < 2 ^ t.width → z < 2 ^ t.width →
      unpack t x = .fin na ma ea → unpack t y = .fin nb mb eb → unpack t z = .fin nc mc ec →
      let a := signedValue na ma ea
      let b := signedValue nb mb eb
      let c := signedValue nc mc ec
      let both := fun (p q : Bool) => if p = q then p else rm == .rdn
      IsRounded t rm (a + b) (both na nb) (fpAdd t rm x y) ∧ IsRounded t rm (a - b) (both na (!nb)) (fpSub t rm x y) ∧
      IsRounded t rm (a * b) (na != nb) (fpMul t rm x y) ∧ IsRounded t rm (a * b + c) (both (na != nb) nc) (fpFma t rm x y z) ∧
      (b ≠ 0 → IsRounded t rm (a / b) (na != nb) (fpDiv t rm x y))

/-- VXFN (R126 to R128): each lane gets the function of its element; what its error bounds leave open is free (log 10). Nothing else changes
(R113). The function's special inputs give the results of R128's table, and its exact points the exact values of R127 with no flag; beyond 2^20 VEXP2
gives an infinity or zero, and VSINPI and VCOSPI a value in [-1, 1]; VTANH never exceeds 1. -/
def Obligations.Transcendentals : Prop :=
  (∀ (s : State) (x : Ctx) (f : Lg),
    let t := ftyOf f
    let i := lgView f
    let fn := fun (k : Nat) (v : Fld → Nat) (_ : Nat) => xfn k (fmtOf t) (f.mod.toNat / 8) (v .a)
    FltDoes s x (.vrcp f) i (da t t) t.wide (fn 0) ∧
    FltDoes s x (.vrsq f) i (da t t) t.wide (fn 1) ∧
    FltDoes s x (.vsqrt f) i (da t t) t.wide (fn 2) ∧
    FltDoes s x (.vexp2 f) i (da t t) t.wide (fn 3) ∧
    FltDoes s x (.vlog2 f) i (da t t) t.wide (fn 4) ∧
    FltDoes s x (.vsinpi f) i (da t t) t.wide (fn 5) ∧
    FltDoes s x (.vcospi f) i (da t t) t.wide (fn 6) ∧
    FltDoes s x (.vtanh f) i (da t t) t.wide (fn 7)) ∧
  ∀ (t : FpFmt) (ty x : Nat), t = f32 ∨ t = f64 → x < 2 ^ t.width →
    let out := fun (k : Nat) => xfn k t ty x
    let sg := fun (neg : Bool) => if neg then t.signW else 0
    let invalid := (t.nanBits, fIO)
    (∀ q k, unpack t x = .nan q → k < 8 → out k = (t.nanBits, if q then fIO else 0)) ∧
    (∀ n, unpack t x = .inf n → out 0 = (sg n, 0) ∧ out 1 = (if n then invalid else (0, 0)) ∧ out 2 = (if n then invalid else (t.infBits, 0)) ∧
      out 3 = ((if n then 0 else t.infBits), 0) ∧ out 4 = (if n then invalid else (t.infBits, 0)) ∧ out 5 = invalid ∧ out 6 = invalid ∧
      out 7 = (sg n + t.oneBits, 0)) ∧
    (∀ n e, unpack t x = .fin n 0 e → out 0 = (sg n + t.infBits, fDZ) ∧ out 1 = (sg n + t.infBits, fDZ) ∧ out 2 = (sg n, 0) ∧
      out 3 = (t.oneBits, 0) ∧ out 4 = (t.signW + t.infBits, fDZ) ∧ out 5 = (sg n, 0) ∧ out 6 = (t.oneBits, 0) ∧ out 7 = (sg n, 0)) ∧
    ∀ n m e, unpack t x = .fin n m e → m ≠ 0 →
      let v := magnitude m e
      let exact := fun (k : Nat) (neg : Bool) (w : Rat) => (out k).2 = 0 ∧ ∃ p q, unpack t (out k).1 = .fin neg p q ∧ magnitude p q = w
      (n = true → out 1 = invalid ∧ out 2 = invalid ∧ out 4 = invalid) ∧
      (∀ j : Int, v = (2 : Rat) ^ j →
        (t.emin - t.mb ≤ -j → -j ≤ t.bias → exact 0 n ((2 : Rat) ^ (-j))) ∧
        (∀ i : Int, j = 2 * i → n = false → exact 1 false ((2 : Rat) ^ (-i)) ∧ exact 2 false ((2 : Rat) ^ i)) ∧
        (n = false → exact 4 (decide (j < 0)) |(j : Rat)|)) ∧
      (∀ j : Int, signedValue n m e = (j : Rat) → t.emin - t.mb ≤ j → j ≤ t.bias → exact 3 false ((2 : Rat) ^ j)) ∧
      (∀ i : Nat, v = (i : Rat) → out 5 = (sg n, 0) ∧ out 6 = (sg (i % 2 == 1) + t.oneBits, 0)) ∧
      (∀ i : Nat, v = (i : Rat) + 1 / 2 → out 5 = (sg ((i % 2 == 1) != n) + t.oneBits, 0) ∧ out 6 = (0, 0)) ∧
      ((2 : Rat) ^ 20 < v → out 3 = (if n then (0, fUF + fNX) else (t.infBits, fOF + fNX)) ∧ (out 5).1 % t.signW ≤ t.oneBits ∧
        (out 6).1 % t.signW ≤ t.oneBits) ∧
      (out 7).1 % t.signW ≤ t.oneBits ∧ (out 7).1 / t.signW = (if n then 1 else 0)

/-- The error bounds of VXFN (R127): VSQRT is the square root rounded once; every other result lies within its bound, in units in the last place, of
a value that differs from the exact one by at most 2^-190 of it, which is how closely the model encloses the exact functions (log 10). -/
def Obligations.TranscendentalBounds : Prop :=
  ∀ (t : FpFmt) (ty x : Nat) (n : Bool) (m : Nat) (e : Int), t = f32 ∨ t = f64 → x < 2 ^ t.width → unpack t x = .fin n m e → m ≠ 0 →
    let v : ℝ := signedValue n m e
    let near := fun (minor ulps : Nat) (w : ℝ) => ∃ y : ℝ, |y - w| ≤ (2 : ℝ) ^ (-190 : Int) * |w| ∧ WithinUlps t ulps y (xfn minor t ty x).1
    near 0 1 v⁻¹ ∧
    (n = false → near 1 1 (Real.sqrt v)⁻¹ ∧ RoundedOnce t .rne false (Real.sqrt v) (xfn 2 t ty x) ∧ near 4 2 (Real.logb 2 v)) ∧
    (|v| ≤ 2 ^ 20 → near 3 2 ((2 : ℝ) ^ v) ∧ near 5 2 (Real.sin (Real.pi * v)) ∧ near 6 2 (Real.cos (Real.pi * v))) ∧
    near 7 3 (Real.tanh v)

/-- VCNV (R106 to R108, R139 to R141): conversions between formats, packing, unpacking and the logarithmic codes. Nothing else changes (R113). Float
to integer rounds once, gives the nearer end of the range outside it with IO, and 0 for a NaN; a logarithmic code is the nearest of the table-based
values, and converts to its own value, rounded once where the format is narrow. That VCVTFI judges the range after rounding is the model's choice (log
78). -/
def Obligations.VectorConversions : Prop :=
  (∀ (s : State) (x : Ctx) (f : Lg),
    let m := f.mod.toNat
    let i := lgView f
    let cv := vcvtfFmt (m / 4)
    FltDoes s x (.vcvtf f) i (da (holder cv.2) (holder cv.1)) (holder cv.2).wide
      (fun v _ => fpConv cv.1 cv.2 (rmOf m) (v .a % 2 ^ cv.1.width)) ∧
    FltDoes s x (.vcvtfi f) i (da (intTy (m / 4 % 4)) (fltTy (m / 16))) (intTy (m / 4 % 4)).wide
      (fun v _ => fpToInt (fmtOf (fltTy (m / 16))) (intTy (m / 4 % 4)).signed (intTy (m / 4 % 4)).w (rmOf m) (v .a)) ∧
    FltDoes s x (.vcvtif f) i (da (fltTy (m / 4 % 2)) (intTy (m / 8))) (fltTy (m / 4 % 2)).wide
      (fun v _ => fpOfInt (fmtOf (fltTy (m / 4 % 2))) (rmOf m) (ext (intTy (m / 8)) (v .a))) ∧
    (m = 0 → VecDoes s x (.vpack f) i (dab .n32 .n32 .n32) false
      (fun v _ => v .a % 2 ^ 16 + v .b % 2 ^ 16 * 2 ^ 16) quiet) ∧
    (m = 1 → VecDoes s x (.vpack f) i (dab .n32 .n32 .n32) false
      (fun v _ => v .a / 2 ^ 16 + v .b / 2 ^ 16 * 2 ^ 16) quiet) ∧
    (m = 2 → VecDoes s x (.vpack f) i (dab .n64 .n32 .n32) true (fun v _ => v .a + v .b * 2 ^ 32) quiet) ∧
    VecDoes s x (.vunpk f) i (da .n32 .n32) false
      (fun v _ =>
        let w := if bitAt m 2 then 8 else 16
        let e := v .a / 2 ^ (w * (m % 4)) % 2 ^ w
        if bitAt m 3 then wrap 32 (sgn w e) else e) quiet ∧
    FltDoes s x (.vcvtlg f) i (da .n32 (fltTy (m / 8 % 2))) false
      (fun v _ => toLg (!bitAt m 4) (fmtOf (fltTy (m / 8 % 2))) (v .a)) ∧
    FltDoes s x (.vlgcvt f) i (da (if (fltTy (m / 4 % 4)).wide then .f64 else .n32) .n32) (fltTy (m / 4 % 4)).wide
      (fun v _ => ofLg (!bitAt m 4) (fmtOf (fltTy (m / 4 % 4))) (v .a))) ∧
  (∀ (t : FpFmt) (rm : Rm) (signed : Bool) (w x : Nat), t = f32 ∨ t = f64 → w = 32 ∨ w = 64 → x < 2 ^ t.width →
    let lo : Int := if signed then -((2 ^ (w - 1) : Nat) : Int) else 0
    let hi : Int := if signed then ((2 ^ (w - 1) : Nat) : Int) - 1 else ((2 ^ w : Nat) : Int) - 1
    let r := fpToInt t signed w rm x
    (∀ q, unpack t x = .nan q → r = (0, fIO)) ∧
    (∀ n, unpack t x = .inf n → r = (wrap w (if n then lo else hi), fIO)) ∧
    ∀ n m e, unpack t x = .fin n m e → ∃ k : Int, RoundedInt rm (signedValue n m e) k ∧ (k < lo → r = (wrap w lo, fIO)) ∧
      (hi < k → r = (wrap w hi, fIO)) ∧ (lo ≤ k → k ≤ hi → r = (wrap w k, if (k : Rat) = signedValue n m e then 0 else fNX))) ∧
  ∀ (six : Bool) (t : FpFmt) (x : Nat),
    let sign := if six then 32 else 128
    let top := sign - 1
    (t = f32 ∨ t = f64 → x < 2 ^ t.width →
      let r := toLg six t x
      (∀ q, unpack t x = .nan q → r = (sign, fIO)) ∧ (∀ n, unpack t x = .inf n → r = ((if n then sign else 0) + top, fOF + fNX)) ∧
      (∀ n e, unpack t x = .fin n 0 e → r = (0, 0)) ∧
      ∀ n m e, unpack t x = .fin n m e → m ≠ 0 →
        let v := magnitude m e
        (lgValue six top < v → r = ((if n then sign else 0) + top, fOF + fNX)) ∧
        (v ≤ lgValue six top → ∃ k, k ≤ top ∧ r = ((if k = 0 then 0 else (if n then sign else 0) + k), if lgValue six k = v then 0 else fNX) ∧
          ∀ j, j ≤ top → |lgValue six k - v| ≤ |lgValue six j - v| ∧ (|lgValue six k - v| = |lgValue six j - v| → j ≠ k → k % 2 = 0))) ∧
    (t ∈ [f16, bf16, f32, f64] →
      let r := ofLg six t x
      let k := x % sign
      let neg := x / sign % 2 = 1
      (k = 0 → r = ((if neg then t.nanBits else 0), 0)) ∧
      (k ≠ 0 → RoundedOnce t .rne (decide neg) (lgValue six k) r ∧ (t = f32 ∨ t = f64 → r.2 = 0)))

/-- The compares (R135, R142): bit l of the S pair D is 1 exactly when lane l is active and the condition holds there; VCMPF sets its
sticky bits; with EXEC zero nothing is written. -/
def Obligations.VectorCompares : Prop :=
  ∀ (s : State) (x : Ctx) (f : Lg),
    let m := f.mod.toNat
    let i := lgView f
    let os := fun (t : OpTy) => ([(.d, .dstS true true), (.a, .src t), (.b, .src t)] : Opnds)
    (let t := intTy (m / 8)
     let holds := fun l => intCond t (m % 8) (opVal s x i (os t) .a l) (opVal s x i (os t) .b l)
     Issues s x (.vcmp f) i (os t) →
      LaneUniStep s x i (os t) true (maskOf fun l => inMask x.f.exec l && holds l).toNat 0 (exec (.vcmp f) s)) ∧
    (let t := fltTy (m / 8)
     let r := fun l => fpCmp (fmtOf t) (m % 8) (opVal s x i (os t) .a l) (opVal s x i (os t) .b l)
     Issues s x (.vcmpf f) i (os t) →
      LaneUniStep s x i (os t) true (maskOf fun l => inMask x.f.exec l && (r l).1).toNat (stickyOf x.f.exec fun l => (r l).2)
        (exec (.vcmpf f) s))

/-- Lane moves (R135 to R137): the source lane of VSHFL by its four modes, broadcast, quad swizzle, the write of one lane, prefix counts of a mask,
and the match mask. They read source lanes whether or not those are active. How a literal or a special register is widened to 64 bits in an operand
here is the model's choice (log 76). -/
def Obligations.LaneMoves : Prop :=
  ∀ (s : State) (x : Ctx) (f : Lg),
    let i := lgView f
    let t : OpTy := if bitAt f.mod.toNat 2 then .n64 else .n32
    let osV : Opnds := dab t t .n32
    let osU : Opnds := [(.d, .dstV t false), (.a, .src t), (.b, .uni .n32)]
    let osW : Opnds := [(.d, .dstV t false), (.a, .uni t), (.b, .uni .n32)]
    let osM : Opnds := [(.d, .dstV .n64 false), (.a, .src t)]
    (Issues s x (.vshfl f) i osV → VecStep s x i osV t.wide
      (fun l =>
        let b := opVal s x i osV .b l
        opVal s x i osV .a (match f.mod.toNat % 4 with
          | 0 => b % 64
          | 1 => if b ≤ l then l - b else l
          | 2 => if l + b < 64 then l + b else l
          | _ => l ^^^ (b % 64))) (fun _ => 0) (exec (.vshfl f) s)) ∧
    (Issues s x (.vbcst f) i osU → VecStep s x i osU t.wide
      (fun _ => opVal s x i osU .a (opVal s x i osU .b 0 % 64)) (fun _ => 0) (exec (.vbcst f) s)) ∧
    (Issues s x (.vqswz f) i osU → VecStep s x i osU t.wide
      (fun l => opVal s x i osU .a (4 * (l / 4) + opVal s x i osU .b 0 / 2 ^ (2 * (l % 4)) % 4)) (fun _ => 0) (exec (.vqswz f) s)) ∧
    (Issues s x (.vwrln f) i osW → VecStep s x i osW t.wide
      (fun l => if l = opVal s x i osW .b 0 % 64 then opVal s x i osW .a 0
        else match i.d with
          | .v n => vval x.g t.wide n l
          | _ => 0) (fun _ => 0) (exec (.vwrln f) s)) ∧
    VecDoes s x (.vmpfx f) i [(.d, .dstV .n32 false), (.a, .uni .n64)] false (fun v l => popcount l (v .a)) quiet ∧
    (Issues s x (.vmatch f) i osM → VecStep s x i osM true
      (fun l => (maskOf fun k => inMask x.f.exec k && opVal s x i osM .a k == opVal s x i osM .a l).toNat) (fun _ => 0)
      (exec (.vmatch f) s))

/-- Lane results in uniform registers and the lane trees (R109, R135, R136, R138): VRDLN, VBALLOT, VRED by the balanced tree over the active lanes and
VSCAN inclusive. With EXEC zero nothing is written. That VRDLN with NULL as D goes on is the model's choice (log 50), and so is the widening of a
literal or a special register to 64 bits (log 76). -/
def Obligations.LaneReductions : Prop :=
  ∀ (s : State) (x : Ctx) (f : Lg),
    let i := lgView f
    let t : OpTy := if bitAt f.mod.toNat 2 then .n64 else .n32
    let rt := redTy f.mod.toNat
    let op := redOp (f.mod.toNat / 8) (f.mod.toNat % 8)
    let osR : Opnds := [(.d, .dstS t.wide true), (.a, .src t), (.b, .uni .n32)]
    let osB : Opnds := [(.d, .dstS true true), (.a, .src t)]
    let osT : Opnds := [(.d, .dstVS rt), (.a, .src rt)]
    let osS : Opnds := [(.d, .dstV rt false), (.a, .src rt)]
    let part := fun (os : Opnds) l => if inMask x.f.exec l then some (opVal s x i os .a l, 0) else none
    (Issues s x (.vrdln f) i osR →
      LaneUniStep s x i osR t.wide (opVal s x i osR .a (opVal s x i osR .b 0 % 64)) 0 (exec (.vrdln f) s)) ∧
    (Issues s x (.vballot f) i osB →
      LaneUniStep s x i osB true (maskOf fun l => inMask x.f.exec l && opVal s x i osB .a l != 0).toNat 0 (exec (.vballot f) s)) ∧
    (Issues s x (.vred f) i osT → ∀ r fl, laneTree op (part osT) 6 0 = some (r, fl) →
      ∃ u, exec (.vred f) s = .next u ∧ LanesAre x u i.d rt.wide x.f.exec (fun _ => r) ∧ UniIs x u i.d rt.wide r ∧
        RegistersOnly x.gid s u ∧ GroupKeeps x u (usesOf i osT) ∧ StickyIs x u (x.g.sticky ||| fl) ∧
        GoesOn x u i.len i.hold x.f.scc x.f.carry x.f.exec) ∧
    (Issues s x (.vred f) i osT → x.f.exec = 0 →
      ∃ u, exec (.vred f) s = .next u ∧ RegistersOnly x.gid s u ∧ GroupKeeps x u { usesOf i osT with wr := [] } ∧
        StickyIs x u x.g.sticky ∧ GoesOn x u i.len i.hold x.f.scc x.f.carry x.f.exec) ∧
    (Issues s x (.vscan f) i osS → VecStep s x i osS rt.wide
      (fun l => ((laneScan op (part osS) l 7 0 none).getD (0, 0)).1) (fun l => ((laneScan op (part osS) l 7 0 none).getD (0, 0)).2)
      (exec (.vscan f) s))

/-- UALU on integers (R118, R130 to R133) with the short SADDI and SMOVI (R66), and on floats (R133): one value, written to an S register or pair, EXEC, FLAGS
or nowhere; SADD, SSUB and SADDI write CARRY, SCMP and SMFF1 write SCC;
SFADD, SFMUL and SFMA round once and set the sticky bits. -/
def Obligations.UniformArithmetic : Prop :=
  (∀ (s : State) (x : Ctx) (f : Lg) (h : Us) (k : Usi),
    let t := ityOf f
    let i := lgView f
    let w2 := wideTy t
    let os2 : Opnds := [(.d, .dstU t false), (.a, .uni t), (.b, .uni t)]
    let osN : Opnds := [(.d, .dstU t false), (.a, .uni t), (.b, .uni .n32)]
    let os1 : Opnds := [(.d, .dstU t false), (.a, .uni t)]
    let osE : Opnds := [(.d, .dstU t false), (.a, .uni t), (.b, .uni .n32), (.c, .uni .n32)]
    let osC : Opnds := [(.d, .dstU .n32 false), (.a, .uni t), (.b, .uni t)]
    let osL : Opnds := [(.d, .dstP), (.a, .uni w2), (.b, .uni t), (.c, .uni .n32)]
    let osK : Opnds := [(.d, .dstU t true), (.a, .uni t), (.c, .uni t)]
    let osI : Opnds := [(.d, .dstU .i32 false), (.a, .uni .i32), (.b, .uni .i32)]
    let osM : Opnds := [(.d, .dstU .i32 false), (.a, .uni .i32)]
    let none := fun (_ : Fld → Nat) => (0 : Nat)
    let keepS := fun (_ : Fld → Nat) => x.f.scc
    let keepC := fun (_ : Fld → Nat) => x.f.carry
    UniDoes s x (.sadd f) i os2 t.wide (fun v => fit t (satOf f) (ext t (v .a) + ext t (v .b))) none keepS
      (fun v => carryAdd t (v .a) (v .b)) ∧
    UniDoes s x (.ssub f) i os2 t.wide (fun v => fit t (satOf f) (ext t (v .a) - ext t (v .b))) none keepS
      (fun v => carrySub t (v .a) (v .b)) ∧
    UniDoes s x (.smul f) i os2 t.wide (fun v => fit t (satOf f) (ext t (v .a) * ext t (v .b))) none keepS keepC ∧
    UniDoes s x (.smulhi f) i os2 t.wide
      (fun v => wrap t.w (ext t (v .a) * ext t (v .b) / ((2 ^ t.w : Nat) : Int))) none keepS keepC ∧
    UniDoes s x (.sand f) i os2 t.wide (fun v => v .a &&& v .b) none keepS keepC ∧
    UniDoes s x (.sor f) i os2 t.wide (fun v => v .a ||| v .b) none keepS keepC ∧
    UniDoes s x (.sxor f) i os2 t.wide (fun v => v .a ^^^ v .b) none keepS keepC ∧
    UniDoes s x (.sandn f) i os2 t.wide (fun v => v .a &&& (2 ^ t.w - 1 - v .b % 2 ^ t.w)) none keepS keepC ∧
    UniDoes s x (.sshl f) i osN t.wide (fun v => fit t (satOf f) (ext t (v .a) * ((2 ^ (v .b % t.w) : Nat) : Int))) none keepS keepC ∧
    UniDoes s x (.sshr f) i osN t.wide (fun v => v .a % 2 ^ t.w / 2 ^ (v .b % t.w)) none keepS keepC ∧
    UniDoes s x (.ssra f) i osN t.wide (fun v => wrap t.w (sgn t.w (v .a) / ((2 ^ (v .b % t.w) : Nat) : Int))) none keepS keepC ∧
    UniDoes s x (.sbfe f) i osE t.wide (fun v => bfeOf t (v .a) (v .b) (v .c)) none keepS keepC ∧
    UniDoes s x (.spopc f) i os1 t.wide (fun v => popcount t.w (v .a)) none keepS keepC ∧
    UniDoes s x (.sclz f) i os1 t.wide (fun v => clz t.w (v .a)) none keepS keepC ∧
    UniDoes s x (.smin f) i os2 t.wide (fun v => fit t (satOf f) (min (ext t (v .a)) (ext t (v .b)))) none keepS keepC ∧
    UniDoes s x (.smax f) i os2 t.wide (fun v => fit t (satOf f) (max (ext t (v .a)) (ext t (v .b)))) none keepS keepC ∧
    UniDoes s x (.smov f) i os1 t.wide (fun v => v .a) none keepS keepC ∧
    UniDoes s x (.ssel f) i os2 t.wide (fun v => if x.f.scc then v .a else v .b) none keepS keepC ∧
    UniDoes s x (.scmp f) i osC false (fun v => if intCond t (f.mod.toNat % 8) (v .a) (v .b) then 1 else 0) none
      (fun v => intCond t (f.mod.toNat % 8) (v .a) (v .b)) keepC ∧
    UniDoes s x (.slea f) i osL true
      (fun v => wrap 64 ((v .a : Int) + ext t (v .b) * ((2 ^ (v .c % 8) : Nat) : Int))) none keepS keepC ∧
    UniDoes s x (.smovk f) i osK t.wide
      (fun v => (v .a &&& v .c) ||| (oldUni s x i.d t.wide &&& (2 ^ t.w - 1 - v .c % 2 ^ t.w))) none keepS keepC ∧
    UniDoes s x (.smff1 f) i os1 t.wide (fun v => ctz t.w (v .a)) none (fun v => v .a != 0) keepC ∧
    UniDoes s x (.saddi h) (usView h) osI false (fun v => fit .i32 false (ext .i32 (v .a) + ext .i32 (v .b))) none keepS
      (fun v => carryAdd .i32 (v .a) (v .b)) ∧
    UniDoes s x (.smovi k) (usiView k) osM false (fun v => v .a) none keepS keepC) ∧
  ∀ (s : State) (x : Ctx) (f : Lg),
    let t := ftyOf f
    let m := fmtOf t
    let rm := frmOf f
    let i := lgView f
    let os2 : Opnds := [(.d, .dstU t false), (.a, .uni t), (.b, .uni t)]
    let os3 : Opnds := [(.d, .dstU t false), (.a, .uni t), (.b, .uni t), (.c, .uni t)]
    let keepS := fun (_ : Fld → Nat) => x.f.scc
    let keepC := fun (_ : Fld → Nat) => x.f.carry
    UniDoes s x (.sfadd f) i os2 t.wide (fun v => (fpAdd m rm (v .a) (v .b)).1) (fun v => (fpAdd m rm (v .a) (v .b)).2) keepS keepC ∧
    UniDoes s x (.sfmul f) i os2 t.wide (fun v => (fpMul m rm (v .a) (v .b)).1) (fun v => (fpMul m rm (v .a) (v .b)).2) keepS keepC ∧
    UniDoes s x (.sfma f) i os3 t.wide (fun v => (fpFma m rm (v .a) (v .b) (v .c)).1) (fun v => (fpFma m rm (v .a) (v .b) (v .c)).2)
      keepS keepC

/-! ### Control, divergence, traps -/

/-- Branches (R27, R66, R190, R218): JMP, BRS, BRZ, CALL, RET and JMPI with the short forms go to their target or to the fall-through, the
condition being one for the fragment; CALL writes the fall-through to its pair; nothing else changes. RET and JMPI to an address that is no
multiple of 4 take ALIGN with that address. YIELD and NOP go on to the next instruction. -/
def Obligations.Branches : Prop :=
  (∀ (s : State) (x : Ctx) (f : Lb) (b : Br) (n : NopF),
     let len := 2 + tailLen f.lit f.sp
     let far := branchTarget x (sgn 32 f.w1.toNat)
     let near := branchTarget x (sgn 20 b.off.toNat)
     let sel := sel10 f.sel
     let w64 := bitAt f.lo.toNat 5
     let useZ := useOf (if w64 then .spair false else .sreg) sel
     let useC := useOf (.dstS true false) sel
     let useR := useOf (.spair false) sel
     (CtlReady s x (.jmp f) len true Use.none → BranchStep s x Use.none far (exec (.jmp f) s)) ∧
     (CtlReady s x (.brs f) len true Use.none →
       BranchStep s x Use.none (if x.f.scc = bitAt f.lo.toNat 5 then far else x.f.fallThrough) (exec (.brs f) s)) ∧
     (∀ r, sel = .s r → CtlReady s x (.brz f) len true useZ →
       BranchStep s x useZ (if sval x.g w64 r = 0 then far else x.f.fallThrough) (exec (.brz f) s)) ∧
     (∀ r, sel = .s r → CtlReady s x (.call f) len true useC →
       ∃ t g, exec (.call f) s = .next t ∧ Tab.get? t.groups x.gid = some g ∧ sval g true r = x.f.fallThrough ∧
         BranchesTo x t far ∧ RegistersOnly x.gid s t ∧ GroupKeeps x t useC ∧ StickyIs x t x.g.sticky) ∧
     (∀ r, sel = .s r → sval x.g true r % 4 = 0 → CtlReady s x (.ret f) len true useR →
       BranchStep s x useR (sval x.g true r) (exec (.ret f) s)) ∧
     (∀ r, sel = .s r → sval x.g true r % 4 = 0 → CtlReady s x (.jmpi f) len true useR →
       BranchStep s x useR (sval x.g true r) (exec (.jmpi f) s)) ∧
     (CtlReady s x (.jmpShort b) (1 + tailLen none b.sp) true Use.none →
       BranchStep s x Use.none near (exec (.jmpShort b) s)) ∧
     (CtlReady s x (.brsShort b) (1 + tailLen none b.sp) true Use.none →
       BranchStep s x Use.none (if x.f.scc = bitAt b.cond.toNat 0 then near else x.f.fallThrough) (exec (.brsShort b) s)) ∧
     (CtlReady s x (.yield f) len false Use.none →
       ∃ t, exec (.yield f) s = .next t ∧ RegistersOnly x.gid s t ∧ GroupKeeps x t Use.none ∧ StickyIs x t x.g.sticky ∧
         GoesOn x t len 0 x.f.scc x.f.carry x.f.exec ∧
         (x.f.isLast len = false ∨ ¬ MeetsRpc x x.f.fallThrough →
           ∃ g h, Tab.get? t.groups x.gid = some g ∧ g.frag? x.fi = some h ∧ h.yielded = true)) ∧
     (s.issuer = some x →
       ∃ t, exec (.nop n) s = .next t ∧ RegistersOnly x.gid s t ∧ GroupKeeps x t Use.none ∧ StickyIs x t x.g.sticky ∧
         GoesOn x t (1 + tailLen none n.sp) 0 x.f.scc x.f.carry x.f.exec)) ∧
  (∀ (s : State) (x : Ctx) (f : Lb) (r : Nat), sel10 f.sel = .s r → sval x.g true r % 4 ≠ 0 →
     (CtlReady s x (.ret f) (2 + tailLen f.lit f.sp) true (useOf (.spair false) (.s r)) →
       ∃ t, exec (.ret f) s = .next t ∧ RegistersOnly x.gid s t ∧
         TrapTaken x t x.f.pc0 x.f.pc x.f.idx 0x07 (sval x.g true r) 0 x.f.scc (formatWords x.f)) ∧
     (CtlReady s x (.jmpi f) (2 + tailLen f.lit f.sp) true (useOf (.spair false) (.s r)) →
       ∃ t, exec (.jmpi f) s = .next t ∧ RegistersOnly x.gid s t ∧
         TrapTaken x t x.f.pc0 x.f.pc x.f.idx 0x07 (sval x.g true r) 0 x.f.scc (formatWords x.f)))

/-- SPLIT (R191, R221): with lanes on one side only it is a branch; with lanes on both and a depth that would pass 64 it takes SPLITOVF;
otherwise it completes, and where the table has room and neither way is a reconvergence point, a region that expects the members is
opened, the taken lanes become a fragment at the target with SCC copied, and the rest goes on at the fall-through, both one level
deeper. -/
def Obligations.SplitDivides : Prop :=
  ∀ (s : State) (x : Ctx) (f : Lb) (r : Nat),
    let u := useOf (.spair false) (.s r)
    let taken := BitVec.ofNat 64 (sval x.g true r) &&& x.f.exec
    let rest := x.f.members &&& ~~~taken
    let target := branchTarget x (sgn 16 (f.w1.toNat / 2 ^ 16))
    let rpc := branchTarget x (sgn 16 f.w1.toNat)
    sel10 f.sel = .s r → CtlReady s x (.split f) (2 + tailLen f.lit f.sp) true u →
    (taken = 0 → BranchStep s x u x.f.fallThrough (exec (.split f) s)) ∧
    (taken ≠ 0 → rest = 0 → BranchStep s x u target (exec (.split f) s)) ∧
    (taken ≠ 0 → rest ≠ 0 → 64 < x.f.depth + 1 →
      ∃ t, exec (.split f) s = .next t ∧ RegistersOnly x.gid s t ∧
        TrapTaken x t x.f.pc0 x.f.pc x.f.idx 0x0A 0 0 x.f.scc (formatWords x.f)) ∧
    (taken ≠ 0 → rest ≠ 0 → x.f.depth + 1 ≤ 64 →
      ∃ t, exec (.split f) s = .next t ∧ RegistersOnly x.gid s t ∧ GroupKeeps x t u ∧ StickyIs x t x.g.sticky) ∧
    (taken ≠ 0 → rest ≠ 0 → x.f.depth + 1 ≤ 64 → 3 ≤ freeEntries x.g → rpc ≠ target → rpc ≠ x.f.fallThrough →
      (∀ id ri q, x.g.region? id = some (ri, q) → q.rpc ≠ target ∧ q.rpc ≠ x.f.fallThrough) →
      ∃ t g k ri id a c, exec (.split f) s = .next t ∧ Tab.get? t.groups x.gid = some g ∧
        k ≠ x.fi ∧ ri ≠ x.fi ∧ ri ≠ k ∧ k < 8 ∧ ri < 8 ∧
        Tab.get? x.g.split k = none ∧ Tab.get? x.g.split ri = none ∧
        Tab.get? g.split ri = some (.region { id := id, rpc := rpc, expected := x.f.members, arrived := 0, depth := x.f.depth + 1,
                                              outer := x.f.region }) ∧
        Tab.get? g.split x.fi = some (.frag a) ∧ a.members = rest ∧ a.exec = x.f.exec &&& ~~~taken ∧ a.pc = x.f.fallThrough ∧
        a.depth = x.f.depth + 1 ∧ a.region = some id ∧ a.scc = x.f.scc ∧ a.carry = x.f.carry ∧ a.cond = .ready ∧
        Tab.get? g.split k = some (.frag c) ∧ c.members = taken ∧ c.exec = taken ∧ c.pc = target ∧
        c.depth = x.f.depth + 1 ∧ c.region = some id ∧ c.scc = x.f.scc ∧ c.cond = .ready ∧ c.latches = [] ∧
        (∀ j, j ≠ x.fi → j ≠ k → j ≠ ri → Tab.get? g.split j = Tab.get? x.g.split j))

/-- BREAK (R192, R225): a count above the depth takes ILLOPND; otherwise it completes and writes no register. With EXEC zero only the
current fragment goes on, at the fall-through. From one region that still expects others and has no region around it, its active lanes
become a fragment at the target, one level out, and the rest goes on at the fall-through with EXEC zero. -/
def Obligations.BreakLeaves : Prop :=
  ∀ (s : State) (x : Ctx) (f : Lb),
    let n := f.sel.toNat / 64
    let target := branchTarget x (sgn 32 f.w1.toNat)
    CtlReady s x (.break f) (2 + tailLen f.lit f.sp) true Use.none →
    (x.f.depth < n →
      ∃ t, exec (.break f) s = .next t ∧ RegistersOnly x.gid s t ∧
        TrapTaken x t x.f.pc0 x.f.pc x.f.idx 0x02 0 0 x.f.scc (formatWords x.f)) ∧
    (n ≤ x.f.depth → ∃ t, exec (.break f) s = .next t ∧ RegistersOnly x.gid s t ∧ GroupKeeps x t Use.none ∧ StickyIs x t x.g.sticky) ∧
    (n ≤ x.f.depth → x.f.exec = 0 → x.f.members ≠ 0 → BranchStep s x Use.none x.f.fallThrough (exec (.break f) s)) ∧
    (∀ rid ri q, n = 1 → 1 ≤ x.f.depth → x.f.exec ≠ 0 → x.f.members &&& ~~~x.f.exec ≠ 0 → 3 ≤ freeEntries x.g →
      x.f.region = some rid → x.g.region? rid = some (ri, q) → Tab.get? x.g.split ri = some (.region q) → q.outer = none →
      q.rpc ≠ x.f.fallThrough → q.expected &&& ~~~x.f.exec ≠ 0 → q.arrived ≠ q.expected &&& ~~~x.f.exec →
      ∃ t g k a c, exec (.break f) s = .next t ∧ Tab.get? t.groups x.gid = some g ∧ k ≠ x.fi ∧ Tab.get? x.g.split k = none ∧
        Tab.get? g.split ri = some (.region { q with expected := q.expected &&& ~~~x.f.exec }) ∧
        Tab.get? g.split x.fi = some (.frag a) ∧ a.members = x.f.members &&& ~~~x.f.exec ∧ a.exec = 0 ∧ a.pc = x.f.fallThrough ∧
        a.depth = x.f.depth ∧ a.region = some rid ∧ a.scc = x.f.scc ∧
        Tab.get? g.split k = some (.frag c) ∧ c.members = x.f.exec ∧ c.exec = x.f.exec ∧ c.pc = target ∧
        c.depth = x.f.depth - 1 ∧ c.region = none ∧ c.scc = x.f.scc ∧ c.cond = .ready)

/-- EXIT ends the fragment for all its members, writing no register (R193): outside every region its entry is freed and the others keep
theirs, and when it is the last live fragment the group goes to RETIRING (R34, R219); in a region that has no region around it and
still expects others, the members are no longer expected. -/
def Obligations.ExitEnds : Prop :=
  ∀ (s : State) (x : Ctx) (f : Lb), CtlReady s x (.exit f) (2 + tailLen f.lit f.sp) true Use.none →
    ∃ t g, exec (.exit f) s = .next t ∧ RegistersOnly x.gid s t ∧ Tab.get? t.groups x.gid = some g ∧
      g.v = x.g.v ∧ g.s = x.g.s ∧ g.sticky = x.g.sticky ∧ g.trapcnt = x.g.trapcnt ∧ g.fcnt = x.g.fcnt ∧
      (x.f.region = none →
        Tab.get? g.split x.fi = none ∧ (∀ k, k ≠ x.fi → Tab.get? g.split k = Tab.get? x.g.split k) ∧
        ((∀ e ∈ x.g.frags, e.1 = x.fi) → g.state = .retiring ∧ ∃ h, g.exited = some (x.fi, h) ∧ h.members = x.f.members)) ∧
      (∀ rid ri q, x.f.region = some rid → x.g.region? rid = some (ri, q) → Tab.get? x.g.split ri = some (.region q) →
        q.outer = none → q.expected &&& ~~~x.f.members ≠ 0 → q.arrived ≠ q.expected &&& ~~~x.f.members →
        Tab.get? g.split x.fi = none ∧
        Tab.get? g.split ri = some (.region { q with expected := q.expected &&& ~~~x.f.members }))

/-- TRAP takes SWTRAP with its operand in INFO0, to resume at the next instruction, SCC and CARRY recorded (R212, R215, R216, R218). A failed
check takes its trap with nothing else changed (R60, R75, R215): an instruction with a reserved field takes ILLOP; operands take the trap that
the operand checks name; shown for VADD and SADD. -/
def Obligations.TrapsTaken : Prop :=
  (∀ (s : State) (x : Ctx) (f : Lg),
     let os : Opnds := [(.b, .uni .n32)]
     let i := lgView f
     let v := opVal s x i os .b 0
     Issues s x (.trap f) i os →
     ∃ t, exec (.trap f) s = .next t ∧ RegistersOnly x.gid s t ∧
       TrapTaken x t x.f.pc0 (if x.f.isLast i.len then x.f.fallThrough else x.f.pc) (if x.f.isLast i.len then 0 else x.f.idx + i.len)
         0x12 v 0 x.f.scc (formatWords x.f)) ∧
  (∀ (s : State) (x : Ctx) (f : Lg) (code i0 i1 : Nat), s.issuer = some x →
     let t := ityOf f
     let osV := dab t t t
     let osU : Opnds := [(.d, .dstU t false), (.a, .uni t), (.b, .uni t)]
     (fieldsOk (.vadd f) = false →
       ∃ u, exec (.vadd f) s = .next u ∧ RegistersOnly x.gid s u ∧
         TrapTaken x u x.f.pc0 x.f.pc x.f.idx 0x01 0 0 x.f.scc (formatWords x.f)) ∧
     (fieldsOk (.sadd f) = false →
       ∃ u, exec (.sadd f) s = .next u ∧ RegistersOnly x.gid s u ∧
         TrapTaken x u x.f.pc0 x.f.pc x.f.idx 0x01 0 0 x.f.scc (formatWords x.f)) ∧
     (fieldsOk (.vadd f) = true → operandGate s x (usesOf (lgView f) osV) = .trap code i0 i1 →
       ∃ u, exec (.vadd f) s = .next u ∧ RegistersOnly x.gid s u ∧
         TrapTaken x u x.f.pc0 x.f.pc x.f.idx code i0 i1 x.f.scc (formatWords x.f)) ∧
     (fieldsOk (.sadd f) = true → operandGate s x (usesOf (lgView f) osU) = .trap code i0 i1 →
       ∃ u, exec (.sadd f) s = .next u ∧ RegistersOnly x.gid s u ∧
         TrapTaken x u x.f.pc0 x.f.pc x.f.idx code i0 i1 x.f.scc (formatWords x.f)))

/-- The operand conditions are taken in the order of R60: illegal operands, V registers at or above VCOUNT with the lowest of them, stale latches,
waiting, and only then errors in the registers read, where a word with two wrong bits takes REGDBE with its register number, and otherwise words with
one wrong bit are corrected and the instruction is replayed (R61); without any, the instruction goes on. A range of V registers that reaches past
VCOUNT, or of S registers past S383, takes REGIDX with the first register past the limit and the register file (R59, R194, R218). The values of
sources (R46, R49 to R52, R56, R57, R377): registers and pairs, inline constants, the literal at the operand's type, NULL, the special registers,
latches at the operand's width, queue entries. That a 32-bit special register read at 64 bits is zero-extended is the model's choice (log 76), and so
is it that the words checked for errors are the active lanes' (log 97). -/
def Obligations.OperandChecksInOrder : Prop :=
  (∀ (s : State) (x : Ctx) (u : Use),
    let calm := u.bad = false ∧ u.lits < 2 ∧ (∀ k ∈ u.vs, k < x.g.vcount) ∧ ∀ n ∈ u.latches, latchOk x.f n = true
    let here := calm ∧ (∀ n ∈ u.qs, queueReady x.g n = true) ∧ (∀ k ∈ u.rd ++ u.wr, Tab.get? x.g.pend k = none) ∧
      ∀ k ∈ u.rd, Tab.get? x.g.note k ≠ some .empty
    let wrong := fun (k : Nat) (double : Bool) => ∃ l, (if k < 128 then l < 64 ∧ inMask x.f.exec l = true else l = 0) ∧
      Tab.get? (s.core (x.gid / 128)).bad (badKey (rowOf x k) l) = some double
    ((u.bad = true ∨ 2 ≤ u.lits) → operandGate s x u = .trap 0x02 0 0) ∧
    (u.bad = false → u.lits < 2 → ∀ n, n ∈ u.vs → x.g.vcount ≤ n → (∀ k ∈ u.vs, x.g.vcount ≤ k → n ≤ k) →
      operandGate s x u = .trap 0x05 n 0) ∧
    (u.bad = false → u.lits < 2 → (∀ k ∈ u.vs, k < x.g.vcount) → (∃ n ∈ u.latches, latchOk x.f n = false) →
      operandGate s x u = .trap 0x06 0 0) ∧
    (calm →
      ((∃ n ∈ u.qs, queueReady x.g n = false) ∨ (∃ k ∈ u.rd ++ u.wr, (Tab.get? x.g.pend k).isSome = true) ∨
        (∃ k ∈ u.rd, Tab.get? x.g.note k = some .empty)) →
      ∃ w, operandGate s x u = .park w) ∧
    (here → (∃ k ∈ u.rd, wrong k true) → ∃ k ∈ u.rd, wrong k true ∧ operandGate s x u = .trap 0x11 (if k < 128 then k else k - 128) 0) ∧
    (here → (∀ k ∈ u.rd, ¬ wrong k true) → (∃ k ∈ u.rd, wrong k false) → ∃ ws, operandGate s x u = .replay ws) ∧
    (here → (∀ k ∈ u.rd, ¬ wrong k true ∧ ¬ wrong k false) → operandGate s x u = .go)) ∧
  (∀ (s : State) (x : Ctx) (f : Lg) (base : Nat), s.issuer = some x → rangeBase (sel10 f.a) = some base →
    ∀ e ∈ [(Instr.capmint f, ([(.d, .dstS true false)] : Opnds), 128), (.expect f, [], 128), (.npoll f, [(.d, .dstS false true)], 32)],
      let n := opVal s x (lgView f) (rangeOps e.2.1) .b 0
      let ends := fun (i0 i1 : Nat) => ∃ t, exec e.1 s = .next t ∧ RegistersOnly x.gid s t ∧
        TrapTaken x t x.f.pc0 x.f.pc x.f.idx 0x05 i0 i1 x.f.scc (formatWords x.f)
      fieldsOk e.1 = true → operandGate s x (Use.and (baseUse (sel10 f.a)) (usesOf (lgView f) (rangeOps e.2.1))) = .go → 0 < n → n ≤ e.2.2 →
      (e.1 = .capmint f → f.mod.toNat % 4 ≠ 0 ∧ (bitAt f.mod.toNat 0 = true → base < 128)) →
      (base < 128 → x.g.vcount < base + n → ends x.g.vcount 0) ∧ (128 ≤ base → 128 + 384 < base + n → ends 384 1)) ∧
  ∀ (s : State) (x : Ctx) (lit : Option Word) (t : OpTy) (l : Nat), l < 64 →
    let rd := fun (sel : Sel) => readSel s x lit t sel l
    let widened := fun (w : Word) => match t with
      | .i64 => (sgn 32 w.toNat % ((2 ^ 64 : Nat) : Int)).toNat
      | .f64 => w.toNat * 2 ^ 32
      | _ => w.toNat
    let floats : List Nat := match t with
      | .f16x2 => [0x38003800, 0xB800B800, 0x3C003C00, 0xBC00BC00, 0x40004000, 0xC000C000, 0x44004400, 0xC400C400]
      | .bf16x2 => [0x3F003F00, 0xBF00BF00, 0x3F803F80, 0xBF80BF80, 0x40004000, 0xC000C000, 0x40804080, 0xC080C080]
      | _ => if t.wide then
          [0x3FE0 * 2 ^ 48, 0xBFE0 * 2 ^ 48, 0x3FF0 * 2 ^ 48, 0xBFF0 * 2 ^ 48, 0x4000 * 2 ^ 48, 0xC000 * 2 ^ 48, 0x4010 * 2 ^ 48, 0xC010 * 2 ^ 48]
        else [0x3F000000, 0xBF000000, 0x3F800000, 0xBF800000, 0x40000000, 0xC0000000, 0x40800000, 0xC0800000]
    (∀ n, rd (.v n) = vval x.g t.wide n l ∧ rd (.s n) = sval x.g t.wide n) ∧
    (∀ c, c ≤ 16 → rd (.const c) = c) ∧ (∀ c, 17 ≤ c → c ≤ 23 → rd (.const c) + (c - 16) = 2 ^ bitsOf t.wide) ∧
    (∀ k, k < 8 → rd (.const (24 + k)) = nth floats k 0) ∧ (∀ w, lit = some w → rd .lit = widened w) ∧ rd .null = 0 ∧
    rd .laneid = l ∧ rd .exec = x.f.exec.toNat % 2 ^ bitsOf t.wide ∧
    (x.g.sticky < 256 → x.g.sticky % 4 = 0 → rd .flags = (if x.f.scc then 1 else 0) + (if x.f.carry then 2 else 0) + x.g.sticky) ∧
    rd .gslot = x.gid % 128 ∧ rd .teamid = x.g.teamid.toNat ∧ rd .cohid = x.g.cohid.toNat ∧ (x.gid < 2 ^ 14 → rd .core = x.gid / 128) ∧
    rd .clock = s.clock % 2 ^ bitsOf t.wide ∧ rd .prio = x.g.eprio % 16 + x.g.bprio % 16 * 2 ^ 4 ∧ rd .topv = s.topv % 2 ^ 16 ∧
    (x.g.fcnt.length = 12 → (∀ n ∈ x.g.fcnt, n ≤ 63) → rd .cfcnt / 2 ^ 12 = x.g.fcnt.sum ∧
      ∀ n, n < 12 → (bitAt (rd .cfcnt) n = true ↔ nth x.g.fcnt n 0 ≠ 0)) ∧
    (∀ n y, Tab.get? x.f.latches n = some y →
      let w := nth y.vals (if y.uniform then 0 else l) 0
      rd (.latch n) = if t.wide = false then w.toNat % 2 ^ 32 else if y.wide then w.toNat else widened (loHalf w)) ∧
    ∀ n e r ws, nth x.g.queues n [] = e :: r → e.val = some ws →
      (n ≤ 3 → t.wide = false → rd (.q n) = (nth ws l 0).toNat) ∧
      (4 ≤ n → n ≤ 6 → t.wide = true → rd (.q n) = (nth ws 0 0).toNat + (nth ws 1 0).toNat * 2 ^ 32)

/-- TRET in a handler restores EXEC (ANDed with the members), SCC and CARRY from the record, ends handler mode and goes to RPC, to resume
at word RIDX; outside a handler it takes PRIV (R214, R217). -/
def Obligations.TrapReturns : Prop :=
  ∀ (s : State) (x : Ctx) (f : Lg),
    let rpc := (x.g.spair 370).toNat
    let ridx := (x.g.sreg 372).toNat % 16
    Issues s x (.tret f) (lgView f) [] →
    (x.g.hmode = some x.fi → operandGate s x (Use.and (usesOf (lgView f) []) { Use.none with rd := tretRegs }) = .go → rpc % 4 = 0 →
      ∃ t g, exec (.tret f) s = .next t ∧ RegistersOnly x.gid s t ∧ Tab.get? t.groups x.gid = some g ∧
        g.v = x.g.v ∧ g.s = x.g.s ∧ g.sticky = x.g.sticky ∧ g.trapcnt = x.g.trapcnt ∧
        (ridx ≠ 0 ∨ ¬ MeetsRpc x rpc →
          ∃ h, g.hmode = none ∧ g.frag? x.fi = some h ∧ h.pc = rpc ∧ h.idx = 0 ∧ h.resume = (if ridx = 0 then none else some ridx) ∧
            h.exec = x.g.spair 374 &&& x.f.members ∧ h.members = x.f.members ∧
            h.scc = bitAt (x.g.sreg 383).toNat 0 ∧ h.carry = bitAt (x.g.sreg 383).toNat 1 ∧
            (∀ k, k ≠ x.fi → Tab.get? g.split k = Tab.get? x.g.split k))) ∧
    (x.g.hmode ≠ some x.fi →
      ∃ t, exec (.tret f) s = .next t ∧ RegistersOnly x.gid s t ∧
        TrapTaken x t x.f.pc0 x.f.pc x.f.idx 0x09 0 0 x.f.scc (formatWords x.f))

/-! ### Memory instructions -/

/-- GLD, GST, ULD and UST issue as outstanding operations (R30, R42, R144 to R146, R151, R152): address of each active lane, bytes to
store, destinations pending, flag counted. No register changes at issue, and no byte of memory before the first of its pages is found or refused. CPF
joins no flag and makes no register pending: it leaves a prefetch and goes on (R154). -/
def Obligations.GlobalAccessesIssue : Prop :=
  (∀ (s : State) (x : Ctx) (f : Lm),
     let ld := fun (u : Bool) => lmIssue 0x10 (if u then 2 else 0) u false f x
     let st := fun (u : Bool) => lmIssue 0x10 (if u then 3 else 1) u true f x
     let dst := spanKeys (loadRegs f.size.toNat) (sel10 f.d)
     let base := fun (kind : OpKind) (uni store : Bool) =>
       { blankOp s x kind (joinFlag x.f f.fs) with
         dest := if store then none else destKey (sel10 f.d), uni := uni, size := f.size.toNat, sx := f.sx, order := f.order.toNat
         scope := f.scope.toNat, acc := lmAccesses s x f uni store }
     (∀ u, MemReady s x (ld u) .load →
       ∃ t, exec (if u then .uld f else .gld f) s = .next t ∧ OpIssued s x t (2 + tailLen f.lit f.sp) (base .load u false) dst ∧
         ((∀ p, Tab.get? t.ops s.nextOp = some p → p.stage = .translate ∧ p.found = [] ∧ p.bad = []) → ∀ a, t.mem.read a = s.mem.read a)) ∧
     (∀ u, MemReady s x (st u) .store →
       ∃ t, exec (if u then .ust f else .gst f) s = .next t ∧ OpIssued s x t (2 + tailLen f.lit f.sp) (base .store u true) [] ∧
         ((∀ p, Tab.get? t.ops s.nextOp = some p → p.stage = .translate ∧ p.found = [] ∧ p.bad = []) → ∀ a, t.mem.read a = s.mem.read a))) ∧
  (∀ (s : State) (x : Ctx) (f : Lm),
     let i : MemIssue :=
       { ok := fieldsOk (.cpf f), use := useAddr false (sel10 f.addr), len := 2 + tailLen f.lit f.sp, sp := f.sp.isSome, flag := none
         vector := true, align := none, addrs := laneAddrs x false (sel10 f.addr) (sgn 16 f.off.toNat) 1, writes := 0
         padWrites := [], replay := false }
     MemReady s x i .load →
     ∃ t p, exec (.cpf f) s = .next t ∧ GroupCounts x t none ∧ GoesOn x t i.len 0 x.f.scc x.f.carry x.f.exec ∧
       Tab.get? t.ops s.nextOp = some p ∧ p.kind = .prefetch ∧ p.flag = none ∧ p.dest = none ∧ p.lanes = x.f.exec ∧
       (∀ a ∈ p.acc, ∃ b ∈ i.addrs, a.lane = b.1 ∧ a.va = b.2 % 2 ^ 64))

/-- GATOM and UATOM issue as outstanding operations with each lane's operands read at issue (R151, R157 to R160). -/
def Obligations.GlobalAtomicsIssue : Prop :=
  ∀ (s : State) (x : Ctx) (f : La) (u : Bool),
    let i := laIssue (if u then 3 else 0) u true f x
    let n := if f.ty.toNat = 2 then 8 else 4
    let vals := fun (sel : Sel) => i.addrs.map fun a => (a.1, readSel s x f.lit (atomTy f.ty.toNat) sel a.1)
    let o : Op := { blankOp s x .atomic (joinFlag x.f f.fs) with
      dest := destKey (sel10 f.d), uni := u, order := f.order.toNat, scope := f.scope.toNat, aop := f.aop.toNat, ty := f.ty.toNat
      data := vals (sel10 f.data), cmp := if f.aop = 8 then vals (sel10 f.cmp) else []
      acc := i.addrs.flatMap fun a => laneAccs a.1 a.2 n [] }
    MemReady s x i .atomic →
    ∃ t, exec (if u then .uatom f else .gatom f) s = .next t ∧
      OpIssued s x t (3 + tailLen f.lit f.sp) o (spanKeys (atomRegs f.ty.toNat f.scope.toNat) (sel10 f.d))

/-- SLD, SST, XLD and XST issue as outstanding operations on the scratchpads of the team or the cohort (R155, R156); a lane out of range has its
access done, with zeros. No byte of memory and no byte of any scratchpad changes at issue. SATOM and XATOM issue as outstanding operations on
scratchpads (R157, R159). No byte of memory or of a scratchpad changes at issue. That an atomic lane out of range is done, with zeros, as a load's is,
is the model's choice (log 35). -/
def Obligations.ScratchpadOperationsIssue : Prop :=
  (∀ (s : State) (x : Ctx) (f : Lm) (cohort store : Bool),
     let n := 2 ^ f.size.toNat
     let minor := (if cohort then 2 else 0) + (if store then 1 else 0)
     let i0 := lmIssue 0x11 minor false store f x
     let i := { i0 with padWrites := if store then padSpans s x cohort n i0.addrs else [] }
     let o : Op := { blankOp s x (if store then .sstore else .sload) (joinFlag x.f f.fs) with
       dest := if store then none else destKey (sel10 f.d), size := f.size.toNat, sx := f.sx, order := f.order.toNat
       scope := f.scope.toNat
       acc := i.addrs.flatMap fun a => padAccs (padPlace s x cohort a.2 n) a.1 a.2 n
         (if store then toBytes n (storeValue s x f.lit f.size.toNat (sel10 f.d) a.1) else []) }
     MemReady s x i .load →
     ∃ t, exec (if cohort then (if store then .xst f else .xld f) else (if store then .sst f else .sld f)) s = .next t ∧
       OpIssued s x t (2 + tailLen f.lit f.sp) o (if store then [] else spanKeys (loadRegs f.size.toNat) (sel10 f.d)) ∧
       t.mem = s.mem ∧ ∀ k tm, Tab.get? s.teams k = some tm → ∃ tn, Tab.get? t.teams k = some tn ∧ tn.pad = tm.pad) ∧
  (∀ (s : State) (x : Ctx) (f : La) (cohort : Bool),
     let n := if f.ty.toNat = 2 then 8 else 4
     let i0 := laIssue (if cohort then 2 else 1) false false f x
     let i := { i0 with padWrites := padSpans s x cohort n i0.addrs }
     let vals := fun (sel : Sel) => i.addrs.map fun a => (a.1, readSel s x f.lit (atomTy f.ty.toNat) sel a.1)
     let o : Op := { blankOp s x .satomic (joinFlag x.f f.fs) with
       dest := destKey (sel10 f.d), order := f.order.toNat, scope := f.scope.toNat, aop := f.aop.toNat, ty := f.ty.toNat
       data := vals (sel10 f.data), cmp := if f.aop = 8 then vals (sel10 f.cmp) else []
       acc := i.addrs.flatMap fun a => padAccs (padPlace s x cohort a.2 n) a.1 a.2 n [] }
     MemReady s x i .load →
     ∃ t, exec (if cohort then .xatom f else .satom f) s = .next t ∧
       OpIssued s x t (3 + tailLen f.lit f.sp) o (spanKeys (atomRegs f.ty.toNat f.scope.toNat) (sel10 f.d)) ∧
       t.mem = s.mem ∧ ∀ k tm, Tab.get? s.teams k = some tm → ∃ tn, Tab.get? t.teams k = some tn ∧ tn.pad = tm.pad)

/-- When a memory instruction does not issue, for every vector and uniform form of global memory, scratchpads and atomics (R31, R146, R149,
R150, R152, R264): with EXEC zero a vector access is not performed and the fragment goes on; an ordered access or an atomic with a misaligned
lane is translated first, where its pages fault parks FAULT with one event, and otherwise takes ALIGN with the lowest failing lane's address; a
store or atomic that would reach a barrier or lock object with waiters takes OBJWR with the object's address; a full flag and an earlier
instruction that is not translated park the fragment with nothing else changed. That the event is the fragment's own, and the trap the
instruction's at its issue, is the model's choice (log 90). -/
def Obligations.MemoryIssueStops : Prop :=
  ∀ (s : State) (x : Ctx) (f : Lm) (q : La), s.issuer = some x → ∀ e ∈ memForms s x f q,
    let i := e.2.1
    let tr := fun (n : Nat) => translatePages s (opXer (alignOp s x i e.2.2 n)) e.2.2 false (pagesOf (alignOp s x i e.2.2 n))
    i.ok = true → operandGate s x i.use = .go →
    (i.vector = true → x.f.exec = 0 →
      ∃ t, exec e.1 s = .next t ∧ RegistersOnly x.gid s t ∧ GroupKeeps x t i.use ∧ StickyIs x t x.g.sticky ∧
        GoesOn x t i.len 0 x.f.scc x.f.carry x.f.exec) ∧
    (∀ n a, i.align = some n → i.addrs.find? (fun b => b.2 % n != 0) = some a →
      (i.pad = true → ∃ t, exec e.1 s = .next t ∧ RegistersOnly x.gid s t ∧
        TrapTaken x t x.f.pc0 x.f.pc x.f.idx 0x07 a.2 0 x.f.scc (formatWords x.f)) ∧
      (i.pad = false → allTranslated s x.g.uid = true →
        ((tr n).2.2 = [] → ∃ t, exec e.1 s = .next t ∧ t.ops = s.ops ∧
          TrapTaken x t x.f.pc0 x.f.pc x.f.idx 0x07 a.2 0 x.f.scc (formatWords x.f)) ∧
        (faultsOf (tr n).2.2 ≠ [] → ∃ t ev v, exec e.1 s = .next t ∧ t.ops = s.ops ∧ t.nextOp = s.nextOp + 1 ∧
          Tab.get? t.events ev = some v ∧ v.agent = .access x.gid x.f.id ∧ v.part = x.g.part ∧ ParksFor x t (· = .fault ev)))) ∧
    ((i.vector = true → x.f.exec ≠ 0) → (∀ n, i.align = some n → ∀ a ∈ i.addrs, a.2 % n = 0) → objectWaits s x i e.2.2 = none →
      (∀ obj, objectHit s x i e.2.2 = some obj → ∃ t, exec e.1 s = .next t ∧ RegistersOnly x.gid s t ∧
        TrapTaken x t x.f.pc0 x.f.pc x.f.idx 0x0C obj 0 x.f.scc (formatWords x.f)) ∧
      (objectHit s x i e.2.2 = none → ((∃ k, i.flag = some k ∧ 63 ≤ nth x.g.fcnt k 0) ∨ allTranslated s x.g.uid = false) →
        ∃ t, exec e.1 s = .next t ∧ RegistersOnly x.gid s t ∧ t.ops = s.ops ∧
          ParksFor x t fun w => w = .order ∨ ∃ k, i.flag = some k ∧ w = .room k))

/-- Fences and cache control (R161 to R164): FENCE and FENCEX become fence operations with the order, scope and paths of their fields, CWB becomes a
write-back operation, CINV empties the core's L1, or behind a fence that holds it becomes an operation; they join their flag and change no register
and no memory. That CINV is done in the step that issues it, or becomes an operation behind a fence that holds it, is the model's choice (log 68). -/
def Obligations.FencesIssue : Prop :=
  ∀ (s : State) (x : Ctx) (f : Lg),
    let i := lgView f
    let fl := joinFlag x.f f.fs
    let m := f.mod.toNat
    let goes := fun (t : State) => OnlyOps x s t ∧ GroupCounts x t fl ∧ GoesOn x t i.len i.hold x.f.scc x.f.carry x.f.exec
    flagFull x.g fl = none →
    (Issues s x (.fence f) i [] → allTranslated s x.g.uid = true →
      ∃ t o, exec (.fence f) s = .next t ∧ goes t ∧ Tab.get? t.ops s.nextOp = some o ∧ o.kind = .fence ∧ o.order = m % 4 ∧
        o.uo = bitAt m 2 ∧ o.scope = wideScope (m / 8) ∧ o.src = scopePaths (wideScope (m / 8)) ∧
        o.dst = scopePaths (wideScope (m / 8))) ∧
    (∀ a b, sel10 f.a = .const a → sel10 f.b = .const b → a ≤ 6 → b ≤ 6 →
      Issues s x (.fencex f) i [] → allTranslated s x.g.uid = true →
      ∃ t o, exec (.fencex f) s = .next t ∧ goes t ∧ Tab.get? t.ops s.nextOp = some o ∧ o.kind = .fence ∧ o.order = m % 4 ∧
        o.uo = bitAt m 2 ∧ o.scope = wideScope (m / 8) ∧ o.src = [a] ∧ o.dst = [b]) ∧
    (Issues s x (.cinv f) i [] → allTranslated s x.g.uid = true → fenceHolds s x.g.uid s.nextOp 0 = true →
      ∃ t o, exec (.cinv f) s = .next t ∧ goes t ∧ Tab.get? t.ops s.nextOp = some o ∧ o.kind = .cinv) ∧
    (Issues s x (.cinv f) i [] → allTranslated s x.g.uid = true → fenceHolds s x.g.uid s.nextOp 0 = false →
      ∃ t, exec (.cinv f) s = .next t ∧ RegistersOnly x.gid s t ∧ GroupKeeps x t Use.none ∧ StickyIs x t x.g.sticky ∧
        (t.core (coreOf x.gid)).l1 = [] ∧ GoesOn x t i.len i.hold x.f.scc x.f.carry x.f.exec) ∧
    (Issues s x (.cwb f) i [] → allTranslated s x.g.uid = true →
      ∃ t o, exec (.cwb f) s = .next t ∧ goes t ∧ Tab.get? t.ops s.nextOp = some o ∧ o.kind = .cwb)

/-- The window instructions (R161, R165 to R168, R248, R250): WBIND binds a region to its descriptor when no copy runs in it, WUNBIND becomes an
operation on its flag, WWARM starts the copy of a bound region, WTEST reads the present bits into D and SCC, WWAIT goes on with SCC 1 when the selected
chunks are present and otherwise registers an entry and parks, or in a full table goes on with SCC 0 and WOVF. WSLICE with a count not above the member
number does nothing; with no set open and a count of 2 or more above it, it forms the set with its team; it joins an open set with the same count and
descriptor; with another it takes ILLOPND, and the first member gets the share of its member number. An index above 63, a descriptor outside its limits,
a first chunk that is no multiple of 64, and a count of 0 or above the cohort's or in a launch of teams take ILLOPND. That WSLICE with a count at or
below the member number does nothing whatever set is open is the model's choice (log 100). -/
def Obligations.WindowInstructions : Prop :=
  ∀ (s : State) (x : Ctx) (f : Lg) (tm : Team),
    let i := lgView f
    let os0 : Opnds := [(.b, .uni .n32)]
    let osT : Opnds := [(.d, .dstS true true), (.b, .uni .n32), (.a, .spair false), (.c, .uni .n32)]
    let osW : Opnds := [(.b, .uni .n32), (.a, .spair false), (.c, .uni .n32)]
    let osS : Opnds := [(.b, .uni .n32), (.c, .uni .n32)]
    let b := opVal s x i os0 .b 0
    let w := regionOf s x b
    let m := opVal s x i osW .a 0
    let c := opVal s x i osW .c 0
    let present := fun k => w.state == 0 || decide (w.chunkCount ≤ c + k) || bitAt w.chunks (c + k)
    let all := ∀ k, k < 64 → bitAt m k = true → present k = true
    let n := opVal s x i osS .c 0
    let key := setKey tm b
    let goes := fun (t : State) (scc : Bool) => GoesOn x t i.len i.hold scc x.f.carry x.f.exec
    let illopnd := fun (j : Instr) => ∃ t, exec j s = .next t ∧ RegistersOnly x.gid s t ∧
      TrapTaken x t x.f.pc0 x.f.pc x.f.idx 0x02 0 0 x.f.scc (formatWords x.f)
    let joined : Window := { w with state := if w.state = 4 then 4 else 3, sn := n - 1, sm := tm.member, starter := x.gid, uid := x.g.uid
                                    job := s.nextOp, flt := w.flt && (w.event.isSome || !w.stopped.isEmpty) }
    Tab.get? s.teams x.g.team = some tm →
    (63 < b → ∀ e ∈ [(Instr.wbind f, Use.and (descUse (sel10 f.a)) (usesOf i os0)), (.wunbind f, usesOf i os0), (.wwarm f, usesOf i os0),
        (.wtest f, usesOf i osT), (.wwait f, usesOf i osW), (.wslice f, usesOf i osS)],
      Ready s x (fieldsOk e.1) e.2 → illopnd e.1) ∧
    (b ≤ 63 → allTranslated s x.g.uid = true →
      (Ready s x (fieldsOk (.wbind f)) (Use.and (descUse (sel10 f.a)) (usesOf i os0)) → descOk tm.size (descWords x (sel10 f.a)) = false →
        illopnd (.wbind f)) ∧
      (c % 64 ≠ 0 → (Issues s x (.wtest f) i osT → illopnd (.wtest f)) ∧ (Issues s x (.wwait f) i osW → illopnd (.wwait f)))) ∧
    (b ≤ 63 → w.held = [] → allTranslated s x.g.uid = true →
      (Ready s x (fieldsOk (.wbind f)) (Use.and (descUse (sel10 f.a)) (usesOf i os0)) → descOk tm.size (descWords x (sel10 f.a)) = true →
        copyRunning s x.g.team b = false →
        ∃ t, exec (.wbind f) s = .next t ∧ OnlyWindows x s t ∧ RegionIs s x t b { boundTo (descWords x (sel10 f.a)) with bound := s.clock } ∧
          GroupCounts x t none ∧ goes t x.f.scc) ∧
      (Issues s x (.wunbind f) i os0 → flagFull x.g (joinFlag x.f f.fs) = none →
        ∃ t o, exec (.wunbind f) s = .next t ∧ OnlyOps x s t ∧ Tab.get? t.ops s.nextOp = some o ∧ o.kind = .wunbind b ∧
          GroupCounts x t (joinFlag x.f f.fs) ∧ goes t x.f.scc) ∧
      (Issues s x (.wwarm f) i os0 →
        ∃ t, exec (.wwarm f) s = .next t ∧ OnlyWindows x s t ∧ GroupCounts x t none ∧ goes t x.f.scc ∧
          (if w.state = 1 then
            RegionIs s x t b { w with state := 2, starter := x.gid, uid := x.g.uid, job := s.nextOp }
           else RegionIs s x t b w)) ∧
      (Issues s x (.wtest f) i osT → c % 64 = 0 →
        ∃ t g scc, exec (.wtest f) s = .next t ∧ RegistersOnly x.gid s t ∧ GroupKeeps x t (usesOf i osT) ∧ StickyIs x t x.g.sticky ∧
          Tab.get? t.groups x.gid = some g ∧ (∀ n, i.d = .s n → ∀ k, k < 64 → bitAt (sval g true n) k = present k) ∧
          (scc = true ↔ all) ∧ goes t scc) ∧
      (Issues s x (.wwait f) i osW → c % 64 = 0 → all →
        ∃ t, exec (.wwait f) s = .next t ∧ RegistersOnly x.gid s t ∧ GroupKeeps x t (usesOf i osW) ∧ StickyIs x t x.g.sticky ∧ goes t true) ∧
      (Issues s x (.wwait f) i osW → c % 64 = 0 → ¬ all → (entriesAt s x).length < 4096 →
        ∃ t, exec (.wwait f) s = .next t ∧ ParkedFor x t .att ∧ EntryAdded s t x 1 4 (windowObj (coreOf x.gid) b)) ∧
      (Issues s x (.wwait f) i osW → c % 64 = 0 → ¬ all → (entriesAt s x).length = 4096 →
        ∃ t, exec (.wwait f) s = .next t ∧ goes t false ∧ SameRegs x t ∧ StickyIs x t (x.g.sticky ||| fWOVF) ∧ entriesAt t x = entriesAt s x) ∧
      (Issues s x (.wslice f) i osS →
        (n = 0 ∨ tm.teams < n ∨ x.g.cohid = BitVec.ofNat 32 0xFFFFFFFF → illopnd (.wslice f)) ∧
        (n ≠ 0 → n ≤ tm.teams → x.g.cohid ≠ BitVec.ofNat 32 0xFFFFFFFF → n ≤ tm.member →
          ∃ t, exec (.wslice f) s = .next t ∧ RegistersOnly x.gid s t ∧ GroupKeeps x t (usesOf i osS) ∧ goes t x.f.scc) ∧
        (n ≠ 0 → n ≤ tm.teams → x.g.cohid ≠ BitVec.ofNat 32 0xFFFFFFFF → tm.member < n → w.state ≠ 0 →
          (2 ≤ n → Tab.get? s.sliceSets key = none →
            ∃ t, exec (.wslice f) s = .next t ∧ OnlyWindows x s t ∧ GroupCounts x t none ∧ goes t x.f.scc ∧ RegionIs s x t b joined ∧
              Tab.get? t.sliceSets key = some { n := n, desc := w.desc, teams := [x.g.team], members := [] }) ∧
          ∀ z, Tab.get? s.sliceSets key = some z → x.g.team ∉ z.teams → w.whole = false →
            (z.n = n → z.desc = w.desc →
              ∃ t, exec (.wslice f) s = .next t ∧ OnlyWindows x s t ∧ GroupCounts x t none ∧ goes t x.f.scc ∧ RegionIs s x t b joined ∧
                Tab.get? t.sliceSets key = some { z with teams := z.teams ++ [x.g.team] }) ∧
            (z.n ≠ n ∨ z.desc ≠ w.desc → tm.member < z.n → tm.member ∉ z.members →
              (∃ k d, k ∈ z.teams ∧ Tab.get? s.teams k = some d ∧ (d.region b).whole = false) →
              ∃ t, exec (.wslice f) s = .next t ∧ t.teams = s.teams ∧ (∀ k, k ≠ key → Tab.get? t.sliceSets k = Tab.get? s.sliceSets k) ∧
                Tab.get? t.sliceSets key = some { z with members := z.members ++ [tm.member] } ∧
                TrapTaken x t x.f.pc0 x.f.pc x.f.idx 0x02 0 0 x.f.scc (formatWords x.f)))))

/-- Churn (R169, R170, R218): CHFILL, CHCOPY, CHCMP and CHRED with aligned operands reserve the last entry of Q4, count their flag and leave a job with
those operands; with a byte count of 0 the entry has its result at once: 0, all ones for CHCMP, the canonical NaN for CHRED's F32 minimum and maximum. No
register and no memory changes at issue. The first misaligned of A, B and the count takes ALIGN, with its value and its position. -/
def Obligations.ChurnIssues : Prop :=
  ∀ (s : State) (x : Ctx) (f : Lg) (kind : Nat) (j : Instr),
    (kind, j) ∈ [(0, Instr.chfill f), (1, .chcopy f), (2, .chcmp f), (3, .chred f)] →
    let i := lgView f
    let os := churnOps kind
    let a := opVal s x i os .a 0
    let b := opVal s x i os .b 0
    let count := opVal s x i os .c 0
    let ty := f.mod.toNat / 8
    let fl := joinFlag x.f f.fs
    let misaligned := fun (v k : Nat) => ∃ t, exec j s = .next t ∧ RegistersOnly x.gid s t ∧
      TrapTaken x t x.f.pc0 x.f.pc x.f.idx 0x07 v k x.f.scc (formatWords x.f)
    let leaves := fun (res : Option (List Word)) (p : State → Prop) =>
      ∃ t g, exec j s = .next t ∧ RegistersOnly x.gid s { t with churns := s.churns, nextOp := s.nextOp } ∧ GroupCounts x t fl ∧
        GoesOn x t i.len i.hold x.f.scc x.f.carry x.f.exec ∧ Tab.get? t.groups x.gid = some g ∧ p t ∧
        ∀ l, (popQueues x.g (usesOf i os).qs).queues[4]? = some l → (∀ e ∈ l, e.op ≠ s.nextOp) →
          g.queues[4]? = some (l ++ [{ op := s.nextOp, flag := fl, res := res, val := none }])
    Issues s x j i os →
    (a % 4 ≠ 0 → misaligned a 0) ∧
    (a % 4 = 0 → kind = 1 ∨ kind = 2 → b % 4 ≠ 0 → misaligned b 1) ∧
    (a % 4 = 0 → (kind = 1 ∨ kind = 2 → b % 4 = 0) → count % 4 ≠ 0 ∨ (kind = 3 ∧ ty = 1 ∧ count % 8 ≠ 0) → misaligned count 2) ∧
    (a % 4 = 0 → (kind = 1 ∨ kind = 2 → b % 4 = 0) → count % 4 = 0 → (kind = 3 → ty = 1 → count % 8 = 0) → flagFull x.g fl = none →
      allTranslated s x.g.uid = true → queueFree x.g 4 ≠ 0 →
      (count ≠ 0 → leaves none fun t =>
        ∃ c, Tab.get? t.churns s.nextOp = some c ∧ c.kind = kind ∧ c.gid = x.gid ∧ c.uid = x.g.uid ∧ c.a = a ∧ c.count = count ∧
          c.b = (if kind = 0 then 0 else b) ∧ c.word = b % 2 ^ 32 ∧ c.ty = ty ∧ c.op = f.mod.toNat % 4 ∧ c.done = []) ∧
      (count = 0 → (groupBy s x.g.uid).map (·.1) = some x.gid → jobProbed s s.nextOp = false →
        leaves (some (qWords (if kind = 2 then 2 ^ 64 - 1 else if kind = 3 ∧ ty = 2 ∧ (f.mod.toNat % 4 = 1 ∨ f.mod.toNat % 4 = 2) then 0x7FC00000 else 0)))
          fun t => Tab.get? t.churns s.nextOp = none))

/-- MMA and MDRAIN (R175 to R179, R185): with a listed format, a tile in no other mode, aligned bases and strides, and every scratchpad
line in range, they become jobs that hold their operands and take the tile's last turn; a format that is not listed takes FMTRSV. -/
def Obligations.MatrixMultiplyIssues : Prop :=
  ∀ (s : State) (x : Ctx) (f : Lx),
    let fl := joinFlag x.f f.fs
    let fbU := Use.and (fbUse (sel10 f.x)) (Use.and (useOf (.spair false) (sel10 f.y)) (useOf (.spair false) (sel10 f.z)))
    let drU := Use.and (useOf .sreg (sel10 f.x)) (useOf (.spair false) (sel10 f.y))
    let tile := tileOf s (coreOf x.gid) (physTile x.g f.tile.toNat)
    (∀ r p q m, sel10 f.x = .s r → sel10 f.y = .s p → sel10 f.z = .s q → MatrixReady s x (.mma f) f fbU fl →
      queueRoom s (coreOf x.gid) = true →
      let fb := (List.range 8).map fun k => (x.g.sreg (r + k)).toNat
      formatOf (nth fb 0 0) f.shape.toNat = some m → (tile.imode = 0 ∨ tile.imode = (if m.tree then 2 else 1)) →
      (∀ v ∈ [sval x.g true p, sval x.g true q, nth fb 1 0, nth fb 2 0], v % 4 = 0) →
      (∀ sp ∈ mmaSpans m fb (sval x.g true p) (sval x.g true q), padLinesOk (padSize s x.g.team) sp.1 32 sp.2.2 sp.2.1 = true) →
      ∃ t, exec (.mma f) s = .next t ∧ JobIssued s x t f 1 fl fb (sval x.g true p) (sval x.g true q) ∧
        (tileOf t (coreOf x.gid) (physTile x.g f.tile.toNat)).imode = (if m.tree then 2 else 1)) ∧
    (∀ r p q, sel10 f.x = .s r → sel10 f.y = .s p → sel10 f.z = .s q → MatrixReady s x (.mma f) f fbU fl →
      formatOf (x.g.sreg r).toNat f.shape.toNat = none →
      ∃ t, exec (.mma f) s = .next t ∧ RegistersOnly x.gid s t ∧
        TrapTaken x t x.f.pc0 x.f.pc x.f.idx 0x08 0 0 x.f.scc (formatWords x.f)) ∧
    (∀ r p, sel10 f.x = .s r → sel10 f.y = .s p → MatrixReady s x (.mdrain f) f drU fl →
      let stride := (x.g.sreg r).toNat
      f.shape.toNat ≤ 5 → (f.shape.toNat = 5 → tile.imode ≠ 2) → sval x.g true p % 4 = 0 → stride % 4 = 0 →
      padLinesOk (padSize s x.g.team) (sval x.g true p) 32 (32 * drainWidth f.shape.toNat) (sgn 32 stride) = true →
      ∃ t, exec (.mdrain f) s = .next t ∧ JobIssued s x t f 4 fl [stride] (sval x.g true p) 0)

/-- MZERO, MLDACC, MDRAINQ, MSTAT and MRPROG (R173, R174, R184, R186, R187): with a spare tile MZERO remaps the name to it, cleared;
without one it takes a turn. MLDACC takes a spare tile or a turn; MDRAINQ reserves eight entries of its queue; MSTAT and MRPROG make
their destination pending. None writes a register at issue. -/
def Obligations.TileInstructionsIssue : Prop :=
  ∀ (s : State) (x : Ctx) (f : Lx),
    let fl := joinFlag x.f f.fs
    let core := coreOf x.gid
    let goes := fun (t : State) => GoesOn x t (2 + tailLen f.lit f.sp) 0 x.f.scc x.f.carry x.f.exec
    let ldU := Use.and (useOf .sreg (sel10 f.x)) (useOf (.spair false) (sel10 f.y))
    (∀ p, MatrixReady s x (.mzero f) f Use.none none → spareTile s core = some p →
      ∃ t g, exec (.mzero f) s = .next t ∧ goes t ∧ GroupCounts x t none ∧ t.mem = s.mem ∧ Tab.get? t.groups x.gid = some g ∧
        physTile g f.tile.toNat = p ∧ (∀ n, n ≠ f.tile.toNat → physTile g n = physTile x.g n) ∧
        tileOf t core p = { Tile.empty with owner := some x.g.uid }) ∧
    (MatrixReady s x (.mzero f) f Use.none none → spareTile s core = none → tileReturning s core = false →
      ∃ t, exec (.mzero f) s = .next t ∧ JobIssued s x t f 7 none [] 0 0) ∧
    (∀ r p, sel10 f.x = .s r → sel10 f.y = .s p → MatrixReady s x (.mldacc f) f ldU fl →
      ((spareTile s core).isSome ∨ tileReturning s core = false) → sval x.g true p % 4 = 0 → (x.g.sreg r).toNat % 4 = 0 →
      padLinesOk (padSize s x.g.team) (sval x.g true p) 32 896 (sgn 32 (x.g.sreg r).toNat) = true →
      ∃ t, exec (.mldacc f) s = .next t ∧ JobIssued s x t f 2 fl [(x.g.sreg r).toNat] (sval x.g true p) 0) ∧
    (∀ q, sel10 f.y = .q q → q ≤ 3 → MatrixReady s x (.mdrainq f) f Use.none none → f.shape.toNat ≤ 4 → 8 ≤ queueFree x.g q →
      ∃ t g, exec (.mdrainq f) s = .next t ∧ JobIssued s x t f 3 none [] 0 0 ∧ Tab.get? t.groups x.gid = some g ∧
        ∀ l, x.g.queues[q]? = some l →
          g.queues[q]? = some (l ++ List.replicate 8 { op := s.nextOp, flag := none, res := none, val := none })) ∧
    (∀ r, sel10 f.x = .s r → MatrixReady s x (.mstat f) f (useOf (.dstS true false) (.s r)) none →
      ∃ t g, exec (.mstat f) s = .next t ∧ JobIssued s x t f 5 none [] 0 0 ∧ Tab.get? t.groups x.gid = some g ∧
        Tab.get? g.pend (keyS r) = some s.nextOp ∧ Tab.get? g.pend (keyS (r + 1)) = some s.nextOp) ∧
    (∀ r, sel10 f.x = .s r → MatrixReady s x (.mrprog f) f (useOf (.dstS false false) (.s r)) none →
      ∃ t g, exec (.mrprog f) s = .next t ∧ JobIssued s x t f 6 none [] 0 0 ∧ Tab.get? t.groups x.gid = some g ∧
        Tab.get? g.pend (keyS r) = some s.nextOp)

/-- Register notes at the holder (R194 to R196): CAPMINT writes the pass of its range, CAPREV advances the slot's GEN modulo 4,096, EXPECT
makes every register of its range EMPTY, NPOLL writes a bit for each register that is not EMPTY and SCC when all are not. NOTE and NOTEU (R189,
R194, R197): a note that its pass allows leaves with its data, its flag counted; with EXEC zero NOTE sends nothing and joins no flag; a pass
that refuses it takes ILLOPND; a pass of a core that the partition does not own takes NOTECAP. Which
operations count among the sixteen that a save may replay is the model's choice (log 107). -/
def Obligations.NoteInstructions : Prop :=
  (∀ (s : State) (x : Ctx) (f : Lg) (base n : Nat),
     let i := lgView f
     let goes := fun (t : State) (scc : Bool) => GoesOn x t i.len i.hold scc x.f.carry x.f.exec
     (RangeReady s x (.capmint f) f [(.d, .dstS true false)] 128 base n → f.mod.toNat % 4 ≠ 0 →
       (bitAt f.mod.toNat 0 = true → base < 128) →
       ∃ t, exec (.capmint f) s = .next t ∧ RegistersOnly x.gid s t ∧ UniIs x t i.d true (mintPass s x (f.mod.toNat % 4) base n) ∧
         GroupKeeps x t (usesOf i [(.d, .dstS true false), (.b, .uni .n32)]) ∧ StickyIs x t x.g.sticky ∧ goes t x.f.scc) ∧
     (Issues s x (.caprev f) i [] →
       ∃ t, exec (.caprev f) s = .next t ∧ RegistersOnly x.gid s { t with gens := s.gens } ∧ GroupKeeps x t Use.none ∧
         StickyIs x t x.g.sticky ∧ goes t x.f.scc ∧ genOf t x.gid = (genOf s x.gid + 1) % 4096 ∧
         ∀ k, k ≠ x.gid → genOf t k = genOf s k) ∧
     (RangeReady s x (.expect f) f [] 128 base n → (∀ k, base ≤ k → k < base + n → Tab.get? x.g.pend k = none) →
       ∃ t g, exec (.expect f) s = .next t ∧ RegistersOnly x.gid s t ∧ goes t x.f.scc ∧ GroupCounts x t none ∧
         Tab.get? t.groups x.gid = some g ∧ (∀ k, base ≤ k → k < base + n → Tab.get? g.note k = some .empty) ∧
         ∀ k, k < base ∨ base + n ≤ k → k ∉ (usesOf i [(.b, .uni .n32)]).rd → Tab.get? g.note k = Tab.get? x.g.note k) ∧
     (RangeReady s x (.npoll f) f [(.d, .dstS false true)] 32 base n →
       ∃ t g scc, exec (.npoll f) s = .next t ∧ RegistersOnly x.gid s t ∧ goes t scc ∧ Tab.get? t.groups x.gid = some g ∧
         GroupKeeps x t (usesOf i [(.d, .dstS false true), (.b, .uni .n32)]) ∧ StickyIs x t x.g.sticky ∧
         (∀ r, i.d = .s r → ∀ k, k < n → (bitAt (sval g false r) k = true ↔ Tab.get? x.g.note (base + k) ≠ some .empty)) ∧
         (scc = true ↔ ∀ k, k < n → Tab.get? x.g.note (base + k) ≠ some .empty))) ∧
  (∀ (s : State) (x : Ctx) (f : Lg) (uniform : Bool),
     let j : Instr := if uniform then .noteu f else .note f
     let i := lgView f
     let os : Opnds := [(.a, .spair false), (.b, .uni .n32)]
     let w64 := bitAt f.mod.toNat 0
     let u := noteUse uniform w64 (!uniform && x.f.exec == 0) i
     let pass := opVal s x i os .a 0
     let index := opVal s x i os .b 0
     let fl := joinFlag x.f f.fs
     let ty : OpTy := if w64 then .n64 else .n32
     Ready s x (fieldsOk j) u →
     (uniform = false → x.f.exec = 0 →
       ∃ t, exec j s = .next t ∧ RegistersOnly x.gid s t ∧ GroupKeeps x t (usesOf i (noteOps uniform w64 true)) ∧ StickyIs x t x.g.sticky ∧
         GoesOn x t i.len i.hold x.f.scc x.f.carry x.f.exec) ∧
     ((uniform = true ∨ x.f.exec ≠ 0) → passRefuses (passOf pass) uniform w64 index = true →
       ∃ t, exec j s = .next t ∧ RegistersOnly x.gid s t ∧
         TrapTaken x t x.f.pc0 x.f.pc x.f.idx 0x02 0 0 x.f.scc (formatWords x.f)) ∧
     ((uniform = true ∨ x.f.exec ≠ 0) → passRefuses (passOf pass) uniform w64 index = false →
       (s.fe x.g.part).owns (passOf pass).core = false →
       ∃ t, exec j s = .next t ∧ RegistersOnly x.gid s t ∧
         TrapTaken x t x.f.pc0 x.f.pc x.f.idx 0x0F pass (fl.getD 15 + 5 * 2 ^ 8) x.f.scc (formatWords x.f)) ∧
     ((uniform = true ∨ x.f.exec ≠ 0) → passRefuses (passOf pass) uniform w64 index = false →
       (s.fe x.g.part).owns (passOf pass).core = true → flagFull x.g fl = none → replayable s x.g.uid < 16 →
       ∃ t n, exec j s = .next t ∧ RegistersOnly x.gid s { t with notes := s.notes, nextOp := s.nextOp } ∧ GroupCounts x t fl ∧
         GoesOn x t i.len i.hold x.f.scc x.f.carry x.f.exec ∧ Tab.get? t.notes s.nextOp = some n ∧ n.gid = x.gid ∧ n.uid = x.g.uid ∧
         n.flag = fl ∧ n.pass.toNat = pass % 2 ^ 64 ∧ n.index = index ∧ n.w64 = w64 ∧ n.rel = bitAt f.mod.toNat 1 ∧
         n.uniform = uniform ∧ n.lanes = x.f.exec ∧ n.stage = 0 ∧
         ∀ l, l < (if uniform then 1 else 64) → (nth n.vals l 0).toNat = readSel s x f.lit ty i.c l % 2 ^ 64))

/-- Attendance entries (R204 to R206, R254): WREG and WHOLD register an entry and go on, or set WOVF and SCC 0 in a full table, and do nothing where
the object is held already; WHOLD's release form and WDROP free the entries they name; WAIT goes on with SCC 1 where the word differs from its operand
and parks with an entry where it does not; WSTAT reads the free entries and the priorities. That WREG, WHOLD and WAIT on an object held already go on
with SCC as it was is the model's choice (log 51), and so is it that WDROP frees its own fragment's entries and WHOLD's release form the group's (log
52). -/
def Obligations.AttendanceEntries : Prop :=
  ∀ (s : State) (x : Ctx) (f : Lg),
    let i := lgView f
    let va := opVal s x i objOps .a 0
    let osR : Opnds := objOps ++ (if sel10 f.b = .null then [] else [(.b, .sreg)])
    let osS : Opnds := [(.d, .dstS true false)]
    let goes := fun (t : State) (scc : Bool) => GoesOn x t i.len i.hold scc x.f.carry x.f.exec ∧ SameRegs x t
    let full := fun (t : State) => (entriesAt t x).length = 4096
    let room := fun (t : State) => (entriesAt t x).length < 4096
    let named := fun (j : Instr) (os : Opnds) => Issues s x j i os ∧ namedObj s x va (attKind f) = none
    (named (.wreg f) osR →
      (declared s x va = true → ∃ t, exec (.wreg f) s = .next t ∧ goes t x.f.scc ∧ entriesAt t x = entriesAt s x) ∧
      (declared s x va = false → room s → ∃ t, exec (.wreg f) s = .next t ∧ goes t x.f.scc ∧ EntryAdded s t x 2 (attKind f) va) ∧
      (declared s x va = false → full s →
        ∃ t, exec (.wreg f) s = .next t ∧ goes t false ∧ StickyIs x t (x.g.sticky ||| fWOVF) ∧ entriesAt t x = entriesAt s x)) ∧
    (named (.whold f) objOps →
      (bitAt f.mod.toNat 3 = true →
        ∃ t, exec (.whold f) s = .next t ∧ goes t x.f.scc ∧
          entriesAt t x = (entriesAt s x).filter fun e => !(e.2.uid == x.g.uid && e.2.st == 3 && e.2.obj == va)) ∧
      (bitAt f.mod.toNat 3 = false → declared s x va = true →
        ∃ t, exec (.whold f) s = .next t ∧ goes t x.f.scc ∧ entriesAt t x = entriesAt s x) ∧
      (bitAt f.mod.toNat 3 = false → declared s x va = false → room s →
        ∃ t, exec (.whold f) s = .next t ∧ goes t x.f.scc ∧ EntryAdded s t x 3 (attKind f) va) ∧
      (bitAt f.mod.toNat 3 = false → declared s x va = false → full s →
        ∃ t, exec (.whold f) s = .next t ∧ goes t false ∧ StickyIs x t (x.g.sticky ||| fWOVF))) ∧
    (Issues s x (.wdrop f) i objOps → (padForm va = true → bitsAt va 32 24 = 0 ∧ padIn s x.g.team (va % 2 ^ 32) 4 = true) →
      ∃ t, exec (.wdrop f) s = .next t ∧ goes t x.f.scc ∧ RegistersOnly x.gid s { t with chips := s.chips } ∧
        entriesAt t x = (entriesAt s x).filter fun e =>
          !(e.2.uid == x.g.uid && e.2.frag == x.f.id && e.2.st == 2 && e.2.obj == va)) ∧
    (∀ t a, ObjReady s x (.wait f) f objValOps 4 .load false false t a →
      let t1 := soObject t x.g.uid a.1 a.2.1 a.2.2
      let word := waitWord t1 x.gid (attScope f) a.1 a.2.1 a.2.2
      let cmp := opVal s x i objValOps .b 0
      (declared s x va = true → ∃ u, exec (.wait f) s = .next u ∧ goes u x.f.scc) ∧
      (declared s x va = false → word ≠ cmp → ∃ u, exec (.wait f) s = .next u ∧ goes u true ∧ u.mem = t.mem) ∧
      (declared s x va = false → word = cmp → room t →
        ∃ u, exec (.wait f) s = .next u ∧ ParkedFor x u .att ∧ EntryAdded t u x 1 (attKind f) va ∧ u.mem = t.mem) ∧
      (declared s x va = false → word = cmp → full t →
        ∃ u, exec (.wait f) s = .next u ∧ goes u false ∧ StickyIs x u (x.g.sticky ||| fWOVF))) ∧
    (Issues s x (.wstat f) i osS →
      ∃ t, exec (.wstat f) s = .next t ∧ RegistersOnly x.gid s t ∧ GroupKeeps x t (usesOf i osS) ∧ StickyIs x t x.g.sticky ∧
        GoesOn x t i.len i.hold x.f.scc x.f.carry x.f.exec ∧
        ∀ r, i.d = .s r → ∃ g, Tab.get? t.groups x.gid = some g ∧ (g.sreg r).toNat % 2 ^ 16 = 4096 - (entriesAt s x).length ∧
          (g.sreg (r + 1)).toNat = x.g.eprio % 16 + x.g.bprio % 16 * 2 ^ 4 + (if x.g.bprio < x.g.eprio then 2 ^ 8 else 0))

/-- Locks (R203): LOCK takes a free object in one step with SCC 1, answers SCC 0 where its group owns it, and otherwise waits with an entry; UNLOCK by
the owner hands the lock to the earliest registered waiter, or frees it, with SCC 1; by another group it changes nothing and answers SCC 0. That LOCK
of an object which its group holds declared goes on with SCC as it was is the model's choice (log 51). -/
def Obligations.LocksPassOn : Prop :=
  ∀ (s : State) (x : Ctx) (f : Lg) (t : State) (a : Option Nat × Nat × Nat),
    let i := lgView f
    let va := opVal s x i objOps .a 0
    let own := ownerOf (objRead t a.1 a.2.1 16)
    let goes := fun (u : State) (scc : Bool) => GoesOn x u i.len i.hold scc x.f.carry x.f.exec ∧ SameRegs x u
    let owner := fun (u : State) (n : Nat) => ownerOf (objRead u a.1 a.2.1 16) = n ∧
      (objRead u a.1 a.2.1 16).drop 4 = (objRead t a.1 a.2.1 16).drop 4
    (ObjReady s x (.lock f) f objOps 16 .atomic true false t a →
      (declared s x va = true → ∃ u, exec (.lock f) s = .next u ∧ goes u x.f.scc ∧ owner u own) ∧
      (declared s x va = false → own = 0 →
        ∃ u g, exec (.lock f) s = .next u ∧ goes u true ∧ owner u ((x.gid + 1) % 2 ^ 32) ∧ Tab.get? u.groups x.gid = some g ∧
          g.locks = x.g.locks ++ [(va, a.1, a.2.1)]) ∧
      (declared s x va = false → own = x.gid + 1 → ∃ u, exec (.lock f) s = .next u ∧ goes u false ∧ owner u own) ∧
      (declared s x va = false → own ≠ 0 → own ≠ x.gid + 1 → (entriesAt t x).length < 4096 →
        ∃ u, exec (.lock f) s = .next u ∧ ParkedFor x u .att ∧ EntryAdded t u x 1 1 va ∧ owner u own)) ∧
    (ObjReady s x (.unlock f) f objOps 16 .atomic true true t a →
      (own ≠ x.gid + 1 → ∃ u, exec (.unlock f) s = .next u ∧ goes u false ∧ owner u own) ∧
      (own = x.gid + 1 → nextLocker t a.1 a.2.1 = none → ∃ u, exec (.unlock f) s = .next u ∧ goes u true ∧ owner u 0) ∧
      (∀ chip e, own = x.gid + 1 → nextLocker t a.1 a.2.1 = some (chip, e) →
        ∃ u, exec (.unlock f) s = .next u ∧ owner u ((e.gid + 1) % 2 ^ 32) ∧ (e.uid ≠ x.g.uid → goes u true)))

/-- Barriers (R201, R202): BARA arrives once and reads the phase before; BARW goes on with SCC 1 where the phase is not its operand and waits
otherwise; BAR parks the fragment, and where it is all of its group the group arrives: it goes on with SCC 1 where its arrival is the last
one of the phase, and waits with an entry where it is not. -/
def Obligations.BarriersCount : Prop :=
  ∀ (s : State) (x : Ctx) (f : Lg) (t : State) (a : Option Nat × Nat × Nat),
    let i := lgView f
    let osA : Opnds := [(.d, .dstS false true), (.a, .spair false)]
    let obj := objRead t a.1 a.2.1 16
    let goes := fun (u : State) (scc : Bool) => GoesOn x u i.len i.hold scc x.f.carry x.f.exec
    (ObjReady s x (.bara f) f osA 16 .atomic true true t a →
      ∃ u, exec (.bara f) s = .next u ∧ goes u x.f.scc ∧ UniIs x u i.d false (phaseOf obj) ∧ objRead u a.1 a.2.1 16 = arriveBytes obj) ∧
    (ObjReady s x (.barw f) f objValOps 16 .load true false t a →
      let p := opVal s x i objValOps .b 0 % 2
      let va := opVal s x i objValOps .a 0
      (phaseOf obj ≠ p → ∃ u, exec (.barw f) s = .next u ∧ goes u true ∧ SameRegs x u ∧ objRead u a.1 a.2.1 16 = obj) ∧
      (phaseOf obj = p → (entriesAt t x).length < 4096 →
        ∃ u, exec (.barw f) s = .next u ∧ ParkedFor x u .att ∧ EntryAdded t u x 1 0 va ∧ objRead u a.1 a.2.1 16 = obj) ∧
      (phaseOf obj = p → (entriesAt t x).length = 4096 →
        ∃ u, exec (.barw f) s = .next u ∧ goes u false ∧ SameRegs x u ∧ StickyIs x u (x.g.sticky ||| fWOVF))) ∧
    (ObjReady s x (.bar f) f objOps 16 .atomic true true t a → (∃ k e, k ≠ x.fi ∧ x.g.frag? k = some e ∧ e.cond = .ready) →
      ∃ u, exec (.bar f) s = .next u ∧ ParkedFor x u (.bar x.f.pc0 (opVal s x i objOps .a 0)) ∧ objRead u a.1 a.2.1 16 = obj) ∧
    (ObjReady s x (.bar f) f objOps 16 .atomic true true t a → a.1 = some x.g.team → x.g.frags = [(x.fi, x.f)] →
      x.g.killed = false → (∀ e ∈ entriesAt s x, e.2.uid ≠ x.g.uid) → instrAt x.f = .ok (.bar f) →
      lenHere x.f = (i.len, f.sp.isSome) →
      (phaseOf (arriveBytes obj) ≠ phaseOf obj →
        ∃ u, exec (.bar f) s = .next u ∧ GoesOn (afterSp x f.sp.isSome) u i.len i.hold true x.f.carry x.f.exec ∧ SameRegs x u ∧
          objRead u a.1 a.2.1 16 = arriveBytes obj) ∧
      (phaseOf (arriveBytes obj) = phaseOf obj → (entriesAt s x).length < 4096 →
        ∃ u, exec (.bar f) s = .next u ∧ ParkedFor x u (.bar x.f.pc0 (opVal s x i objOps .a 0)) ∧
          EntryAdded s u x 1 0 (opVal s x i objOps .a 0) ∧ objRead u a.1 a.2.1 16 = arriveBytes obj))

/-- Launches by a group (R207, R209, R210, R283): with a free Q6 entry and room on its flag, LAUNCH of a misaligned or refused block has STATUS 2, of
a valid one within quota STATUS 0 with the handle of a child that the Journal holds, and beyond quota STATUS 1, or LAUNCH.w parks with an entry. JOIN
of an unknown handle has STATUS 4, of an ended child its end, of another child it parks. STATUS 2 for a misaligned block is the model's choice (log
31), and so are the comparison of a handle with the whole pair (log 43) and the HANDLE of an entry without a child (log 92). -/
def Obligations.LaunchAndJoin : Prop :=
  ∀ (s : State) (x : Ctx) (f : Lg),
    let i := lgView f
    let h := opVal s x i handleOps .a 0
    let fl := joinFlag x.f f.fs
    let goes := fun (t : State) => GoesOn x t i.len i.hold x.f.scc x.f.carry x.f.exec ∧ SameRegs x t
    queueFree x.g 6 ≠ 0 → flagFull x.g fl = none →
    (Issues s x (.launch f) i handleOps → launchWork s x.g.uid x.f.id = none →
      (h % 64 ≠ 0 → ∃ t, exec (.launch f) s = .next t ∧ goes t ∧ Reserved x t 6 s.nextOp fl (some (qWords (2 * 2 ^ 48 + 2 ^ 52)))) ∧
      (∀ t bs, h % 64 = 0 → readBlock s x.gid x.fi x.g h = (t, some bs) →
        ((blockOf bs).valid (t.fe x.g.part) = false →
          ∃ u, exec (.launch f) s = .next u ∧ goes u ∧ Reserved x u 6 t.nextOp fl (some (qWords (2 * 2 ^ 48 + 2 ^ 52)))) ∧
        ((blockOf bs).valid (t.fe x.g.part) = true → takesLaunch (t.fe x.g.part) = true →
          let jseq := (t.fe x.g.part).jnltail
          ∃ u e c, exec (.launch f) s = .next u ∧ goes u ∧ Reserved x u 6 t.nextOp fl (some (qWords (jseq % 2 ^ 48 + 2 ^ 52))) ∧
            (u.fe x.g.part).jnltail = jseq + 1 ∧ Tab.get? (u.fe x.g.part).jnl jseq = some e ∧ e.state = 1 ∧ e.origin = true ∧
            e.parent = x.g.launch / 32 ∧ e.blk = bs ∧ Tab.get? u.launches (launchKey x.g.part jseq) = some c ∧
            c.parent = x.g.launch / 32 ∧ c.code = (blockOf bs).code ∧ c.started = false) ∧
        ((blockOf bs).valid (t.fe x.g.part) = true → takesLaunch (t.fe x.g.part) = false → bitAt f.mod.toNat 0 = false →
          ∃ u, exec (.launch f) s = .next u ∧ goes u ∧ Reserved x u 6 t.nextOp fl (some (qWords (2 ^ 48 + 2 ^ 52))) ∧
            u.launches = t.launches) ∧
        ((blockOf bs).valid (t.fe x.g.part) = true → takesLaunch (t.fe x.g.part) = false → bitAt f.mod.toNat 0 = true →
          (entriesAt t x).length < 4096 →
          ∃ u g, exec (.launch f) s = .next u ∧ ParkedFor x u .att ∧ EntryAdded t u x 1 6 x.g.part ∧ u.launches = t.launches ∧
            Reserved x u 6 t.nextOp fl none ∧ Tab.get? u.works t.nextOp = some g ∧ g.uid = x.g.uid ∧ g.join = false ∧ g.arg = h))) ∧
    (Issues s x (.join f) i handleOps →
      (childEntry s x.g.part (x.g.launch / 32) h = none →
        ∃ t, exec (.join f) s = .next t ∧ goes t ∧ Reserved x t 6 s.nextOp fl (some (q6Words h 4 2 0))) ∧
      (∀ c e, childEntry s x.g.part (x.g.launch / 32) h = some c → childEnded s x.g.part h = some e →
        ∃ t, exec (.join f) s = .next t ∧ goes t ∧
          Reserved x t 6 s.nextOp fl (some (q6Words e.jseq (joinStatus e.fin) 2 (if e.fin = 2 then e.code else 0)))) ∧
      (∀ c, childEntry s x.g.part (x.g.launch / 32) h = some c → childEnded s x.g.part h = none → (entriesAt s x).length < 4096 →
        ∃ t w, exec (.join f) s = .next t ∧ ParkedFor x t .att ∧ EntryAdded s t x 1 7 h ∧ Reserved x t 6 s.nextOp fl none ∧
          Tab.get? t.works s.nextOp = some w ∧ w.uid = x.g.uid ∧ w.join = true ∧ w.arg = h))

/-- The other WORK instructions (R208, R210, R211, R358): SPAWN starts a group beside its own with the registers it names and answers its slot with
SCC 1, or all ones with SCC 0, whatever the low bits of its code address, which is the model's choice (log 96); KILL ends a descendant launch and its
descendants with SCC 1, or answers SCC 0; QUOTA and CTOPV read; COLL starts a job on a usable communicator and has STATUS 2 at once on another. -/
def Obligations.WorkInstructions : Prop :=
  ∀ (s : State) (x : Ctx) (f : Lg),
    let i := lgView f
    let osS : Opnds := [(.d, .dstS false true), (.a, .spair false)]
    let osQ : Opnds := [(.d, .dstS false false)]
    let osV : Opnds := [(.d, .dstS false true), (.a, .uni .n32)]
    let uS := Use.and (usesOf i osS) (eightUse (sel10 f.b))
    let uC := eightUse (sel10 f.a)
    let goes := fun (t : State) (scc : Bool) => GoesOn x t i.len i.hold scc x.f.carry x.f.exec
    (Ready s x (fieldsOk (.spawn f)) uS →
      (∀ t slot, spawnGroup (useRegs s x uS.rd) x (opVal s x i osS .a 0) (eightWords x (sel10 f.b)) = some (t, slot) →
        ∃ u g fr l, exec (.spawn f) s = .next u ∧ goes u true ∧ UniIs x u i.d false slot ∧ slot < 128 ∧
          Tab.get? s.groups (coreOf x.gid * 128 + slot) = none ∧ Tab.get? u.groups (coreOf x.gid * 128 + slot) = some g ∧
          Tab.get? s.launches x.g.launch = some l ∧ g.team = x.g.team ∧ g.launch = x.g.launch ∧ g.bprio = x.g.bprio ∧
          g.vcount = l.vregs ∧ g.tiles.length = l.tiles ∧ g.frag? 0 = some fr ∧ fr.pc = opVal s x i osS .a 0 ∧ fr.idx = 0 ∧
          fr.exec = BitVec.allOnes 64 ∧ (∀ k, k < 8 → g.sreg k = nth (eightWords x (sel10 f.b)) k 0) ∧
          ∀ k, 8 ≤ k → g.sreg k = 0) ∧
      (spawnGroup (useRegs s x uS.rd) x (opVal s x i osS .a 0) (eightWords x (sel10 f.b)) = none →
        ∃ u, exec (.spawn f) s = .next u ∧ goes u false ∧ UniIs x u i.d false 0xFFFFFFFF ∧ RegistersOnly x.gid s u)) ∧
    (Issues s x (.kill f) i handleOps →
      let h := opVal s x i handleOps .a 0
      let hit := fun (l : Launch) => l.part = x.g.part ∧ l.under h = true
      (descends s x.g.part h (x.g.launch / 32) = true →
        ∃ t, exec (.kill f) s = .next t ∧ goes t true ∧
          (∀ k l, Tab.get? s.launches k = some l → ∃ m, Tab.get? t.launches k = some m ∧
            m.fin = (if l.part = x.g.part ∧ l.under h = true ∧ l.fin = 0 then 3 else l.fin)) ∧
          ∀ k g l, Tab.get? s.groups k = some g → Tab.get? s.launches g.launch = some l → hit l →
            ∃ y, Tab.get? t.groups k = some y ∧ y.killed = true) ∧
      (descends s x.g.part h (x.g.launch / 32) = false →
        ∃ t, exec (.kill f) s = .next t ∧ goes t false ∧ RegistersOnly x.gid s t)) ∧
    (Issues s x (.quota f) i osQ →
      ∃ t, exec (.quota f) s = .next t ∧ goes t x.f.scc ∧ RegistersOnly x.gid s t ∧ GroupKeeps x t (usesOf i osQ) ∧
        UniIs x t i.d false (quotaLeft (s.fe x.g.part))) ∧
    (Issues s x (.ctopv f) i osV →
      ∃ t, exec (.ctopv f) s = .next t ∧ RegistersOnly x.gid s t ∧ GroupKeeps x t (usesOf i osV) ∧
        UniIs x t i.d false (s.topv % 2 ^ 16) ∧ goes t (s.topv % 2 ^ 16 == opVal s x i osV .a 0 % 2 ^ 16)) ∧
    (Ready s x (fieldsOk (.coll f)) uC → bitsAt f.mod.toNat 0 2 ≠ 3 →
      let ws := eightWords x (sel10 f.a)
      let kind := bitsAt f.mod.toNat 0 2
      let comm := bitsAt (nth ws 6 0).toNat 0 16
      let fl := joinFlag x.f f.fs
      (collOk kind ws = false →
        ∃ t, exec (.coll f) s = .next t ∧ RegistersOnly x.gid s t ∧ TrapTaken x t x.f.pc0 x.f.pc x.f.idx 0x02 0 0 x.f.scc (formatWords x.f)) ∧
      (collOk kind ws = true → flagFull x.g fl = none → queueFree x.g 5 ≠ 0 →
        (commUsable s x.g.part comm = false →
          ∃ t v, exec (.coll f) s = .next t ∧ goes t x.f.scc ∧ SameRegs x t ∧ t.colls = s.colls ∧
            Reserved x t 5 s.nextOp fl (some (qWords (2 + s.topv % 2 ^ 16 * 2 ^ 16 + v % 2 ^ 32 * 2 ^ 32)))) ∧
        (commUsable s x.g.part comm = true →
          ∃ t c, exec (.coll f) s = .next t ∧ goes t x.f.scc ∧ SameRegs x t ∧ Reserved x t 5 s.nextOp fl none ∧
            Tab.get? t.colls s.nextOp = some c ∧ c.kind = kind ∧ c.uid = x.g.uid ∧ c.comm = comm ∧ c.seq = (s.comm comm).seq ∧
            c.src = (nth ws 0 0).toNat + (nth ws 1 0).toNat * 2 ^ 32 ∧ c.dst = (nth ws 2 0).toNat + (nth ws 3 0).toNat * 2 ^ 32 ∧
            c.count = (nth ws 4 0).toNat ∧ c.ty = bitsAt (nth ws 5 0).toNat 0 2 ∧ c.sent = false ∧ c.status = none ∧
            (t.comm comm).seq = ((s.comm comm).seq + 1) % 2 ^ 32)))

/-- System registers (R213): SGETSR reads the nine that are listed, SSETSR stores BPRIO no higher than the launch's priority; every other
number takes ILLOPND. -/
def Obligations.SystemRegisters : Prop :=
  ∀ (s : State) (x : Ctx) (f : Lg),
    let i := lgView f
    let osG : Opnds := [(.d, .dstS false false), (.a, .uni .n32)]
    let osS : Opnds := [(.a, .uni .n32), (.b, .uni .n32)]
    let n := opVal s x i osG .a 0
    let m := opVal s x i osS .a 0
    let illopnd := fun (t : State) => RegistersOnly x.gid s t ∧ TrapTaken x t x.f.pc0 x.f.pc x.f.idx 0x02 0 0 x.f.scc (formatWords x.f)
    let reads := fun (k v : Nat) => n = k → ∃ t, exec (.sgetsr f) s = .next t ∧ UniIs x t i.d false v ∧ RegistersOnly x.gid s t ∧
      GroupKeeps x t (usesOf i osG) ∧ StickyIs x t x.g.sticky ∧ GoesOn x t i.len i.hold x.f.scc x.f.carry x.f.exec
    (Issues s x (.sgetsr f) i osG →
      reads 0 (x.g.launch / 32) ∧ reads 1 (x.g.launch / 32 / 2 ^ 32) ∧ reads 2 (x.g.bprio % 16) ∧
      reads 3 (if x.g.hmode = some x.fi then 1 else 0) ∧ reads 4 x.g.part ∧ reads 5 x.g.trapcnt ∧
      reads 6 (if x.g.dbgen then 1 else 0) ∧ reads 7 x.g.nfail ∧ reads 8 (if x.g.fsvc then 1 else 0) ∧
      (8 < n → ∃ t, exec (.sgetsr f) s = .next t ∧ illopnd t)) ∧
    (Issues s x (.ssetsr f) i osS →
      (m = 2 → ∃ t g, exec (.ssetsr f) s = .next t ∧ RegistersOnly x.gid s t ∧ Tab.get? t.groups x.gid = some g ∧
        g.bprio = min (opVal s x i osS .b 0) x.g.prioMax ∧ g.v = x.g.v ∧ g.s = x.g.s ∧ StickyIs x t x.g.sticky ∧
        GoesOn x t i.len i.hold x.f.scc x.f.carry x.f.exec) ∧
      (m ≠ 2 → ∃ t, exec (.ssetsr f) s = .next t ∧ illopnd t))

/-- The other SYST instructions (R212, R218, R303): SLEEP keeps the fragment from issuing for min(t, 2^20) clock cycles, t = 0 yields; PMARK goes
on; DBRK is a NOP where DBGEN is 0, a trap behind itself with a handler, and otherwise parks the fragment at a fault entry; FRESUME answers
what became of the entry it names, and in a group that may not use it takes PRIV. -/
def Obligations.SystemControl : Prop :=
  ∀ (s : State) (x : Ctx) (f : Lg),
    let i := lgView f
    let osB : Opnds := [(.b, .uni .n32)]
    let osF : Opnds := [(.d, .dstS false true), (.a, .spair false)]
    let v := opVal s x i osB .b 0
    let seq := opVal s x i osF .a 0
    let stays := x.f.isLast i.len = false ∨ ¬ MeetsRpc x x.f.fallThrough
    let awake := fun (t : State) => t.modFrag x.gid x.fi fun h => { h with cond := .ready }
    let same := fun (t : State) (u : Use) => RegistersOnly x.gid s t ∧ GroupKeeps x t u ∧ StickyIs x t x.g.sticky
    let goes := fun (t : State) => GoesOn x t i.len i.hold x.f.scc x.f.carry x.f.exec
    (Issues s x (.sleep f) i osB →
      ∃ t, exec (.sleep f) s = .next t ∧ same t (usesOf i osB) ∧ goes (awake t) ∧
        (stays → ∃ g h, Tab.get? t.groups x.gid = some g ∧ g.frag? x.fi = some h ∧
          (v = 0 → h.cond = .ready ∧ h.yielded = true) ∧ (v ≠ 0 → h.cond = .sleeping (s.clock + min v (2 ^ 20))))) ∧
    (Issues s x (.pmark f) i osB → ∃ t, exec (.pmark f) s = .next t ∧ same t (usesOf i osB) ∧ goes t) ∧
    (Issues s x (.dbrk f) i osB →
      (x.g.dbgen = false → ∃ t, exec (.dbrk f) s = .next t ∧ same t (usesOf i osB) ∧ goes t) ∧
      (x.g.dbgen = true → x.g.trapVa ≠ 0 →
        ∃ t, exec (.dbrk f) s = .next t ∧ RegistersOnly x.gid s t ∧
          TrapTaken x t x.f.pc0 (if x.f.isLast i.len then x.f.fallThrough else x.f.pc)
            (if x.f.isLast i.len then 0 else x.f.idx + i.len) 0x13 v 0 x.f.scc (formatWords x.f)) ∧
      (x.g.dbgen = true → x.g.trapVa = 0 →
        ∃ t e, exec (.dbrk f) s = .next t ∧ ParkedFor x t (.fault s.nextOp) ∧ Tab.get? t.events s.nextOp = some e ∧
          e.part = x.g.part ∧ e.agent = .debug x.gid x.f.id ∧ e.seqs = [((s.fe x.g.part).faultSeq + 1, false)] ∧
          (t.fe x.g.part).faultSeq = (s.fe x.g.part).faultSeq + 1)) ∧
    (Issues s x (.fresume f) i osF →
      (x.g.hmode ≠ some x.fi → x.g.fsvc = false →
        ∃ t, exec (.fresume f) s = .next t ∧ RegistersOnly x.gid s t ∧
          TrapTaken x t x.f.pc0 x.f.pc x.f.idx 0x09 0 0 x.f.scc (formatWords x.f)) ∧
      (x.g.hmode = some x.fi ∨ x.g.fsvc = true →
        (resumeResult s x.g.part seq ≠ 0 →
          ∃ t, exec (.fresume f) s = .next t ∧ same t (usesOf i osF) ∧ goes t ∧ UniIs x t i.d false (resumeResult s x.g.part seq)) ∧
        (resumeResult s x.g.part seq = 0 → ∃ t, exec (.fresume f) s = .next t ∧ UniIs x t i.d false 0) ∧
        (∀ id e q, resumeResult s x.g.part seq = 0 →
          s.events.find? (fun e => e.2.part == x.g.part && (Tab.get? e.2.seqs seq).isSome) = some (id, e) →
          q ≠ seq → Tab.get? e.seqs q = some false →
          ∃ t y, exec (.fresume f) s = .next t ∧ goes t ∧ (id, y) ∈ t.events ∧ Tab.get? y.seqs seq = some true)))

/-! ### The Proctor -/

/-- Proctor arithmetic (R338): each instruction puts its value into W[d] and goes on, with the event words of LDE, src2 = W[b] + imm14
modulo 2^32, shifts by src2 mod 32, unsigned minimum and maximum and the multiplicative hash; LDM reads the scratch word
m(W[a] + imm14). Nothing else changes but the budget, of which one unit is spent (R334). Proctor scratch (R338, R339), indices modulo the
scratch's size: STM stores W[b]; HINC and SKINC add W[b] to a bin, saturating at 2^32 - 1, SKINC in four rows that hash with their seeds; HLL
raises a word to the position of the first one bit. No other word, register or attachment changes. -/
def Obligations.ProctorComputation : Prop :=
  (∀ (s : State) (x : PrCtx) (f : Pr), s.prIssuer = some x →
     let a := (x.w f.a).toNat
     let b := ((x.w f.b).toNat + f.imm.toNat) % 2 ^ 32
     let k := if f.imm.toNat % 32 = 0 then 32 else f.imm.toNat % 32
     PrWrites s x (.prLde f) f.d (nth x.run.ev.e (f.imm.toNat % 8) 0).toNat ∧
     PrWrites s x (.prLdi f) f.d (a * 2 ^ 14 + f.imm.toNat) ∧
     PrWrites s x (.prAdd f) f.d (a + b) ∧
     PrWrites s x (.prSub f) f.d ((((a : Int) - b) % ((2 ^ 32 : Nat) : Int)).toNat) ∧
     PrWrites s x (.prAnd f) f.d (a &&& b) ∧
     PrWrites s x (.prOr f) f.d (a ||| b) ∧
     PrWrites s x (.prXor f) f.d (a ^^^ b) ∧
     PrWrites s x (.prShl f) f.d (a * 2 ^ (b % 32)) ∧
     PrWrites s x (.prShr f) f.d (a / 2 ^ (b % 32)) ∧
     PrWrites s x (.prMin f) f.d (min a b) ∧
     PrWrites s x (.prMax f) f.d (max a b) ∧
     PrWrites s x (.prMul f) f.d (a * b) ∧
     PrWrites s x (.prHash f) f.d (a * (nth x.att.seeds (f.imm.toNat / 2 ^ 12) 0).toNat % 2 ^ 32 / 2 ^ (32 - k)) ∧
     PrWrites s x (.prLdm f) f.d (Tab.getD x.att.scratch ((a + f.imm.toNat) % 2 ^ 32 % x.att.size) 0).toNat) ∧
  (∀ (s : State) (x : PrCtx) (f : Pr), s.prIssuer = some x →
     let a := (x.w f.a).toNat
     let b := (x.w f.b).toNat
     let n := f.d.toNat
     let m := fun k => k % 2 ^ 32 % x.att.size
     let old := fun k => (Tab.getD x.att.scratch k 0).toNat
     let hash := fun r => a * (nth x.att.seeds r 0).toNat % 2 ^ 32
     let bin := fun r => if n = 0 then 0 else hash r / 2 ^ (32 - n)
     let row := fun r => m (f.imm.toNat + r * 2 ^ n + bin r)
     (∃ t, exec (.prStm f) s = .next t ∧ PrScratches s x t (fun k => if k = m (a + f.imm.toNat) then b else old k)) ∧
     (∃ t, exec (.prHinc f) s = .next t ∧ PrScratches s x t (fun k =>
       if k = m (f.imm.toNat + min a (2 ^ n - 1)) then min (2 ^ 32 - 1) (old k + b) else old k)) ∧
     (∃ t, exec (.prSkinc f) s = .next t ∧ PrScratches s x t (fun k =>
       min (2 ^ 32 - 1) (old k + b * ((List.range 4).filter fun r => k = row r).length))) ∧
     (n ≤ 12 → ∃ t, exec (.prHll f) s = .next t ∧ PrScratches s x t (fun k =>
       if k = m (f.imm.toNat + bin 0) then max (old k) (min (33 - n) (clz 32 (hash 0 * 2 ^ n % 2 ^ 32) + 1)) else old k)))

/-- Proctor branches and actions (R334, R336, R338, R340, R341): BFW goes on behind the instructions it skips where its condition holds; TRIG records
and raises an interrupt, arms or disarms a slot, or copies the scratch into a store; EMIT appends a record; a copy or record without a place, or
without a free store buffer, is dropped and counted; END ends the invocation. That an IRQ raises an interrupt unless one was raised in the same clock
cycle is the model's choice (log 87). -/
def Obligations.ProctorActions : Prop :=
  ∀ (s : State) (x : PrCtx) (f : Pr), s.prIssuer = some x →
    let e := s.fe x.att.part
    let goes := fun (t : State) => PrGoesTo s x t (x.run.pc + 1) ∧ PrRegs x t x.w
    let dropped := fun (t : State) => goes t ∧ t.outs = s.outs ∧ (t.proctor x.port).stores = (s.proctor x.port).stores ∧
      t.fe x.att.part = { e with prdropped := (e.prdropped + 1) % 2 ^ 32 }
    let armed := fun (t : State) (on : Bool) => goes t ∧ t.fes = s.fes ∧ t.outs = s.outs ∧ ∀ k,
      Tab.get? (t.proctor x.port).atts k = if k = x.att.part * 16 + f.imm.toNat / 4 % 16
        then (Tab.get? (s.proctor x.port).atts k).map (fun a => { a with armed := on }) else Tab.get? (s.proctor x.port).atts k
    let a := x.w f.a
    let b := x.w f.b
    let holds := (f.d = 0) ∨ (f.d = 1 ∧ a = b) ∨ (f.d = 2 ∧ a ≠ b) ∨ (f.d = 3 ∧ a.toNat < b.toNat) ∨ (f.d = 4 ∧ b.toNat ≤ a.toNat) ∨
      (f.d = 5 ∧ a.toInt < b.toInt) ∨ (f.d = 6 ∧ b.toInt ≤ a.toInt)
    let ring := 2 ^ (12 + e.prout % 16) / 32
    let base := bitsAt e.prout 12 40 * 2 ^ 12
    let area := bitsAt e.prsnap 16 36 * 2 ^ 16
    let room := (s.proctor x.port).stores.length < 16
    let ringFull := (e.prouttail + 2 ^ 32 - e.prouthead) % 2 ^ 32 = ring
    (holds → ∃ t, exec (.prBfw f) s = .next t ∧ PrGoesTo s x t (x.run.pc + 1 + f.imm.toNat) ∧ PrRegs x t x.w) ∧
    (¬ holds → ∃ t, exec (.prBfw f) s = .next t ∧ goes t) ∧
    (∃ t, exec (.prTrigIrq f) s = .next t ∧ goes t ∧ (e.prirqAt ≠ some s.clock → .irq 1 x.att.part ∈ t.outs) ∧
      (t.fe x.att.part).prirq = f.imm.toNat / 2 ^ 6 % 2 ^ 8 + x.port % 64 * 2 ^ 8 + x.att.slot % 16 * 2 ^ 14 +
        (e.prirq / 2 ^ 32 + 1) % 2 ^ 32 * 2 ^ 32) ∧
    (∃ t, exec (.prTrigArm f) s = .next t ∧ armed t true) ∧
    (∃ t, exec (.prTrigDisarm f) s = .next t ∧ armed t false) ∧
    (area = 0 ∨ x.att.snapBusy = true ∨ ¬ room → ∃ t, exec (.prTrigSnap f) s = .next t ∧ dropped t) ∧
    (f.imm.toNat % 4 = 1 → area ≠ 0 → x.att.snapBusy = false → room → 0 < x.att.size →
      ∃ t y, exec (.prTrigSnap f) s = .next t ∧ goes t ∧ t.fes = s.fes ∧ t.outs = s.outs ∧
        (t.proctor x.port).stores = (s.proctor x.port).stores ++ [y] ∧ y.part = x.att.part ∧ y.snap = some x.run.att ∧
        y.pa = area + 2 ^ 16 * (16 * x.port + x.att.slot) ∧
        y.data = (List.range x.att.size).flatMap (fun k => toBytes 4 (Tab.getD x.att.scratch k 0).toNat) ∧
        Tab.get? (t.proctor x.port).atts x.run.att = some { x.att with snapBusy := true }) ∧
    (base = 0 ∨ ¬ room ∨ ringFull → ∃ t, exec (.prEmit f) s = .next t ∧ dropped t) ∧
    (base ≠ 0 → room → ¬ ringFull →
      ∃ t y, exec (.prEmit f) s = .next t ∧ goes t ∧ t.outs = s.outs ∧ (t.proctor x.port).stores = (s.proctor x.port).stores ++ [y] ∧
        y.part = x.att.part ∧ y.snap = none ∧ y.pa = base + 32 * (e.prouttail % ring) ∧ y.data.length = 32 ∧
        y.data.take 8 = toBytes 8 s.clock ∧ (y.data.drop 11).head? = some (BitVec.ofNat 8 f.imm.toNat) ∧
        (∀ k, k < 4 → (y.data.drop (16 + 4 * k)).take 4 = toBytes 4 (x.w (f.a + BitVec.ofNat 4 k)).toNat) ∧
        t.fe x.att.part = { e with prouttail := (e.prouttail + 1) % 2 ^ 32 }) ∧
    (∃ t, exec (.prEnd f) s = .next t ∧ t = { s with proctors := t.proctors, fes := t.fes } ∧
      (∀ ev, (s.proctor x.port).cur = some (ev, []) →
        (t.proctor x.port).run = none ∧ (t.proctor x.port).cur = none ∧ t.fes = s.fes ∧
          (x.att.leaving = false → (t.proctor x.port).atts = (s.proctor x.port).atts) ∧
          (x.att.leaving = true → Tab.get? (t.proctor x.port).atts x.run.att = none)))

/-! ### Events -/

/-- What happens to a fragment between its instructions (R28, R44, R61, R62, R73, R204, R212, R222, R257): it enters its clause when the header and
words are fetched and the awaited flags are clear, parks FLAGWAIT when one is set, and takes BADHDR for a malformed header; it becomes ready again by
a re-test or the end of its sleep; it comes back from the spill area; its wait ends when its word differs; its group takes the priority it inherits; a
wrong register word is corrected or reported; a word that is no instruction takes ILLOP. That a clause's words are fetched once, at entry, and kept is
the model's choice (log 55), and so is it that a waiting instruction is reached as a safe point when it completes (log 91). -/
def Obligations.FragmentEvents : Prop :=
  ∀ (s : State) (core slot fi : Nat) (g : Group) (f : Frag),
    let gid := core * 128 + slot
    let x : Ctx := { gid := gid, fi := fi, g := g, f := f }
    Tab.get? s.groups gid = some g → g.frag? fi = some f → g.live = true →
    (f.cond = .ready → f.idx = 0 → fi < 8 → f.hdr = 0 → f.resume = none →
      ∀ t h, fetchWords s gid fi g f.pc 1 = (t, some [h]) →
        (headerOk h.toNat = false →
          ∃ u, exec (.enterClause core slot fi) s = .next u ∧ TrapTaken x u f.pc f.pc 0 0x04 0 0 f.scc []) ∧
        (headerOk h.toNat = true → ∀ t2 ws, fetchWords t gid fi g (f.pc + 4) (bitsAt h.toNat 0 4) = (t2, some ws) →
          (flagsSet g (waitmOf h.toNat) = [] → flagFailure g (waitmOf h.toNat) = none →
            ∃ u, exec (.enterClause core slot fi) s = .next u ∧
              fragOf u gid fi = some { f with hdr := h, words := ws, idx := 1 }) ∧
          (flagsSet g (waitmOf h.toNat) ≠ [] →
            ∃ u y b n, exec (.enterClause core slot fi) s = .next u ∧ fragOf u gid fi = some y ∧
              y = { f with hdr := h, words := ws, cond := .parked (.flags (waitmOf h.toNat)) b n }))) ∧
    (∀ why n, f.cond = .parked why false n → awaitMet s gid g why = true →
      ∃ t, exec (.waitingTableRetest core slot fi) s = .next t ∧ OnlyFrag s t gid fi ∧
        fragOf t gid fi = some { f with cond := .ready, since := s.clock }) ∧
    (∀ till, f.cond = .sleeping till → till ≤ s.clock →
      ∃ t, exec (.sleepExpiry core slot fi) s = .next t ∧ OnlyFrag s t gid fi ∧
        fragOf t gid fi = some { f with cond := .ready, since := s.clock }) ∧
    (∀ till, f.cond = .sleeping till → s.clock < till →
      ∃ t, exec (.sleepExpiry core slot fi) s = .next t ∧ fragOf t gid fi = some f) ∧
    (8 ≤ fi → f.cond = .ready → Tab.get? g.split f.home = none → f.home < 8 → freeEntries g ≠ 0 →
      ∃ t, exec (.spillBringBack core slot fi) s = .next t ∧ fragOf t gid f.home = some f ∧ fragOf t gid fi = none ∧
        ∀ k, k ≠ fi → k ≠ f.home → (Tab.get? t.groups gid).bind (fun y => Tab.get? y.split k) = Tab.get? g.split k) ∧
    (∃ t y, exec (.priorityRaise core slot) s = .next t ∧ t = { s with groups := t.groups } ∧
      (∀ k, k ≠ gid → Tab.get? t.groups k = Tab.get? s.groups k) ∧ Tab.get? t.groups gid = some y ∧
      y = { g with eprio := inherited 8 s gid }) ∧
    (∀ chip idx e, Tab.get? (s.chip chip).att idx = some e → e.st = 1 → e.kind = 2 ∨ e.kind = 3 →
      (∀ pa, e.place = some (none, pa) → (isHost pa = true → (sectorOf s chip (pa / 64)).st ≠ 0) ∧ readGate s pa 4 = none ∧ entryMet (soObject s e.uid none pa e.ord) e = true) →
      ((∀ pa, e.place ≠ some (none, pa)) → entryMet s e = true) →
      groupBy s e.uid = some (gid, g) → g.namedFrag e.frag = some (fi, f) →
      ∃ t, exec (.waitReread chip idx) s = .next t ∧ GoesOn (afterSp x (lenHere f).2) t (lenHere f).1 0 true f.carry f.exec ∧ SameRegs x t ∧
        ∀ k, Tab.get? (t.chip chip).att k ≠ some e) ∧
    (∀ row lane,
      (Tab.get? (s.core core).bad (badKey row lane) = some false →
        ∃ t, exec (.registerScrub core row lane) s = .next t ∧ Tab.get? (t.core core).bad (badKey row lane) = none ∧
          t.groups = s.groups) ∧
      (Tab.get? (s.core core).bad (badKey row lane) = some true →
        ∃ t, exec (.registerScrub core row lane) s = .next t ∧ (t.core core).bad = (s.core core).bad ∧ t.groups = s.groups)) ∧
    (∀ ws e, s.issuer = some x → decode none ws = .error e →
      ∃ t, exec (.unlistedOpcode ws) s = .next t ∧ RegistersOnly gid s t ∧
        TrapTaken x t f.pc0 f.pc f.idx 0x01 0 0 f.scc (formatWords f))

/-- Deadlock detection (R259 to R262): a first pass records the stamps of a set, a second that finds them unchanged confirms it; a probe that finds
none forgets; a confirmed set whose report is written delivers CYCLE to one fragment, whose wait is withdrawn, and counts the report. Which set is
recorded and which cycle is reported is the model's choice (log 47), and so is it where a report at an address that is no multiple of 512 goes
(log 93). -/
def Obligations.DeadlocksReported : Prop :=
  ∀ (s : State) (chip : Nat),
    ((s.chip chip).scan = none → foundSet s chip = none →
      ∃ t, exec (.deadlockProbe chip) s = .next t ∧ (t.chip chip).scan = none ∧ t.groups = s.groups) ∧
    (∀ d v, (s.chip chip).scan = none → foundSet s chip = some (d, v) →
      ∃ t z, exec (.deadlockProbe chip) s = .next t ∧ (t.chip chip).scan = some z ∧ z.stamps = stampsOf s d ∧ z.victim = v.stamp ∧
        z.confirmed = false ∧ t.groups = s.groups) ∧
    (∀ d v z, (s.chip chip).scan = some z → z.confirmed = false → foundSet s chip = some (d, v) → z.stamps = stampsOf s d →
      reportPending s v.part = false →
      (writeReport { s with nextOp := s.nextOp + 1 } chip v.part (s.fe v.part).cycleSeq s.nextOp v.gid
        (reportBytes s (s.fe v.part).cycleSeq (edgesOf s d) (cyclePath s d (.group v.gid)))).2.isSome = true →
      ∃ t y, exec (.deadlockProbe chip) s = .next t ∧ (t.chip chip).scan = some y ∧ y.confirmed = true ∧ y.victim = v.stamp ∧
        y.edges = edgesOf s d ∧ y.seq = (s.fe v.part).cycleSeq) ∧
    (∀ z k e, (s.chip chip).scan = some z → z.confirmed = true → jobProbed s z.job = false →
      (s.chip chip).att.find? (fun e => e.2.stamp == z.victim && e.2.st == 1) = some (k, e) →
      ∃ t, exec (.cycleDelivery chip) s = .next t ∧ (t.chip chip).scan = none ∧
        (t.fe e.part).cycleSeq = ((s.fe e.part).cycleSeq + 1) % 2 ^ 64 ∧ (∀ j, Tab.get? (t.chip chip).att j ≠ some e) ∧
        ∀ gid g fi f, groupBy s e.uid = some (gid, g) → g.namedFrag e.frag = some (fi, f) → Tab.get? s.groups gid = some g →
          g.frag? fi = some f → g.trapVa ≠ 0 → g.hmode = none → e.kind ≠ 6 →
          ∃ y h, Tab.get? t.groups gid = some y ∧ y.frag? fi = some h ∧ h.pc = g.trapVa ∧ h.idx = 0 ∧ h.cond = .ready ∧
            y.hmode = some fi ∧ y.trapcnt = g.trapcnt + 1 ∧ bitsAt (y.sreg 372).toNat 4 8 = 0x0D ∧ bitAt (y.sreg 372).toNat 12 = true ∧
            (y.spair 376).toNat = z.va % 2 ^ 64 ∧ (y.spair 378).toNat = z.edges % 2 ^ 64 ∧ bitAt (y.sreg 383).toNat 0 = false)

/-- The homes (R21, R159, R160, R231): a load request is granted from a cached line or waits for DRAM, whose completion grants it; a posted
line is merged by its byte mask, advances the sequence number and is acknowledged at once, or when every probe of the line has been answered; an atomic
changes its bytes and answers the old value with its tag. Requests are taken from the receive buffer within their class budget (R288). -/
def Obligations.HomesServe : Prop :=
  ∀ (s : State) (chip mc line : Nat),
    let cc := portCC chip
    let m := portMC mc
    let home := portMC (homeMc (line * 128))
    let h := s.hline line
    let keep := !lineHostBias s line && h.flip ≠ 1
    let next := (h.seq + 1) % 2 ^ 16
    (∀ since halves uo part cls r, (s.pair cc m).inbox = (since, .loadReq line halves none uo part cls) :: r →
      budgetOk s (globalSlice (line * 128)) part cls = true → outranked s mc since (.loadReq line halves none uo part cls) = false →
      h.held = [] → homeGate s line halves h.passed = .go →
      (h.cached.isSome = true →
        ∃ t, exec (.homeLoadRequest chip mc) s = .next t ∧ Taken s t cc m (.loadReq line halves none uo part cls) ∧
          Sends s t home cc (.grant line (lineBytes s line) h.seq h.wts h.rts none uo keep h.poison.isSome) ∧ t.mem = s.mem) ∧
      (h.cached = none →
        ∃ t, exec (.homeLoadRequest chip mc) s = .next t ∧ Taken s t cc m (.loadReq line halves none uo part cls) ∧
          (t.hline line).dram = true ∧ (t.hline line).held = [(chip, .loadReq line halves none uo part cls)] ∧ t.mem = s.mem)) ∧
    (∀ halves uo part cls bad, h.dram = true → homeMc (line * 128) = mc → h.held = [(chip, .loadReq line halves none uo part cls)] →
      homeGate s line halves h.passed = .go → budgetOk s (memPort mc) part cls = true →
      (dramOutranked s mc line (.loadReq line halves none uo part cls) = false →
        ∃ t wts rts, exec (.dramReadComplete mc line bad) s = .next t ∧ (t.hline line).dram = false ∧ (t.hline line).held = [] ∧
          Sends s t home cc (.grant line (lineBytes s line) h.seq wts rts none uo keep (h.poison.isSome || bad)) ∧ t.mem = s.mem) ∧
      (dramOutranked s mc line (.loadReq line halves none uo part cls) = true → ∃ t, exec (.dramReadComplete mc line bad) s = .next t ∧ t = s)) ∧
    (∀ since id bytes uo part cls r, (s.pair cc m).inbox = (since, .posting id line bytes none uo part cls) :: r →
      budgetOk s (globalSlice (line * 128)) part cls = true → outranked s mc since (.posting id line bytes none uo part cls) = false →
      h.held = [] → seqRoom s line 1 = true → homeGate s line (maskHalves (maskOfBytes bytes)) 0 = .go → (bytes.map (·.1)).Nodup →
      (∀ p, Tab.get? s.postings id = some p → p.ent.dmask = 0) →
      ∃ t, exec (.homePostingMerge chip mc) s = .next t ∧ Taken s t cc m (.posting id line bytes none uo part cls) ∧
        LineWritten s t line bytes ∧ (t.hline line).seq = next ∧
        (h.holders = 0 → probesOut s line = 0 → Sends s t home cc (.postAck id next (globalSlice (line * 128)) 0)) ∧
        ((holderList h.holders).length + probesOut s line ≠ 0 → (t.hline line).holders = 0 ∧
          t.hwaits = s.hwaits ++ [{ line := line, seq := next, left := (holderList h.holders).length + probesOut s line
                                    reply := some (chip, .postAck id next (globalSlice (line * 128)) 0), job := none }])) ∧
    (∀ since id o a i part cls r, (s.pair cc m).inbox = (since, .atomReq id line [i] none part cls) :: r →
      budgetOk s (globalSlice (line * 128)) part cls = true → outranked s mc since (.atomReq id line [i] none part cls) = false →
      h.held = [] → seqRoom s line 1 = true → h.poison = none →
      Tab.get? s.ops id = some o → o.acc[i]? = some a → lineOf a.pa = line → atomWaits s chip (.atomReq id line [i] none part cls) = false →
      homeGate s line (maskHalves (byteMask (a.pa % 128) a.n)) 0 = .go →
      let old := Memory.readN s.mem a.pa a.n
      let l := if o.uni then 0 else a.lane
      let new := toBytes a.n (atomNew o.aop o.ty (ofBytes old) (Tab.getD o.data l 0) (Tab.getD o.cmp l 0))
      ∃ t, exec (.homeAtomic chip mc) s = .next t ∧ Taken s t cc m (.atomReq id line [i] none part cls) ∧
        LineWritten s t line ((List.range a.n).map fun k => (a.pa % 128 + k, nth new k 0)) ∧ (t.hline line).seq = next ∧
        (h.holders = 0 → probesOut s line = 0 → Sends s t home cc (.atomReply id [i] [old] [tagWord next line] 0 false))) ∧
    (∀ since seq w r, (s.pair cc m).inbox = (since, .probeAck line seq) :: r → s.hwaits.find? (fun w => w.line == line && w.seq == seq) = some w →
      s.hwaits.filter (fun y => y.line == line) = [w] → h.held = [] →
      (w.left ≤ 1 → ∀ c msg, w.reply = some (c, msg) →
        ∃ t, exec (.probeAckReceive chip mc) s = .next t ∧ t.hwaits = s.hwaits.erase w ∧ Sends s t m (portCC c) msg) ∧
      (1 < w.left →
        ∃ t, exec (.probeAckReceive chip mc) s = .next t ∧ Taken s t cc m (.probeAck line seq) ∧
          t.hwaits = s.hwaits.map fun y => if y == w then { y with left := y.left - 1 } else y))

/-- The compute chiplets (R20, R21, R30, R150, R153, R160, R232, R294): a grant fills the near cache and gives its bytes to the loads that asked; a
newer probe drops the near cache's line and is acknowledged, or recorded while a request is out; a combine-buffer line is posted after 512 cc and its
acknowledgement ends the stores' wait; a performed load or atomic writes its registers and completes; a walk goes down a level or stops the operation
at a fault; a scratchpad store, load or atomic is performed and completes, its bytes, its registers or both written, atomics in increasing lane order. That an
sc load waits while probes of its line are unanswered, and when a request of its own is sent, is the model's choice (log 20). -/
def Obligations.MemoryRepliesComplete : Prop :=
  ∀ (s : State) (chip mc line : Nat),
    let cc := portCC chip
    let m := portMC mc
    (∀ data seq wts rts uo keep id r o, inboxHead s m cc = some (.grant line data seq wts rts none uo keep false) →
      Tab.get? (s.chip chip).reqs line = some r → r.ops = [id] → r.late = [] → r.again = [] → r.probes = [] →
      Tab.get? s.ops id = some o → o.kind = .load → o.isFaulted = false → (∀ a ∈ o.acc, a.ord ≠ 1) → data.length = 128 → isDevice (line * 128) = true →
      (∃ a ∈ o.acc, a.done = false ∧ unitOf a.pa = line) → (keep = true ∨ id ∈ r.asked) → scHeld s o line = false →
      ∃ t p, exec (.nearCacheGrant chip mc) s = .next t ∧ Tab.get? (t.chip chip).reqs line = none ∧ Tab.get? t.ops id = some p ∧
        (keep = true → r.closed = false → Tab.get? (s.chip chip).near line = none → nearBusy s chip line = false →
          nearCount (s.chip chip) < 393216 →
          ∃ y, Tab.get? (t.chip chip).near line = some y ∧ y.data = data ∧ y.stamp = seq) ∧
        p.acc.length = o.acc.length ∧
        ∀ (k : Nat) a b, o.acc[k]? = some a → p.acc[k]? = some b →
          (a.done = false → line * 128 ≤ a.pa → a.pa < line * 128 + 128 →
            b.done = true ∧ b.data = (data.drop (a.pa - line * 128)).take a.n) ∧
          (a.done = true ∨ a.pa < line * 128 ∨ line * 128 + 128 ≤ a.pa → b.done = a.done ∧ b.data = a.data)) ∧
    (∀ p y, inboxHead s m cc = some (.probe line p) → Tab.get? (s.chip chip).near line = some y →
      (Tab.get? (s.chip chip).reqs line = none →
        ∃ t, exec (.nearCacheProbe chip mc) s = .next t ∧ Sends s t cc m (.probeAck line p) ∧
          Tab.get? (t.chip chip).near line = (if newer p y.stamp then none else some y)) ∧
      (∀ r, Tab.get? (s.chip chip).reqs line = some r →
        ∃ t, exec (.nearCacheProbe chip mc) s = .next t ∧
          Tab.get? (t.chip chip).reqs line = some { r with probes := r.probes ++ [p] } ∧
          Tab.get? (t.chip chip).near line = (if newer p y.stamp then none else some y))) ∧
    (∀ core e, (s.core core).cb = [e] → e.line = line → e.so = none → isDevice (line * 128) = true →
      (e.first + 512 ≤ s.clock →
        ∃ t p, exec (.combineBufferTimeout core line) s = .next t ∧ (t.core core).cb = [] ∧ Tab.get? t.postings s.nextOp = some p ∧
          p.core = core ∧ p.ent.bytes = e.bytes ∧ p.ent.ops = e.ops ∧
          Sends s t (portCC (chipOfCore core)) (portMC (homeMc (line * 128))) (.posting s.nextOp line e.bytes none e.uo e.part e.cls)) ∧
      (s.clock < e.first + 512 → e.want = false → ∃ t, exec (.combineBufferTimeout core line) s = .next t ∧ t = s)) ∧
    (∀ id q sl ts p n o, inboxHead s m cc = some (.postAck id q sl ts) → Tab.get? s.postings id = some p → p.ent.ops = [n] →
      Tab.get? s.ops n = some o → p.ent.so = none →
      ∃ t, exec (.postingAck chip mc) s = .next t ∧ Tab.get? t.postings id = none ∧
        Tab.get? t.ops n = some { o with waits := o.waits - 1 }) ∧
    (∀ id o gid g, Tab.get? s.ops id = some o → groupBy s o.uid = some (gid, g) → Tab.get? s.groups gid = some g →
      (o.kind = .load → o.stage = .performed →
        ∃ t, exec (.globalLoadReply id) s = .next t ∧ OpCompleted t id o gid g ∧ NotPending t id gid ∧
          ∀ d, o.dest = some d → d < 128 → o.uni = false → o.size ≤ 2 → ∃ y, Tab.get? t.groups gid = some y ∧ ∀ l, l < 64 →
            y.vlane d l = if inMask o.lanes l then BitVec.ofNat 32 (extended o.size o.sx (ofBytes (laneBytes o l))) else g.vlane d l) ∧
      (o.kind = .atomic → o.stage = .active → (∀ a ∈ o.acc, a.done = true) →
        (∀ k, k < 16 → ∀ idx old tags ts b, inboxHead s (portMC k) (portCC (chipOfCore (coreOf o.gid))) ≠
          some (.atomReply id idx old tags ts b)) →
        ∃ t, exec (.atomicReply id) s = .next t ∧ OpCompleted t id o gid g ∧ NotPending t id gid ∧
          ∀ d, o.dest = some d → d < 128 → o.uni = false → o.ty ≠ 2 → ∃ y, Tab.get? t.groups gid = some y ∧ ∀ l, l < 64 →
            y.vlane d l = if inMask o.lanes l then BitVec.ofNat 32 (ofBytes (laneBytes o l)) else g.vlane d l) ∧
      (∀ a tm, o.kind = .sstore → o.stage = .ready → padClear s id o = true → opHeld s o = false → o.acc = [a] → a.team = some tm →
        a.done = false → (Tab.get? s.teams tm).isSome = true → a.data.length = a.n →
        ∃ t, exec (.scratchpadAccessComplete id) s = .next t ∧ OpCompleted t id o gid g ∧ padRead t tm a.pa a.n = a.data ∧
          ∀ k, k < a.pa ∨ a.pa + a.n ≤ k → padRead t tm k 1 = padRead s tm k 1) ∧
      (o.stage = .ready → padClear s id o = true → opHeld s o = false → padPoisoned s id o = none →
        (o.kind = .sload →
          let got : Op := { o with acc := o.acc.map fun a => match a.team with
            | some tm => if a.done then a else { a with data := padRead s tm a.pa a.n }
            | none => a }
          ∃ t, exec (.scratchpadAccessComplete id) s = .next t ∧ OpCompleted t id o gid g ∧ NotPending t id gid ∧ t.teams = s.teams ∧
            ∀ d, o.dest = some d → d < 128 → o.uni = false → o.size ≤ 2 → ∃ y, Tab.get? t.groups gid = some y ∧ ∀ l, l < 64 →
              y.vlane d l = if inMask o.lanes l then BitVec.ofNat 32 (extended o.size o.sx (ofBytes (laneBytes got l))) else g.vlane d l) ∧
        (∀ a tm rest, o.kind = .satomic → o.acc = a :: rest → a.team = some tm → a.done = false → (Tab.get? s.teams tm).isSome = true →
          (rest = [] ∨ ∃ b, rest = [b] ∧ b.team = some tm ∧ b.done = false ∧ b.pa = a.pa ∧ b.n = a.n ∧ a.lane < b.lane) →
          let new := fun (l : Nat) (old : List Byte) => toBytes a.n (atomNew o.aop o.ty (ofBytes old) (Tab.getD o.data l 0) (Tab.getD o.cmp l 0))
          let old := padRead s tm a.pa a.n
          ∃ t, exec (.scratchpadAccessComplete id) s = .next t ∧ OpCompleted t id o gid g ∧ NotPending t id gid ∧
            (rest = [] → padRead t tm a.pa a.n = new a.lane old) ∧
            (∀ b, rest = [b] → padRead t tm a.pa a.n = new b.lane (new a.lane old)) ∧
            (∀ k, k < a.pa ∨ a.pa + a.n ≤ k → padRead t tm k 1 = padRead s tm k 1) ∧
            ∀ d, o.dest = some d → d < 128 → o.uni = false → o.ty ≠ 2 → ∃ y, Tab.get? t.groups gid = some y ∧
              (∀ l, l < 64 → inMask o.lanes l = false → y.vlane d l = g.vlane d l) ∧
              (a.lane < 64 → inMask o.lanes a.lane = true → y.vlane d a.lane = BitVec.ofNat 32 (ofBytes old)) ∧
              ∀ b, rest = [b] → b.lane < 64 → inMask o.lanes b.lane = true → y.vlane d b.lane = BitVec.ofNat 32 (ofBytes (new a.lane old))))) ∧
    (∀ id o w p t0 out, Tab.get? s.ops id = some o → opHeld s o = false → o.isFaulted = false → o.walk = some w → o.pages = [p] →
      walkOnce s (opXer o) w = (t0, some out) →
      (∀ w2, out = .more w2 → ∃ t, exec (.tableWalkStep id) s = .next t ∧ Tab.get? t.ops id = some { o with walk := some w2 }) ∧
      (∀ f, out = .fail f → o.kind ≠ .prefetch →
        ∃ t y e, exec (.tableWalkStep id) s = .next t ∧ Tab.get? t.ops id = some y ∧ y.stage = .faulted s.nextOp ∧
          Tab.get? t.events s.nextOp = some e ∧ e.part = o.part ∧ e.agent = .op id) ∧
      (∀ l pa ord, out = .leaf l → (loadLeaf t0 (opXer o) l (p * 4096) (opAccKind o.kind)).2 = .ok (pa, ord) → o.kind ≠ .prefetch →
        o.bad = [] → o.found = [] →
        ∃ t y, exec (.tableWalkStep id) s = .next t ∧ Tab.get? t.ops id = some y ∧ y.stage = .ready ∧ ∀ (k : Nat) a b,
          o.acc[k]? = some a → y.acc[k]? = some b → a.va / 4096 = p →
            b.pa = pa / 4096 * 4096 + a.va % 4096 ∧ b.ord = ord ∧ b.va = a.va ∧ b.data = a.data))

/-- The host's registers (R278 to R281, R286 to R288, R298, R302, R303, R341, R363): the fault queue's head, resumes,
invalidations from their start to the end of BUSY, allow-list limits, way masks from the write to the end of cleaning, the Journal's head, the Proctor
ring's head, virtual functions' mailboxes and maps, the Timetable from the commit to the round, configuration writes with EN 1. That an allow-list
limit keeps all 64 bits written is the model's choice (log 79). -/
def Obligations.HostRegisters : Prop :=
  ∀ (s : State) (n slice : Nat) (v : DWord),
    let f := s.fe n
    let w := v.toNat
    let fes := fun (t : State) (g : Fe) => t = { s with fes := t.fes } ∧ t.fe n = g ∧ ∀ k, k ≠ n → t.fe k = s.fe k
    let vf := s.vf n
    let sl := s.slice slice
    let old := Tab.getD sl.masks n 0xFFFF
    ((f.fqtail + 8192 - f.fqhead) % 8192 < (w % 8192 + 8192 - f.fqhead) % 8192 → ∃ t, exec (.feFqhead n v) s = .next t ∧ t = s) ∧
    ((w % 8192 + 8192 - f.fqhead) % 8192 ≤ (f.fqtail + 8192 - f.fqhead) % 8192 → f.fqWaiting = [] →
      ∃ t, exec (.feFqhead n v) s = .next t ∧ fes t { f with fqhead := w % 8192 }) ∧
    (∃ t, exec (.feFresume n v) s = .next t ∧ (t.fe n).frstat = resumeResult s n w ∧
      (resumeResult s n w ≠ 0 → fes t { f with frstat := resumeResult s n w })) ∧
    (f.tlbinvBusy = true ∨ w % 4 = 3 → ∃ t, exec (.feTlbinv n v) s = .next t ∧ t = s) ∧
    (f.tlbinvBusy = false → w % 4 ≠ 3 →
      let m := if w % 4 = 0 then 2 ^ 12 else 2 ^ 21
      let a := f.tlbinvVa % 2 ^ 57 / m * m
      let meets := fun l : Leaf => l.part = n ∧ (w % 4 = 2 ∨ l.vbase % 2 ^ 57 < a + m ∧ a < l.vbase % 2 ^ 57 + 2 ^ l.bits)
      ∃ t, exec (.feTlbinv n v) s = .next t ∧ (t.fe n).tlbinvBusy = true ∧ (t.fe n).tlbinvExt = w % 4 ∧
        (∀ c l, l ∈ (t.core c).tlb ↔ l ∈ (s.core c).tlb ∧ ¬ meets l) ∧ (∀ c l, l ∈ (t.chip c).tlb ↔ l ∈ (s.chip c).tlb ∧ ¬ meets l) ∧
        (∀ e l, l ∈ Tab.getD t.etlbs e [] ↔ l ∈ Tab.getD s.etlbs e [] ∧ ¬ meets l) ∧
        (∀ c k, k ∈ (t.chip c).walks ↔ k ∈ (s.chip c).walks ∧ ¬ (k.1 = n ∧ (w % 4 = 2 ∨ k.2.2.1 = walkTag a k.2.1))) ∧
        t.groups = s.groups ∧ t.mem = s.mem) ∧
    (f.tlbinvBusy = true → invDone s f.tlbinvOps = true →
      ∃ t, exec (.tlbinvComplete n) s = .next t ∧ (t.fe n).tlbinvBusy = false ∧ t.groups = s.groups ∧ t.mem = s.mem) ∧
    (f.tlbinvBusy = true → invDone s f.tlbinvOps = false →
      ∃ t, exec (.tlbinvComplete n) s = .next t ∧ t = s) ∧
    (∃ t a, exec (.feAllowlim n v) s = .next t ∧ fes t { f with allow := (t.fe n).allow } ∧
      Tab.get? (t.fe n).allow f.allowidx = some a ∧ a.lim = w ∧
      a.grant = (if w % 2 ^ 32 = 0 then 0 else (Tab.getD f.allow f.allowidx Allow.empty).grant)) ∧
    (f.wayidx < 1280 → ∃ t, exec (.feWaymask n v) s = .next t ∧ t = { s with slices := t.slices } ∧
      (∀ k, k ≠ f.wayidx → t.slice k = s.slice k) ∧
      Tab.get? (t.slice f.wayidx).nextMasks n = some (w % 2 ^ 16) ∧ (t.slice f.wayidx).masks = (s.slice f.wayidx).masks) ∧
    (∀ m, Tab.get? sl.nextMasks n = some m →
      ∃ t, exec (.wayMaskApply n slice) s = .next t ∧ t = { s with slices := t.slices } ∧
        Tab.getD (t.slice slice).masks n 0xFFFF = m ∧ Tab.get? (t.slice slice).nextMasks n = none ∧
        (old &&& m ≠ old → n ∈ (t.slice slice).cleaning)) ∧
    (n ∈ sl.cleaning → ∃ t, exec (.wayCleaningDone n slice) s = .next t ∧ n ∉ (t.slice slice).cleaning ∧ t.mem = s.mem ∧
      (t.slice slice).masks = sl.masks ∧ ∀ l p, (t.hline l).cached = some p → globalSlice (l * 128) = slice →
        p % 16 ∉ waysOf old → (t.hline l).dirty = false) ∧
    (∃ t, exec (.feJnlhead n v) s = .next t ∧ fes t (t.fe n) ∧ f.jnlhead ≤ (t.fe n).jnlhead ∧ (t.fe n).jnltail = f.jnltail ∧
      (f.jnlhead ≤ f.jnltail → (t.fe n).jnlhead ≤ f.jnltail) ∧ (∀ k, lowestOpen f = some k → f.jnlhead ≤ k → (t.fe n).jnlhead ≤ k) ∧
      (f.jnlhead < w → w ≤ f.jnltail → lowestOpen f = none → (t.fe n).jnlhead = w)) ∧
    ((w % 2 ^ 32 + 2 ^ 32 - f.prouthead) % 2 ^ 32 ≤ (f.prouttail + 2 ^ 32 - f.prouthead) % 2 ^ 32 →
      ∃ t, exec (.feProuthead n v) s = .next t ∧ fes t { f with prouthead := w % 2 ^ 32 }) ∧
    ((f.prouttail + 2 ^ 32 - f.prouthead) % 2 ^ 32 < (w % 2 ^ 32 + 2 ^ 32 - f.prouthead) % 2 ^ 32 →
      ∃ t, exec (.feProuthead n v) s = .next t ∧ t = s) ∧
    (bitAt vf.map 8 = true → vf.fifo.length < 64 →
      ∃ t, exec (.vfMbox n v) s = .next t ∧ t.vf n = { vf with fifo := vf.fifo ++ [w] } ∧ t.outs = s.outs ++ [.irq 2 n] ∧
        t = { s with vfs := t.vfs, outs := t.outs }) ∧
    (bitAt vf.map 8 = false ∨ 64 ≤ vf.fifo.length →
      ∃ t, exec (.vfMbox n v) s = .next t ∧ t.vf n = { vf with dropped := (vf.dropped + 1) % 2 ^ 16 } ∧ t = { s with vfs := t.vfs }) ∧
    (∀ p r, vf.fifo = p :: r →
      ∃ t, exec (.mailboxFifoRead n) s = .next t ∧ t.vf n = { vf with fifo := r } ∧ t.outs = s.outs ++ [.mailbox n p] ∧
        t = { s with vfs := t.vfs, outs := t.outs }) ∧
    (vf.fifo = [] → ∃ t, exec (.vfMap n v) s = .next t ∧ t.vf n = { vf with map := w % 32 + bitsAt w 8 1 * 2 ^ 8 } ∧
      t = { s with vfs := t.vfs }) ∧
    (vf.fifo ≠ [] → ∃ t, exec (.vfMap n v) s = .next t ∧ t = s) ∧
    (bitAt w 0 = true → ¬ (s.tt.slot = 63 ∧ slotEnd s ≤ s.clock) →
      ((∃ k g, (k, g) ∈ s.fes ∧ g.en = true ∧ ownsSlot s.tt.slots k = false) →
        ∃ t, exec (.ttCommit v) s = .next t ∧ t = { s with tt := { s.tt with failed := true } }) ∧
      ((∀ k g, (k, g) ∈ s.fes → g.en = true → ownsSlot s.tt.slots k = true) →
        ∃ t, exec (.ttCommit v) s = .next t ∧
          t = { s with tt := { s.tt with failed := false, next := some (s.tt.slots, s.tt.budgets) } })) ∧
    (s.tt.slot < 63 → (s.tt.round * 64 + s.tt.slot + 1) * 512 ≤ s.clock →
      ∃ t, exec .timetableSlotStart s = .next t ∧ t.tt = { s.tt with slot := s.tt.slot + 1 } ∧ (∀ k, (t.slice k).used = [] ∧ (t.slice k).owned = false) ∧
        t.groups = s.groups ∧ t.mem = s.mem) ∧
    (s.tt.slot = 63 → (s.tt.round * 64 + 64) * 512 ≤ s.clock →
      ∃ t, exec .timetableRoundStart s = .next t ∧ t.tt.slot = 0 ∧ t.tt.round = s.tt.round + 1 ∧ t.tt.next = none ∧
        (∀ p, s.tt.next = some p → t.tt.runSlots = p.1 ∧ t.tt.runBudgets = p.2) ∧
        (s.tt.next = none → t.tt.runSlots = s.tt.runSlots) ∧ (∀ p, (t.proctor p).used = []) ∧ t.groups = s.groups) ∧
    (n < 32 → (f.en = true →
        ∃ t, exec (.registerWrite 0 (n * 0x1000 + 0x008) v) s = .next t ∧ fes t { f with err := true }) ∧
      (f.en = false →
        ∃ t, exec (.registerWrite 0 (n * 0x1000 + 0x008) v) s = .next t ∧
          fes t { f with cores := bitsAt w 0 7 + bitsAt w 8 7 * 2 ^ 8 }) ∧
      (∃ t, exec (.registerWrite 0 (n * 0x1000 + 0x080) v) s = .next t ∧ fes t f) ∧
      ∃ t, exec (.registerWrite 0 (n * 0x1000 + 0x030) v) s = .next t ∧ fes t { f with ringva := w })

/-- Saves and restores (R277, R304 to R315): what each request and event leaves of a group, and the compaction of a register file. What a restore
reads from the image, and what it takes from the group as it was kept, is the model's choice (logs 23 and 82). -/
def Obligations.SavesAndRestores : Prop :=
  ∀ (s : State) (n core slot : Nat) (v : DWord) (g : Group),
    let w := v.toNat
    let gid := core * 128 + slot
    let asked : Group := { g with saveReq := some s.clock, grace := if allIdle g then some 1 else none }
    Tab.get? s.groups gid = some g →
    (bitAt w 16 = false → preemptOk s n w = true → gid ∈ preemptNames s n w → g.live = true → g.saveReq = none →
      ∃ t, exec (.fePreemptSave n v) s = .next t ∧ t = { s with fes := t.fes, groups := t.groups } ∧
        t.fe n = { s.fe n with preemptBad := false } ∧ Tab.get? t.groups gid = some asked) ∧
    (bitAt w 16 = false → preemptOk s n w = false →
      ∃ t, exec (.fePreemptSave n v) s = .next t ∧ t = { s with fes := t.fes } ∧ t.fe n = { s.fe n with preemptBad := true }) ∧
    (bitAt w 16 = true → preemptOk s n w = true → gid ∈ preemptNames s n w → g.state = .saved →
      ∃ t, exec (.fePreemptRestore n v) s = .next t ∧ t = { s with fes := t.fes } ∧ gid ∈ (t.fe n).restores) ∧
    (let m := (s.fe g.part).slice % 2 ^ 32;
      (m ≠ 0 → g.placedAt + m ≤ s.clock → workWaits s g.part core = true → g.live = true → g.saveReq = none →
        ∃ t, exec (.sliceEnd core slot) s = .next t ∧ t = { s with groups := t.groups } ∧ Tab.get? t.groups gid = some asked ∧
          ∀ k, k ≠ gid → Tab.get? t.groups k = Tab.get? s.groups k) ∧
      (s.clock < g.placedAt + m → ∃ t, exec (.sliceEnd core slot) s = .next t ∧ t = s)) ∧
    (∀ q, g.saveReq = some q → g.grace = none →
      (q + 4096 ≤ s.clock →
        ∃ t, exec (.saveGraceExpiry core slot) s = .next t ∧ t = { s with groups := t.groups } ∧
          Tab.get? t.groups gid = some { g with grace := some 1 }) ∧
      (s.clock < q + 4096 → ∃ t, exec (.saveGraceExpiry core slot) s = .next t ∧ t = s)) ∧
    (∀ h, g.grace = some h → g.live = true → g.killed = false → coreOf gid = core → imageHeld writeGate s gid g = none →
      ∃ t y, exec (.saveComplete core slot) s = .next t ∧ Tab.get? t.groups gid = some y ∧ y.state = .saved ∧ y.savedFrom = g.state ∧
        y.halted = (h != 0) ∧ y.saveReq = none ∧ y.grace = none ∧ y.tiles = [] ∧ y.kept.length = g.tiles.length ∧
        (cgenFlies t gid ((Tab.getD s.cgens gid 0 + 1) % 256) = false → Tab.getD t.cgens gid 0 = (Tab.getD s.cgens gid 0 + 1) % 256) ∧
        (t.fe g.part).saveOrder = (s.fe g.part).saveOrder ++ [gid]) ∧
    (∀ u sub row r, mayRestore s gid g = true → g.kept.length ≤ (freeTiles s core).length → coreOf gid = core →
      rowPlacesC s core 1 (rowsOf g.vcount) = (u, some ((sub, row) :: r)) →
      imageHeld readGate u gid g = none → headerHeld u gid g = none →
      let z := if imageFits u gid g then loadImage u gid g else g
      ∃ t y, exec (.restore core slot) s = .next t ∧ Tab.get? t.groups gid = some y ∧ y.state = g.savedFrom ∧ y.subcore = sub ∧
        y.row0 = row ∧ y.tiles = (freeTiles s core).take g.kept.length ∧ y.kept = [] ∧ y.placedAt = s.clock ∧ y.v = z.v ∧ y.s = z.s ∧
        gid ∉ (t.fe g.part).saveOrder ∧ gid ∉ (t.fe g.part).restores) ∧
    (mayRestore s gid g = false → ∃ t, exec (.restore core slot) s = .next t ∧ t = s) ∧
    (∃ t y, exec (.registerCompaction core) s = .next t ∧ Tab.get? t.groups gid = some y ∧ y = { g with row0 := y.row0 } ∧
      y.row0 ≤ g.row0 ∧ (movable g = false → y = g) ∧ t = { s with groups := t.groups, cores := t.cores })

/-- The placement of teams and cohorts (R275, R276, R305) and the acceptance of a submission (R273, R274, R282, R283). That a Journal without a
trusted mirror answers FULL is the model's choice (log 32), and so are the place of a block of rows (log 42) and placement after a compaction in one
step (log 70). -/
def Obligations.LaunchesPlaced : Prop :=
  ∀ (s : State) (n k : Nat) (l : Launch) (v : DWord),
    let f := s.fe n
    let seq := v.toNat % 2 ^ 32
    let s1 := s.modFe n fun f => { f with submits := [(f.submitLo, seq)] }
    (nextLaunch s n = some (k, l) → Tab.get? s.launches k = some l → f.places = true →
      (l.cohort = 0 →
        (∀ as c bs t rows base, fromPointer f = as ++ c :: bs → (∀ a ∈ as, (roomFor s a l).2 = none) →
          roomFor s c l = (t, some (rows, base)) →
          ∃ u m d, exec (.teamPlacement n) s = .next u ∧ Tab.get? u.launches k = some m ∧ m.next = l.next + 1 ∧ m.started = true ∧
            m.live = l.live + l.team ∧ (u.fe n).pointer = coreAfter f c ∧
            Tab.get? u.teams s.nextOp = some d ∧ d.launch = k ∧ d.part = l.part ∧ d.core = c ∧ d.base = base ∧ d.size = l.scratch ∧
            d.alive = l.team ∧
            ∀ i, i < l.team → ∃ g h, Tab.get? u.groups (c * 128 + nth (freeSlots s c) i 0) = some g ∧ g.state = .placed ∧ g.launch = k ∧
              g.team = s.nextOp ∧ g.teamid = BitVec.ofNat 32 l.next ∧ g.vcount = l.vregs ∧ g.subcore = (nth rows i (0, 0)).1 ∧
              g.row0 = (nth rows i (0, 0)).2 ∧ g.bprio = l.prio ∧ g.trapVa = l.trap ∧
              g.frag? 0 = some h ∧ h.pc = l.code ∧ h.idx = 0 ∧ h.exec = BitVec.allOnes 64 ∧ h.cond = .ready) ∧
        ((∀ c ∈ fromPointer f, (roomFor s c l).2 = none) → ∃ u, exec (.teamPlacement n) s = .next u ∧ u = s)) ∧
      (l.cohort ≠ 0 →
        (∀ as c bs t cs, chipsFrom f = as ++ c :: bs → (∀ a ∈ as, (cohortCores s f a l).2.length < l.cohort) →
          cohortCores s f c l = (t, cs) → l.cohort ≤ cs.length →
          ∃ u m, exec (.cohortPlacement n) s = .next u ∧ Tab.get? u.launches k = some m ∧ m.next = l.next + 1 ∧ m.started = true ∧
            (u.fe n).pointer = coreAfter f ((cs.map (·.1)).foldl max 0) ∧
            ∀ (j : Nat) p, cs[j]? = some p → ∃ d, Tab.get? u.teams (s.nextOp + 1 + j * (1 + l.team)) = some d ∧ d.launch = k ∧
              d.core = p.1 ∧ d.cohort = s.nextOp ∧ d.member = j ∧ d.base = p.2.2 ∧ d.alive = l.team) ∧
        ((∀ c ∈ chipsFrom f, (cohortCores s f c l).2.length < l.cohort) →
          ∃ u, exec (.cohortPlacement n) s = .next u ∧ u = s))) ∧
    (f.submits = [] → f.rst = false →
      let ends := fun (st : Nat) => ∃ t, exec (.feSubmit n v) s = .next t ∧ t = { s with fes := t.fes } ∧ t.fe n = { f with status := st }
      let r := vaRead s1 (feXer n) .load false f.submitLo 64
      (f.en = false → ends 5) ∧
      (f.en = true → seq ≤ f.last → ends 1) ∧
      (f.en = true → f.last + 1 < seq → ends 2) ∧
      (f.en = true → seq = f.last + 1 → f.submitLo % 64 ≠ 0 → ends 3) ∧
      (f.en = true → seq = f.last + 1 → f.submitLo % 64 = 0 →
        (∀ b e, r.2 = .error (b :: e) → ∃ t, exec (.feSubmit n v) s = .next t ∧ (t.fe n).status = 3 ∧ t.launches = s.launches) ∧
        (∀ bs, r.2 = .ok bs → ((blockOf bs).valid f = false →
            ∃ t, exec (.feSubmit n v) s = .next t ∧ (t.fe n).status = 3 ∧ t.launches = s.launches) ∧
          ((blockOf bs).valid f = true → f.jnlRoom = false →
            ∃ t, exec (.feSubmit n v) s = .next t ∧ (t.fe n).status = 4 ∧ t.launches = s.launches) ∧
          ((blockOf bs).valid f = true → f.jnlRoom = true →
            ∃ t y e, exec (.feSubmit n v) s = .next t ∧ (t.fe n).status = 0 ∧ (t.fe n).last = seq ∧ (t.fe n).submits = [] ∧
              (t.fe n).jnltail = f.jnltail + 1 ∧ Tab.get? t.launches (launchKey n f.jnltail) = some y ∧ y.part = n ∧
              y.jseq = f.jnltail ∧ y.code = (blockOf bs).code ∧ y.grid = (blockOf bs).grid ∧ y.next = 0 ∧ y.live = 0 ∧
              y.started = false ∧ Tab.get? (t.fe n).jnl f.jnltail = some e ∧ e.state = 1 ∧ e.origin = false ∧ e.subseq = seq ∧
              e.runs = 0 ∧ f.jnltail ∈ (t.fe n).notDurable))))

/-- Journal mirrors, enabling, and every cause of a partition reset (R278, R287, R359, R361, R364 to R366): what a reset discards, what it records,
and what becomes of a Journal entry. That a committed Timetable which still waits for its round counts for enabling is the model's choice (log 25), and so are
what a host reads of a change that is not durable (log 105) and which partitions the failure of a memory or edge chiplet resets (log 104). -/
def Obligations.PartitionResets : Prop :=
  ∀ (s : State) (n jseq chip : Nat) (v : DWord),
    let f := s.fe n
    let resets := fun (t : State) (cause : Nat) =>
      (t.fe n).rst = true ∧ (t.fe n).rcause = cause ∧ (t.fe n).resets = (f.resets + 1) % 256 ∧ (t.fe n).status = f.status ∧
        (t.fe n).last = f.last ∧ (∀ k g, Tab.get? t.groups k = some g → g.part ≠ n) ∧
        (∀ k o, Tab.get? t.ops k = some o → o.part ≠ n) ∧ ∀ k d, Tab.get? t.teams k = some d → d.part ≠ n
    (∀ e, jseq ∈ f.notDurable → Tab.get? f.jnl jseq = some e →
      (f.serve0 = true ∨ f.serve1 = true →
        ∃ t, exec (.journalDurable n jseq) s = .next t ∧ t = { s with fes := t.fes } ∧
          t.fe n = { f with
            notDurable := f.notDurable.filter (· != jseq), shown := Tab.set f.shown jseq e, mir1 := (t.fe n).mir1 } ∧
          (f.serve1 = true → Tab.get? (t.fe n).mir1 (jindex jseq) = some e.copy) ∧
          (f.serve1 = false → (t.fe n).mir1 = f.mir1)) ∧
      (f.serve0 = false → f.serve1 = false → ∃ t, exec (.journalDurable n jseq) s = .next t ∧ t = s)) ∧
    (n < 32 →
      ∃ t, exec (.journalMirrorFailure chip) s = .next t ∧ t = { s with fes := t.fes } ∧
        t.fe n = (if n % 16 = chip then { f with serve0 := false, mir1 := (t.fe n).mir1 }
          else if (n + 8) % 16 = chip then { f with serve1 := false } else f) ∧
        (n % 16 = chip → f.serve1 = true → ∀ e, f.notDurable = [jseq] → Tab.get? f.jnl jseq = some e →
          Tab.get? (t.fe n).mir1 (jindex jseq) = some e.copy)) ∧
    (f.en = false →
      (enableFails s n = true → ∃ t, exec (.feCtlEnable n) s = .next t ∧ t = { s with fes := t.fes } ∧ t.fe n = { f with err := true }) ∧
      (enableFails s n = false → f.recover = false →
        ∃ t, exec (.feCtlEnable n) s = .next t ∧ t = { s with fes := t.fes, nextOp := s.nextOp + 1 } ∧
          t.fe n = { f with en := true, key := s.nextOp, pointer := bitsAt f.cores 0 7 }) ∧
      ∃ t, exec (.feCtlDisable n) s = .next t ∧ t = s) ∧
    (f.rst = false →
      (f.en = true → ∃ t, exec (.feCtlDisable n) s = .next t ∧ (t.fe n).en = false ∧ resets t 1) ∧
      (bitAt v.toNat 0 = true → ∃ t, exec (.feReset n v) s = .next t ∧ (t.fe n).en = f.en ∧ resets t 1) ∧
      (∀ l, Tab.get? s.launches (launchKey n jseq) = some l → f.wdctl = true → l.started = true →
        (l.moved + l.savedFor + 2 ^ 28 ≤ s.clock → ∃ t, exec (.watchdogExpiry n jseq) s = .next t ∧ resets t 2) ∧
        (s.clock < l.moved + l.savedFor + 2 ^ 28 → ∃ t, exec (.watchdogExpiry n jseq) s = .next t ∧ t = s)) ∧
      (chip < 16 → (n, f) ∈ s.fes → (∃ c ∈ f.coreList, chipOfCore c = chip) →
        ∃ t, exec (.hardwareFailure chip) s = .next t ∧ chip ∈ t.mg.failed ∧ (t.fe n).en = false ∧ (t.fe n).err = true ∧ resets t 3) ∧
      (16 ≤ chip → chip < 34 → (n, f) ∈ s.fes → f.en = true →
        ∃ t, exec (.hardwareFailure chip) s = .next t ∧ chip ∈ t.mg.failed ∧ (t.fe n).en = true ∧ resets t 3 ∧
          (chip < 32 → n < 32 → n % 16 = chip - 16 → (t.fe n).serve0 = false) ∧
          (chip < 32 → n < 32 → (n + 8) % 16 = chip - 16 → (t.fe n).serve1 = false)) ∧
      (∀ k e, f.jnl = [(k, e)] → e.jseq = k → bitAt v.toNat 0 = true →
        ∃ t y, exec (.feReset n v) s = .next t ∧ Tab.get? (t.fe n).jnl k = some y ∧
          (e.state = 2 → e.replay = false → y.state = 4 ∧ y.fin = 4) ∧
          (e.state = 2 → e.replay = true → 8 ≤ e.runs → y.state = 4 ∧ y.fin = 6) ∧
          (e.state = 2 → e.replay = true → e.runs < 8 → y.state = 1 ∧ y.runs = e.runs) ∧
          (e.state = 1 → y = e) ∧
          (e.state = 1 ∨ (e.state = 2 ∧ e.replay = true ∧ e.runs < 8) →
            ∃ l, Tab.get? t.launches (launchKey n k) = some l ∧ l.started = false ∧ l.next = 0 ∧ l.jseq = k ∧ l.part = n))) ∧
    (bitAt v.toNat 0 = false ∨ f.rst = true → ∃ t, exec (.feReset n v) s = .next t ∧ t = s) ∧
    (16 ≤ chip → chip < 32 → n < 32 → (∀ e ∈ s.fes, e.2.en = false) →
      ∃ t, exec (.hardwareFailure chip) s = .next t ∧ t.groups = s.groups ∧
        (n % 16 = chip - 16 → t.fe n = { f with serve0 := false, mir1 := (t.fe n).mir1 }) ∧
        ((n + 8) % 16 = chip - 16 → t.fe n = { f with serve1 := false }))

/-- Management (R24, R25, R62, R327, R364, R367, R370 to R376): device resets and what outlives them, bring-up, attestation, the clock, scrubbing and
gating. The model's choices: memory that does not survive reads as 0 (log 3), the clock is counted from 2,100 MHz (log 34), the boot status comes by
argument and guards PLANES_TRAINED (log 56), the kinds of scrubbing and what becomes of lost combine-buffer bytes (log 67), the measured power and
temperature (log 103), the layout of the attestation report (log 102). -/
def Obligations.DeviceManaged : Prop :=
  ∀ (s : State) (v : DWord) (n place line : Nat),
    let mg := fun (t : State) (m : Mgmt) => t = { s with mg := m }
    let wiped := fun (t : State) =>
      t.groups = [] ∧ t.launches = [] ∧ t.teams = [] ∧ t.ops = [] ∧ t.chips = [] ∧ t.pairs = [] ∧ t.cores = [] ∧ t.events = [] ∧
        (t.fe n).en = false ∧ (t.fe n).last = (s.fe n).last ∧ (t.fe n).jnlhead = (s.fe n).jnlhead ∧
        (t.fe n).jnltail = (s.fe n).jnltail ∧ ∀ pa, survives pa = false → Memory.read t.mem pa = 0
    (∀ img cause,
      (v.toNat = 0xD0 →
        ∃ t, exec (.mgReset v img cause) s = .next t ∧ wiped t ∧ t.mg.trained = false ∧
          (cause % 8 = 0 → t.mg.bootstat = 1 ∧ t.mg.images.length = Config.fwImages ∧
            ∀ i, Tab.getD s.mg.fuses i 0 ≤ Tab.getD t.mg.fuses i 0 ∧
              (i < Config.fwImages → ∃ y, t.mg.images[i]? = some y ∧ Tab.getD t.mg.fuses i 0 ≤ y.version)) ∧
          (cause % 8 ≠ 0 → t.mg.images = [] ∧ t.mg.fuses = s.mg.fuses) ∧ (cause % 8 ≠ 0 → bitsAt t.mg.bootstat 9 3 = cause % 8 ∧ bitsAt t.mg.bootstat 1 8 = img % 256 ∧
            bitAt t.mg.bootstat 0 = false) ∧
          ∀ pa, survives pa = true → Memory.read t.mem pa = Memory.read (writeBackAll s) pa) ∧
      (v.toNat ≠ 0xD0 → ∃ t, exec (.mgReset v img cause) s = .next t ∧ t = s)) ∧
    (∀ cause,
      ∃ t, exec (.fatalDeviceError cause) s = .next t ∧ wiped t ∧ bitsAt t.mg.errlog 0 8 = cause % 256 ∧
        bitsAt t.mg.errlog 8 8 = (bitsAt s.mg.errlog 8 8 + 1) % 256 ∧ t.mg.bootstat = 0) ∧
    ((bitAt s.mg.bootstat 0 = true → ∃ t, exec .planesTrained s = .next t ∧ mg t { s.mg with trained := true }) ∧
      (bitAt s.mg.bootstat 0 = false → ∃ t, exec .planesTrained s = .next t ∧ t = s)) ∧
    ((bitAt v.toNat 0 = true → s.mg.attBusy = false →
        ∃ t, exec (.mgAttcmd v) s = .next t ∧ mg t { s.mg with attBusy := true, attDone := false, nonceNow := s.mg.nonce }) ∧
      (bitAt v.toNat 0 = false ∨ s.mg.attBusy = true → ∃ t, exec (.mgAttcmd v) s = .next t ∧ t = s)) ∧
    ((s.mg.attBusy = true →
        ∃ t, exec .attestationDone s = .next t ∧
          mg t { s.mg with attBusy := false, attDone := true, attbuf := attReport s ++ attSignature (attReport s) } ∧
          t.mg.attbuf.length = 1024 ∧ s.mg.nonceNow ∈ reportContents s) ∧
      (s.mg.attBusy = false → ∃ t, exec .attestationDone s = .next t ∧ t = s)) ∧
    (∃ t, exec .powerLimitReached s = .next t ∧ t = { s with mg := t.mg, freeCtr := s.freeCtr + 1 } ∧
      t.mg = { s.mg with power := t.mg.power, limitAt := s.clock } ∧ clockMhz t = max 1000 (clockMhz s - 100) ∧
      (s.mg.pwrcap < 4096 → Config.junctionLimit < 256 →
        s.mg.pwrcap ≤ bitsAt t.mg.power 0 12 ∨ Config.junctionLimit ≤ bitsAt t.mg.power 32 8)) ∧
    (s.mg.limitAt + 1000 * clockMhz s ≤ s.clock →
      ∃ t, exec .clockRaise s = .next t ∧ t = { s with mg := t.mg, freeCtr := s.freeCtr + 1 } ∧
        t.mg = { s.mg with power := t.mg.power } ∧ clockMhz t = min 2100 (clockMhz s + 100) ∧
        (0 < s.mg.pwrcap → bitsAt t.mg.power 0 12 < s.mg.pwrcap)) ∧
    (s.clock < s.mg.limitAt + 1000 * clockMhz s → ∃ t, exec .clockRaise s = .next t ∧ t = s) ∧
    (∀ kind, ∃ t, exec (.storageScrub kind place line false) s = .next t ∧ mg t { s.mg with errlog := t.mg.errlog } ∧
      correctedCount t = (correctedCount s + 1) % 2 ^ 48 ∧ bitsAt t.mg.errlog 0 16 = bitsAt s.mg.errlog 0 16) ∧
    (∀ d, Tab.get? s.teams place = some d →
      ∃ t y, exec (.storageScrub 0 place line true) s = .next t ∧ t = { s with teams := t.teams } ∧ Tab.get? t.teams place = some y ∧
        y = { d with poison := y.poison } ∧ line ∈ y.poison) ∧
    (∃ t, exec (.storageScrub 1 place line true) s = .next t ∧ t = { s with cores := t.cores } ∧ Tab.get? (t.core place).l1 line = none ∧
      ∀ k, k ≠ line → Tab.get? (t.core place).l1 k = Tab.get? (s.core place).l1 k) ∧
    (isDevice (line * 128) = true → (∃ e ∈ (s.core place).cb, e.line = line) →
      ∃ t, exec (.storageScrub 2 place line true) s = .next t ∧ (t.hline line).poison = some 0 ∧ t.mem = s.mem ∧
        ∀ e ∈ (t.core place).cb, e.line = line → e.bytes = []) ∧
    (isHost (line * 128) = true → ∀ e half, (s.core place).cb = [e] → e.line = line → half < 2 →
      (∃ o b, (o, b) ∈ e.bytes ∧ o / 64 = half) →
      ∃ t, exec (.storageScrub 2 place line true) s = .next t ∧ (2 * line + half) ∈ t.hp.lost ∧ t.mem = s.mem) ∧
    (isHost (line * 128) = false →
      ∃ t, exec (.storageScrub 3 place line true) s = .next t ∧ t = { s with chips := t.chips } ∧
        Tab.get? (t.chip place).near line = none) ∧
    (isHost (line * 128) = true → ∀ half y, half < 2 → Tab.get? (s.chip place).host (2 * line + half) = some y →
      ∃ t z, exec (.storageScrub 3 place line true) s = .next t ∧ Tab.get? (t.chip place).host (2 * line + half) = some z ∧ z.st = 0 ∧
        t.mem = s.mem ∧ (y.st = 3 → (2 * line + half) ∈ t.hp.lost)) ∧
    ((s.hline line).cached.isSome = true → globalSlice (line * 128) = place → isDevice (line * 128) = true →
      ∃ t, exec (.storageScrub 4 place line true) s = .next t ∧ (t.hline line).cached = none ∧
        (t.hline line).poison = (if (s.hline line).dirty then some 0 else (s.hline line).poison) ∧ t.mem = s.mem) ∧
    (∃ t, exec (.storageScrub 5 place line true) s = .next t ∧ wiped t) ∧
    (place < 16 → ∃ t, exec (.storageScrub 6 place line true) s = .next t ∧ t = { s with chips := t.chips } ∧
      (t.chip place).tlb = (s.chip place).tlb.eraseIdx line) ∧
    (∃ t, exec (.storageScrub 7 place line true) s = .next t ∧ t = s) ∧
    (∀ mc, (homeMc (line * 128) = mc → isDevice (line * 128) = true →
        ∃ t, exec (.dramPatrol mc line true) s = .next t ∧ t = { s with hlines := t.hlines } ∧
          t.hline line = { s.hline line with poison := some 0 } ∧ ∀ k, k ≠ line → t.hline k = s.hline k) ∧
      (homeMc (line * 128) = mc → ∃ t, exec (.dramPatrol mc line false) s = .next t ∧ mg t { s.mg with errlog := t.mg.errlog } ∧
        correctedCount t = (correctedCount s + 1) % 2 ^ 48)) ∧
    ((∀ e ∈ s.groups, chipOfCore (coreOf e.1) = place → e.2.state = .saved ∨ e.2.state = .retired) →
      let s1 := postChip s place
      chipQuiet s1 place = true → (∀ k y, Tab.get? (s1.chip place).host k = some y → y.st = 3 → y.data.length = 64) →
      ∃ t, exec (.chipletPowerGating place) s = .next t ∧ (t.chip place).gated = true ∧ (t.chip place).near = [] ∧
        ∀ k y, Tab.get? (s1.chip place).host k = some y → (∃ z, Tab.get? (t.chip place).host k = some z ∧ z.st = 0) ∧
          (y.st = 3 → Memory.readN t.mem (k * 64) 64 = y.data)) ∧
    ((∃ e ∈ s.groups, chipOfCore (coreOf e.1) = place ∧ e.2.state = .running) →
      ∃ t, exec (.chipletPowerGating place) s = .next t ∧ t = s)

/-- The host and device memory (R318 to R323, R239): reads, writes and requests for copies, by the page's bias; flips from their start to the bias
bit; back-invalidate responses. That an answered BISnpData lets held loads pass once and leaves the half at most HOST-S is the model's choice (log
46), and so is what becomes of host writebacks to pages in device bias (log 66). -/
def Obligations.HostAccesses : Prop :=
  ∀ (s : State) (pa n line half chip mc : Nat) (wr : List (Option Byte)) (data : List Byte) (own : Bool),
    let h := s.hline (pa / 128)
    let waits := fun (l : Nat) (r : HostReq) => (s.hline l).held.any fun e => standsBefore s e.2 (.host r)
    let bs := halfBytes pa wr
    let g := s.hline line
    let q := soLine s line
    let hb := line * 128 + half * 64
    let page := bitsAt s.hp.biaspa 12 40
    let onlyHeld := fun (t : State) (l : Nat) (r : HostReq) =>
      t = { s with hlines := t.hlines } ∧ t.hline l = { s.hline l with held := (s.hline l).held ++ [(hostChip, .host r)] }
    (isDevice pa = true → 0 < n → pa % 64 + n ≤ 64 →
      (waits (pa / 128) (.read pa n) = false → h.flip ≠ 1 → h.flip ≠ 3 → hostSo s pa = false →
        ∃ t, exec (.hostMemRead pa n) s = .next t ∧
          t = { s with outs := s.outs ++ [.data pa (Memory.readN s.mem pa n) 0 h.poison.isSome] }) ∧
      (waits (pa / 128) (.read pa n) = false → h.flip ≠ 1 → h.flip ≠ 3 → hostSo s pa = true →
        ∃ t, exec (.hostMemRead pa n) s = .next t ∧ t.outs = s.outs ++ [.data pa (Memory.readN s.mem pa n) 0 h.poison.isSome] ∧
          let q := soLine s (pa / 128)
          t.hp.pts = max s.hp.pts q.wts ∧ (t.hline (pa / 128)).rts = max q.rts (max s.hp.pts q.wts + 64) ∧ t.mem = s.mem) ∧
      (waits (pa / 128) (.read pa n) = true ∨ h.flip = 1 ∨ h.flip = 3 → ∃ t, exec (.hostMemRead pa n) s = .next t ∧ onlyHeld t (pa / 128) (.read pa n))) ∧
    (isDevice pa = true → bs ≠ [] →
      (waits (pa / 128) (.write (pa / 128) bs) = false → h.flip ≠ 3 → seqRoom s (pa / 128) 1 = true →
        (∀ b ∈ bs, waitedObject s none (pa / 128 * 128 + b.1) 1 = none) →
        ∃ t, exec (.hostMemWrite pa wr) s = .next t ∧ LineWritten s t (pa / 128) bs ∧
          (t.hline (pa / 128)).seq = (h.seq + 1) % 2 ^ 16 ∧ t.outs = s.outs) ∧
      (waits (pa / 128) (.write (pa / 128) bs) = true ∨ h.flip = 3 ∨ seqRoom s (pa / 128) 1 = false →
        ∃ t, exec (.hostMemWrite pa wr) s = .next t ∧ onlyHeld t (pa / 128) (.write (pa / 128) bs))) ∧
    (isDevice (line * 128) = true → half < 2 →
      (waits line (.copy line half own) = false → g.flip ≠ 1 → g.flip ≠ 3 → bitAt g.snoop half = false →
        (lineHostBias s line = true →
          let st := if own then 2 else 1
          ∃ t, exec (.hostCacheRequest line half own) s = .next t ∧
            t.outs = s.outs ++ [.data hb (Memory.readN s.mem hb 64) st g.poison.isSome] ∧ t.mem = s.mem ∧
            (hostSo s hb = false → t = { s with hlines := t.hlines, outs := t.outs }) ∧
            (hostSo s hb = true → t.hp.pts = max s.hp.pts q.wts ∧ (t.hline line).rts = max q.rts (max s.hp.pts q.wts + 64)) ∧
            t.hline line = { g with
              wts := (t.hline line).wts, rts := (t.hline line).rts, passed := g.passed &&& (3 - 2 ^ half)
              host0 := if half = 0 then max g.host0 st else g.host0, host1 := if half = 0 then g.host1 else max g.host1 st }) ∧
        (lineHostBias s line = false →
          ∃ t, exec (.hostCacheRequest line half own) s = .next t ∧
            t.outs = s.outs ++ [.data hb (Memory.readN s.mem hb 64) 0 g.poison.isSome] ∧ t.mem = s.mem ∧
            (hostSo s hb = false → t = { s with outs := t.outs }) ∧
            (hostSo s hb = true → t.hp.pts = max s.hp.pts q.wts ∧ (t.hline line).rts = max q.rts (max s.hp.pts q.wts + 64)))) ∧
      (waits line (.copy line half own) = true ∨ g.flip = 1 ∨ g.flip = 3 ∨ bitAt g.snoop half = true →
        ∃ t, exec (.hostCacheRequest line half own) s = .next t ∧ onlyHeld t line (.copy line half own))) ∧
    (∀ host : Bool,
      let i : Instr := if host then .biasFlipToHost else .biasFlipToDevice
      (s.hp.flip.isSome = true → ∃ t, exec i s = .next t ∧ t = { s with hp := { s.hp with ign := true } }) ∧
      (∀ r, s.hp.flip = none → flipCheck s host = some r → ∃ t, exec i s = .next t ∧ t = { s with hp := { s.hp with result := r } })) ∧
    (s.hp.flip = none → flipCheck s true = none →
      ∃ t, exec .biasFlipToHost s = .next t ∧ t.hp.flip = some { page := page, toHost := true, done := [], inv := [] } ∧
        (∀ l, l / 32 = page → t.hline l = { s.hline l with flip := 1 }) ∧ t.mem = s.mem ∧ t.bias = s.bias ∧
        ∀ m c, m < 16 → c < 16 → Sends s t (portMC m) (portCC c) (.flush page)) ∧
    (s.hp.flip = none → flipCheck s false = none →
      ((∀ l, l / 32 = page → (s.hline l).snoop = 0 ∧ (s.hline l).host0 = 0 ∧ (s.hline l).host1 = 0 ∧ (s.hline l).held = []) →
        ∃ t, exec .biasFlipToDevice s = .next t ∧ t.hp.flip = none ∧ t.hp.result = 0 ∧ t.hp.flips = (s.hp.flips + 1) % 2 ^ 32 ∧
          page ∉ t.bias ∧ ∀ l, l / 32 = page → (t.hline l).flip = 0) ∧
      (line / 32 = page → hostHalves g ≠ 0 → (∀ l, l / 32 = page → (s.hline l).held = []) →
        ∃ t, exec .biasFlipToDevice s = .next t ∧ (t.hline line).flip = 3 ∧
          (t.hline line).snoop = g.snoop ||| (hostHalves g &&& (3 - g.snoop)) ∧
          t.hp.flip = some { page := page, toHost := false, done := [], inv := [] } ∧ t.bias = s.bias)) ∧
    (∀ p, chip < 16 → mc < 16 → inboxHead s (portMC mc) (portCC chip) = some (.flush p) → (∀ c ∈ coresOfChip chip, (s.core c).cb = []) →
      ∃ t, exec (.flushRequest chip) s = .next t ∧ Taken s t (portMC mc) (portCC chip) (.flush p) ∧
        (msgsOf (t.pair (portCC chip) (portMC mc))).Perm (msgsOf (s.pair (portCC chip) (portMC mc)) ++ [.flushDone p, .flushInv p]) ∧
        (∀ l, l / 32 = p → homeMc (l * 128) = mc → Tab.get? (t.chip chip).near l = none) ∧ t.mem = s.mem) ∧
    (∀ isDone : Bool, chip < 16 → mc < 16 →
      let i : Instr := if isDone then .flushdone chip else .flushInvalidationAck chip
      let msg : Nat → Msg := fun p => if isDone then .flushDone p else .flushInv p
      let sets : Flip → List Nat × List Nat := fun f => if isDone then (f.done, f.inv) else (f.inv, f.done)
      (∀ p, inboxHead s (portCC chip) (portMC mc) = some (msg p) →
        ∃ t, exec i s = .next t ∧ Taken s t (portCC chip) (portMC mc) (msg p) ∧
          ∀ f, t.hp.flip = some f → chip * 16 + mc ∈ (sets f).1) ∧
      (∀ f, s.hp.flip = some f → f.toHost = true → (∀ l, l / 32 = f.page → (s.hline l).flip = 1 ∧ (s.hline l).held = []) →
        (∀ c m, c < 16 → m < 16 → c * 16 + m ∈ (sets f).2 ∧ (c * 16 + m ∈ (sets f).1 ∨
          (c = chip ∧ ∃ p, inboxHead s (portCC c) (portMC m) = some (msg p)))) →
        ∃ t, exec i s = .next t ∧ t.hp.flip = none ∧ t.hp.result = 0 ∧ t.hp.flips = (s.hp.flips + 1) % 2 ^ 32 ∧ f.page ∈ t.bias ∧
          ∀ l, l / 32 = f.page → (t.hline l).flip = 0)) ∧
    (half < 2 →
      (bitAt g.snoop half = false → ∃ t, exec (.bisnpResponse line half data) s = .next t ∧ t = s) ∧
      (data ≠ [] → data.length ≠ 64 → ∃ t, exec (.bisnpResponse line half data) s = .next t ∧ t = s) ∧
      (bitAt g.snoop half = true → g.held = [] → s.hp.flip = none → g.passed < 4 →
        let left := if bitAt g.snpData half then 1 else 0
        (bitAt g.snpData half = false →
          ∃ t, exec (.bisnpResponse line half []) s = .next t ∧ t = { s with hlines := t.hlines } ∧
            t.hline line = { g with snoop := g.snoop - 2 ^ half, host0 := if half = 0 then 0 else g.host0
                                    host1 := if half = 1 then 0 else g.host1 }) ∧
        (bitAt g.snpData half = true → g.flip ≠ 3 →
          ∃ t, exec (.bisnpResponse line half []) s = .next t ∧ t = { s with hlines := t.hlines } ∧
            t.hline line = { g with snoop := g.snoop - 2 ^ half, snpData := g.snpData - 2 ^ half, passed := g.passed ||| 2 ^ half
                                    host0 := if half = 0 then min g.host0 1 else g.host0
                                    host1 := if half = 1 then min g.host1 1 else g.host1 }) ∧
        (data.length = 64 → seqRoom s line 1 = true → g.flip ≠ 3 → (∀ b, b < 64 → waitedObject s none (hb + b) 1 = none) →
          ∃ t, exec (.bisnpResponse line half data) s = .next t ∧ Memory.readN t.mem hb 64 = data ∧
            (∀ a, a < hb ∨ hb + 64 ≤ a → Memory.read t.mem a = Memory.read s.mem a) ∧ (t.hline line).seq = (g.seq + 1) % 2 ^ 16 ∧
            (t.hline line).snoop = g.snoop - 2 ^ half ∧ (half = 0 → (t.hline line).host0 = min g.host0 left) ∧
            (half = 1 → (t.hline line).host1 = min g.host1 left))))

/-- Host memory in the near caches (R324 to R327): a grant and what the others give up, the upgrade notice of a first write, and each snoop's answer
and effect. That a grant also writes the model's record of host memory is the model's choice (log 28). -/
def Obligations.HostSectors : Prop :=
  ∀ (s : State) (chip line half c : Nat) (data : List Byte) (own bad : Bool) (y : Sector),
    let key := 2 * line + half
    let answered := fun (hit : Bool) (bs : Option (List Byte)) (poison : Bool) => s.outs ++ [.snoop line half hit bs poison]
    half < 2 →
    (Tab.get? (s.chip chip).host key = some y →
      (isHost (key * 64) = true → data.length = 64 → (y.want = 1 ∨ (y.want = 2 ∧ own = true)) → sectorOwner s chip key = none →
        nearCount (s.chip chip) < 393216 →
        ∃ t z, exec (.hostSectorGrant chip line half ⟨data, bad⟩ own) s = .next t ∧ Tab.get? (t.chip chip).host key = some z ∧
          z.st = (if own then 2 else 1) ∧ z.data = data ∧ z.poison = bad ∧ z.want = (if own || y.posts.isEmpty then 0 else 2) ∧
          z.notice = (y.notice || (own && !y.posts.isEmpty)) ∧ z.ops = [] ∧ line ∈ t.hp.filter ∧ key ∉ t.hp.lost ∧
          (own = true → ∀ k, k ≠ chip → (sectorOf t k key).st = 0) ∧ Memory.readN t.mem (key * 64) 64 = data) ∧
      (y.want = 0 ∨ data.length ≠ 64 ∨ (y.want = 2 ∧ own = false) ∨ sectorOwner s chip key ≠ none →
        ∃ t, exec (.hostSectorGrant chip line half ⟨data, bad⟩ own) s = .next t ∧ t = s) ∧
      (y.st = 2 → y.notice = true → sectorOwner s chip key = none →
        (y.posts = [] → ∃ t, exec (.upgradeNotice chip line half) s = .next t ∧ t.mem = s.mem ∧
          Tab.get? (t.chip chip).host key = some { y with st := 3, notice := false, ops := [], old := [], engs := [], want := 0 }) ∧
        (∀ id p, y.posts = [id] → Tab.get? s.postings id = some p →
          ∃ t z, exec (.upgradeNotice chip line half) s = .next t ∧ Tab.get? (t.chip chip).host key = some z ∧ z.st = 3 ∧
            z.notice = false ∧ z.posts = [] ∧ Tab.get? t.postings id = none ∧
            z.data = overlay y.data (p.ent.bytes.map fun e => (e.1 - half * 64, e.2)))) ∧
      (y.notice = false → ∃ t, exec (.upgradeNotice chip line half) s = .next t ∧ t = s)) ∧
    (key ∉ s.hp.lost →
      (sectorHolder s key = none →
        (∃ t, exec (.snpdata line half) s = .next t ∧ t = { s with outs := answered false none false }) ∧
        (∃ t, exec (.snpinv line half) s = .next t ∧ t = { s with outs := answered false none false }) ∧
        (∃ t, exec (.snpcur line half) s = .next t ∧ t = { s with outs := answered false none false })) ∧
      (sectorHolder s key = some (c, y) → Tab.get? (s.chip c).host key = some y →
        let bs := if y.st = 3 then some y.data else none
        (∃ t, exec (.snpcur line half) s = .next t ∧ t = { s with outs := answered true bs false }) ∧
        (∃ t z, exec (.snpdata line half) s = .next t ∧ t.outs = answered true bs false ∧ Tab.get? (t.chip c).host key = some z ∧ z.st = 1 ∧
          z.data = y.data ∧ z.notice = false ∧ (y.st ≠ 3 → t.mem = s.mem) ∧
          (y.st = 3 → y.data.length = 64 → Memory.readN t.mem (key * 64) 64 = y.data)) ∧
        (∃ t, exec (.snpinv line half) s = .next t ∧ t.outs = answered true bs false ∧ (∀ k, (sectorOf t k key).st = 0) ∧
          (y.st = 3 → y.data.length = 64 → (∀ k, k ≠ c → (sectorOf s k key).st ≠ 3) →
            Memory.readN t.mem (key * 64) 64 = y.data)))) ∧
    (key ∈ s.hp.lost →
      ∀ i ∈ [Instr.snpdata line half, .snpinv line half, .snpcur line half],
        ∃ t, exec i s = .next t ∧ t = { s with outs := answered true none true, hp := { s.hp with
          lost := s.hp.lost.filter (· != key), poisonCnt := (s.hp.poisonCnt + 1) % 2 ^ 32, poisonPa := key * 64 - 2 ^ 51 } })

/-- The Separator (R347 to R352, R368): a flit is delivered in order, held for an earlier one, discarded where the receiver has it already, or
sent again; a relayed one goes on to the next link; a message comes with its last flit; acknowledgements free the replay buffer; a credit returns
and lets the next flit go; a colour's loss travels to the source, whose route leaves it; the host's writes of a route; a switch-over ends when its
old route has drained or after 2 µs, and every unacknowledged flit goes on the new route. The model's choices: how many flits a message has and which
credits a relayed flit takes (log 27), which colour carries a flit, and that a loss report takes no flit (log 88). -/
def Obligations.SeparatorCarries : Prop :=
  ∀ (s : State) (i j colour : Nat),
    let p := s.pair i j
    let only := fun (t : State) (q : Pair) => t = { s with pairs := t.pairs } ∧ t.pair i j = q
    let keeps := fun (t : State) => t = { s with pairs := t.pairs, slices := t.slices } ∧ (t.pair i j).inbox = p.inbox
    let calm := p.switching = false ∧ p.nextMode = none ∧ p.relost = false
    let goesOn := fun (t : State) (a b : Nat) (r : FlitRef) => r ∈ (t.pair a b).out ∨ ∃ c, (r, c) ∈ (t.pair a b).wire
    (∀ pre f post c w, p.wire = (⟨i, j, f.seq⟩, c) :: w → p.sent = pre ++ f :: post → (∀ y ∈ pre ++ post, y.seq ≠ f.seq) → p.lost c = false →
      let q := { p.setFails c 0 with wire := w }
      (f.got = 0 → (∀ y ∈ pre, y.got = 2) → (∀ y ∈ post, y.got = 0) →
        ∃ t, exec (.flitReceive i j true) s = .next t ∧ only t { q with
          sent := pre ++ { f with hop := 2, got := 2, port := i } :: post, owed := p.owed + 1
          inbox := p.inbox ++ if f.last then [(s.clock, f.msg)] else [] }) ∧
      (f.got = 0 → (∀ y ∈ pre, y.got = 0 ∨ y.got = 2) → (∃ y ∈ pre, y.got = 0) →
        ∃ t, exec (.flitReceive i j true) s = .next t ∧ only t { q with sent := pre ++ { f with hop := 2, got := 1, port := i } :: post }) ∧
      (f.got ≠ 0 →
        ∃ t, exec (.flitReceive i j true) s = .next t ∧ only t { q with sent := pre ++ { f with hop := 2 } :: post, owed := p.owed + 1 })) ∧
    (∀ k c w ok, p.wire = (⟨i, j, k⟩, c) :: w → ok = false ∨ p.lost c = true → p.switching = false →
      ∃ t, exec (.flitReceive i j ok) s = .next t ∧ keeps t ∧ (msgsOf (t.pair i j)).Perm (msgsOf p) ∧ goesOn t i j ⟨i, j, k⟩ ∧
        (t.pair i j).failsOf c = (if p.lost c then p.failsOf c else p.failsOf c + 1) ∧ (t.pair i j).failsOf (!c) = p.failsOf (!c)) ∧
    (∀ d k c w, i ≠ j → d ≠ j → p.wire = (⟨i, d, k⟩, c) :: w → p.lost c = false →
      ∃ t, exec (.flitReceive i j true) s = .next t ∧ keeps t ∧ (t.pair i j).wire = w ∧ (t.pair i j).owed = p.owed + 1 ∧
        goesOn t j d ⟨i, d, k⟩) ∧
    (∀ f r, p.sent = f :: r →
      (f.hop = 2 → f.got = 2 → p.switching = false →
        ∃ t, exec (.flitAck i j) s = .next t ∧ keeps t ∧ (msgsOf p).Perm ((if f.last then [f.msg] else []) ++ msgsOf (t.pair i j))) ∧
      (f.hop ≠ 2 ∨ f.got ≠ 2 → ∃ t, exec (.flitAck i j) s = .next t ∧ t = s)) ∧
    (0 < p.owed →
      ∃ t, exec (.creditReturn i j) s = .next t ∧ keeps t ∧ (msgsOf (t.pair i j)).Perm (msgsOf p) ∧ (t.pair i j).owed = p.owed - 1 ∧
        (p.out = [] → (∀ k ∈ Tab.keys s.pairs, k ≠ pairKey i j → (s.pair (k / 34) (k % 34)).queue = [] ∧ (s.pair (k / 34) (k % 34)).part = none) →
          (p.queue = [] → p.part = none → (t.pair i j).credits = p.credits + 1) ∧
          (∀ since m n, j < 34 → p.part = some (since, m, n) → p.credits = 0 → p.mode ≤ 1 → p.switching = false → p.sent.length < 256 →
            (∀ f ∈ p.sent, f.hop ≠ 0) →
            (t.pair i j).sent = p.sent ++ [{ seq := p.seq, msg := m, last := n ≤ 1, hop := 1 }] ∧ (t.pair i j).credits = 0 ∧
              (t.pair i j).part = (if n ≤ 1 then none else some (since, m, n - 1)) ∧
              (t.pair i j).wire = p.wire ++ [(⟨i, j, p.seq⟩, p.carrier p.seq)]))) ∧
    (p.owed = 0 → ∃ t, exec (.creditReturn i j) s = .next t ∧ t = s) ∧
    ((ofPair i j colour = true → p.isLost i j colour = false → colour ∉ p.lossRep →
        ∃ t, exec (.colourLoss i j colour) s = .next t ∧ only t { p with
          lossRep := p.lossRep ++ [colour], fails := if colour = primaryColour i j then 0 else p.fails
          fails2 := if colour = primaryColour i j then p.fails2 else 0 }) ∧
      (ofPair i j colour = false ∨ p.isLost i j colour = true ∨ colour ∈ p.lossRep →
        ∃ t, exec (.colourLoss i j colour) s = .next t ∧ t = s)) ∧
    ((colour ∈ p.lossRep → (s.pair j i).mode ≠ 3 →
        ∃ t, exec (.lossReport i j colour) s = .next t ∧ (t.pair i j).isLost i j colour = true ∧ t.mem = s.mem ∧
          (calm → p.mode = 0 → p.lostp = false → p.losts = false → p.preset ≠ 2 →
            (p.sent = [] → (t.pair i j).mode = 1 ∧ (t.pair i j).use = (colour == primaryColour i j) ∧ (t.pair i j).switching = false) ∧
            (p.drained = false → (t.pair i j).mode = 0 ∧ (t.pair i j).switching = true ∧ (t.pair i j).since = s.clock ∧
              (t.pair i j).target = some (1, p.via, colour == primaryColour i j)))) ∧
      (colour ∉ p.lossRep ∨ (s.pair j i).mode = 3 → ∃ t, exec (.lossReport i j colour) s = .next t ∧ t = s)) ∧
    (∀ r, p.switching = true → p.target = some r →
      (r.1 ≤ 1 → p.nextMode = none → p.relost = false → p.since + 4200 ≤ s.clock →
        ∃ t, exec (.switchoverDrainTimeout i j) s = .next t ∧ (t.pair i j).mode = r.1 ∧ (t.pair i j).via = r.2.1 ∧
          (t.pair i j).use = r.2.2 ∧ (t.pair i j).switching = false ∧ (t.pair i j).inbox = p.inbox ∧
          (msgsOf (t.pair i j)).Perm (msgsOf p) ∧ (∀ f ∈ (t.pair i j).sent, f.hop = 0 ∨ f.hop = 1) ∧
          ∀ f ∈ p.sent, goesOn t i j ⟨i, j, f.seq⟩) ∧
      (s.clock < p.since + 4200 → ∃ t, exec (.switchoverDrainTimeout i j) s = .next t ∧ t = s)) ∧
    (∀ v : Word,
      let q := writeFields p i j v.toNat
      let mode := bitsAt v.toNat 0 2
      let via := bitsAt v.toNat 2 6
      (isPair i j = false → ∃ t, exec (.sepRoute i j v) s = .next t ∧ t = s) ∧
      (isPair i j = true →
        (hostMode i j q mode via = none → ∃ t, exec (.sepRoute i j v) s = .next t ∧ only t q) ∧
        (∀ r, hostMode i j q mode via = some r →
          (p.switching = true → ∃ t, exec (.sepRoute i j v) s = .next t ∧ only t { q with nextMode := some (mode, via) }) ∧
          (p.switching = false → q.isRoute r = true → ∃ t, exec (.sepRoute i j v) s = .next t ∧ only t { q with via := via }) ∧
          (calm → q.isRoute r = false → p.sent = [] →
            (r.1 ≤ 1 ∨ 2 ≤ p.mode ∨ ∀ e ∈ s.pairs, e.2.mode ≠ 2 ∧ e.2.target = none) →
            ∃ t, exec (.sepRoute i j v) s = .next t ∧ (t.pair i j).mode = r.1 ∧ (t.pair i j).via = r.2.1 ∧ (t.pair i j).use = r.2.2 ∧
              (t.pair i j).switching = false ∧ (t.pair i j).lostp = q.lostp ∧ (t.pair i j).losts = q.losts)))) ∧
    ((colour ∈ p.retest →
        (∃ t, exec (.colourRetest i j colour true) s = .next t ∧ only t { p with retest := p.retest.erase colour }) ∧
        ∃ t, exec (.colourRetest i j colour false) s = .next t ∧ (t.pair i j).isLost i j colour = true) ∧
      (colour ∉ p.retest → ∀ ok, ∃ t, exec (.colourRetest i j colour ok) s = .next t ∧ t = s))

/-- Ednan (R211, R353 to R358): the states of a port, packets received, routed or rejected, the swap of the routing tables, communicators, and
collective jobs to their entry; every element of a reduction combines the ranks in increasing order. The model's choices: the types of packets and the
shares of a result (log 48), and that a good flit acknowledges the whole replay buffer (log 49). -/
def Obligations.EdnanCarries : Prop :=
  ∀ (s : State) (p : Nat) (pkt : Packet) (v : DWord),
    let q := s.edPort p
    let w := v.toNat
    let only := fun (t : State) (y : EdPort) => t = { s with ed := { s.ed with ports := t.ed.ports } } ∧ t.edPort p = y ∧
      ∀ k, k ≠ p → t.edPort k = s.edPort k
    let gives := fun (t : State) (k : Nat) (x : Packet) => ∃ y ∈ (t.edPort k).sent ++ (t.edPort k).queue, { y with lseq := x.lseq } = x
    let nack := fun (t : State) => gives t p { pkt with
      typ := 1, topv := s.topv, dest := pkt.src, src := s.ed.devid, last := true, data := [] }
    let cm := s.comm s.ed.cmIdx
    (p < 16 →
      (∃ t, exec (.edPortEnable p) s = .next t ∧ only t { q with en := true, st := if q.st = 0 then 1 else q.st }) ∧
      (∃ t, exec (.edPortDisable p) s = .next t ∧ only t { q with en := false, st := 0 }) ∧
      (q.st = 3 → ∃ t, exec (.lossOfLight p) s = .next t ∧ only t { q with st := 1 }) ∧
      (q.st = 1 → ∃ t, exec (.trainingTimeout p) s = .next t ∧ only t { q with st := 0 }) ∧
      (∀ partner us, q.st = 1 → us ≤ 100 → ∃ t, exec (.trainingComplete p partner us) s = .next t ∧
        (t.edPort p).retrains = (q.retrains + 1) % 256 ∧ (t.edPort p).dur = us ∧ (t.edPort p).partner = partner % 2 ^ 12 ∧
        (t.edPort p).st = (if q.known && q.partner == partner % 2 ^ 12 && !q.owes then 3 else 2)) ∧
      (q.st = 3 → ∃ t, exec (.ednanFlitReceive p true pkt) s = .next t ∧
        (t.edPort p).inq = (if pkt.lseq = q.rseq then q.inq ++ [pkt] else q.inq) ∧ (t.edPort p).st = 3 ∧
        (t.edPort p).sent.length = min 512 q.queue.length ∧ (t.edPort p).queue = q.queue.drop 512) ∧
      (∃ t, exec (.ednanFlitReceive p false pkt) s = .next t ∧ t = s)) ∧
    (q.st ≠ 3 → ∃ t, exec (.lossOfLight p) s = .next t ∧ t = s) ∧
    (q.st ≠ 1 → (∃ t, exec (.trainingTimeout p) s = .next t ∧ t = s) ∧
      ∀ partner us, ∃ t, exec (.trainingComplete p partner us) s = .next t ∧ t = s) ∧
    (q.inq = [] → ∃ t, exec (.collectivePacketReceive p) s = .next t ∧ t = s) ∧
    (∀ r, q.inq = pkt :: r → pkt.typ = 0 →
      (pkt.topv ≠ s.topv →
        ∃ t, exec (.collectivePacketReceive p) s = .next t ∧ t.ed.stale = (s.ed.stale + 1) % 2 ^ 32 ∧ nack t ∧ (t.edPort p).inq = r) ∧
      (pkt.topv = s.topv → pkt.dest ≠ s.ed.devid →
        (∀ k, edRoute s pkt.dest = some k →
          ∃ t, exec (.collectivePacketReceive p) s = .next t ∧ (t.edPort p).inq = r ∧ gives t k pkt) ∧
        (edRoute s pkt.dest = none → ∃ t, exec (.collectivePacketReceive p) s = .next t ∧ (t.edPort p).inq = r ∧ nack t)) ∧
      (∀ id c, pkt.topv = s.topv → pkt.dest = s.ed.devid → findColl s pkt.comm pkt.seq = some (id, c) → c.sent = true →
        Tab.get? s.colls id = some c →
        (c.differs pkt = false →
          ∃ t, exec (.collectivePacketReceive p) s = .next t ∧ (t.edPort p).inq = r ∧ Tab.get? t.colls id = some (acceptPacket c pkt)) ∧
        (c.differs pkt = true → c.status = none →
          ∃ t y, exec (.collectivePacketReceive p) s = .next t ∧ (t.edPort p).inq = r ∧ Tab.get? t.colls id = some y ∧ y.status = some 3))) ∧
    (∀ r id c, q.inq = pkt :: r → pkt.dest = s.ed.devid → findColl s pkt.comm pkt.seq = some (id, c) → Tab.get? s.colls id = some c →
      (pkt.typ = 1 ∨ pkt.typ = 3 → c.status = none →
        ∃ t y, exec (.collectivePacketReceive p) s = .next t ∧ (t.edPort p).inq = r ∧ Tab.get? t.colls id = some y ∧ y.status = some pkt.typ) ∧
      (pkt.typ = 2 → ∃ t, exec (.collectivePacketReceive p) s = .next t ∧ (t.edPort p).inq = r ∧
        Tab.get? t.colls id = some { c with oks := c.oks ++ [pkt.rank] })) ∧
    ((bitAt w 0 = false → ∃ t, exec (.topvCommit v) s = .next t ∧ t = s) ∧
      (bitAt w 0 = true → s.ed.topvStage = s.topv →
        ∃ t, exec (.topvCommit v) s = .next t ∧ t = { s with ed := { s.ed with topvErr := true } }) ∧
      (bitAt w 0 = true → s.ed.topvStage ≠ s.topv →
        ∃ t, exec (.topvCommit v) s = .next t ∧ t.topv = s.ed.topvStage ∧ t.ed.active = s.ed.staged ∧ t.ed.staged = s.ed.active ∧
          t.ed.topvErr = false ∧ (t.edPort p).st = (if q.st = 2 then 3 else q.st) ∧ t.groups = s.groups ∧ t.mem = s.mem)) ∧
    ((commBusy s s.ed.cmIdx = true →
        (∃ t, exec (.cmCfg v) s = .next t ∧ t = { s with ed := { s.ed with cmErr := true } }) ∧
        ∃ t, exec (.cmMapdata v) s = .next t ∧ t = { s with ed := { s.ed with cmErr := true } }) ∧
      (commBusy s s.ed.cmIdx = false →
        (∃ t, exec (.cmCfg v) s = .next t ∧ t.ed.cmErr = false ∧ (t.comm s.ed.cmIdx).cfg = w % 2 ^ 30 ∧
          (t.comm s.ed.cmIdx).seq = (if bitAt w 0 then 0 else cm.seq) ∧ (t.comm s.ed.cmIdx).ranks = cm.ranks) ∧
        ∃ t, exec (.cmMapdata v) s = .next t ∧ t.ed.cmErr = false ∧
          t.comm s.ed.cmIdx = { cm with ranks := Tab.set cm.ranks s.ed.cmMapidx (w % 2 ^ 12) })) ∧
    (∀ op c gid g pre e post, Tab.get? s.colls op = some c → groupBy s c.uid = some (gid, g) → Tab.get? s.groups gid = some g →
      nth g.queues 5 [] = pre ++ e :: post → (∀ y ∈ pre, y.op ≠ op) → e.op = op → e.res = none →
      let ends := fun (t : State) (st : Nat) => Tab.get? t.colls op = none ∧ ∃ y, Tab.get? t.groups gid = some y ∧
        nth y.queues 5 [] = pre ++ { e with res := some (qWords (st + s.topv % 2 ^ 16 * 2 ^ 16 + c.seq % 2 ^ 32 * 2 ^ 32)) } :: post
      (∀ st, c.status = some st → collProbed s op = false →
        ∃ t, exec (.collectiveComplete op) s = .next t ∧ ends t st ∧ t.mem = s.mem) ∧
      (c.status = none → c.event = none → fenceHolds s c.uid op 4 = false → collTurn s op c = true →
        (c.sent = false → c.topv ≠ s.topv →
          ∃ t y, exec (.collectiveComplete op) s = .next t ∧ Tab.get? t.colls op = some y ∧ y.status = some 1 ∧ t.mem = s.mem) ∧
        (c.sent = true → c.full (s.comm c.comm).ranksN = true → c.told = false →
          ∃ t y, exec (.collectiveComplete op) s = .next t ∧ Tab.get? t.colls op = some y ∧ y.told = true ∧ t.mem = s.mem) ∧
        (c.sent = true → c.full (s.comm c.comm).ranksN = false ∨ c.told = true ∧ c.agreed (s.comm c.comm) = false →
          ∃ t, exec (.collectiveComplete op) s = .next t ∧ t = s) ∧
        (∀ u, c.sent = true → c.full (s.comm c.comm).ranksN = true → c.told = true → c.agreed (s.comm c.comm) = true →
          writeColl s op c (c.result (s.comm c.comm).ranksN (s.comm c.comm).own) = (u, none) → collProbed u op = false →
          ∃ t, exec (.collectiveComplete op) s = .next t ∧ ends t 0 ∧ t.mem = u.mem))) ∧
    ∀ (c : Coll) (n i : Nat), 0 < n → i < c.count →
      (c.combined n)[i]? = some (((List.range n).drop 1).foldl (fun acc k => (redOp c.ty c.op acc (nth (c.elems k) i 0)).1)
        (nth (c.elems 0) i 0))

/-- Notes after they are sent (R196 to R199, R266, R267): at the target core a note is applied, refused with its cause, or waits in the buffer or at
its sender; the answer ends it at its sender, whose flag drops and whose failures are recorded. Invocations of Proctors, and the attaching and
detaching of their programs (R331 to R334, R337). The result of an attach with more than one defect follows an order that is the model's choice (log
26). -/
def Obligations.NotesAndProctors : Prop :=
  (∀ (s : State) (core id : Nat) (n : Note),
    let p := passOf n.pass.toNat
    let gid := p.core * 128 + p.slot
    let here := chipOfCore n.core
    let sender := chipOfCore (coreOf n.gid)
    let answered := fun (t : State) (cause : Nat) => (∃ m, Tab.get? t.notes id = some m ∧ m.stage = 4) ∧
      (here ≠ sender → Sends s t here sender (.noteAck id cause))
    Tab.get? s.notes id = some n →
    (∀ i : Instr, (∃ c, i = .noteArrival core ∧ noteAt s core = some (c, id, n)) ∨
        (i = .noteBufferRetry core ∧ s.notes.filter (fun e => e.2.stage == 3 && e.2.core == core) = [(id, n)]) →
      (noteWaits s id n = false →
        (∀ g, passCheck s n = 0 → Tab.get? s.groups gid = some g → noteState g n.regs = 0 →
          ∃ t y, exec i s = .next t ∧ answered t 0 ∧ (∀ k, k ≠ gid → Tab.get? t.groups k = Tab.get? s.groups k) ∧
            Tab.get? t.groups gid = some y ∧ Tab.get? y.note n.target = some .full ∧
            (n.w64 = false → n.target < 128 → n.uniform = false → ∀ l, l < 64 →
              y.vlane n.target l = if inMask n.lanes l then BitVec.ofNat 32 (n.word 0 l) else g.vlane n.target l) ∧
            (n.w64 = false → 128 ≤ n.target → y.sreg (n.target - 128) = BitVec.ofNat 32 (n.word 0 0))) ∧
        (∀ c, c ≠ 0 → (passCheck s n = c ∨ (passCheck s n = 0 ∧ ∃ g, Tab.get? s.groups gid = some g ∧ noteState g n.regs = c)) →
          ∃ t, exec i s = .next t ∧ answered t c ∧ t.groups = s.groups)) ∧
      (noteWaits s id n = true →
        let behind := s.notes.any fun e => e.1 < id && e.2.uid == n.uid && e.2.core == n.core && e.2.stage == 3
        ((s.core n.core).notes.length < 32 → behind = false →
          ∃ t m, exec i s = .next t ∧ t.groups = s.groups ∧ Tab.get? t.notes id = some m ∧ m = { n with stage := 2 } ∧
            (t.core n.core).notes = (s.core n.core).notes ++ [id]) ∧
        (32 ≤ (s.core n.core).notes.length ∨ behind = true →
          ∃ t m, exec i s = .next t ∧ t.groups = s.groups ∧ Tab.get? t.notes id = some m ∧ m = { n with stage := 3 }))) ∧
    (∀ cause gid g, inboxHead s here sender = some (.noteAck id cause) → groupBy s n.uid = some (gid, g) →
      Tab.get? s.groups gid = some g →
      ∃ t y, exec (.noteAckReceive id) s = .next t ∧ Tab.get? t.notes id = none ∧ Tab.get? t.groups gid = some y ∧ y.v = g.v ∧ y.s = g.s ∧
        y.fcnt = (match n.flag with | some k => updNth g.fcnt k (· - 1) | none => g.fcnt) ∧
        (cause = 0 → y.nrec = g.nrec ∧ y.nfail = g.nfail) ∧
        (cause ≠ 0 → Tab.get? g.nrec (n.flag.getD (16 + id)) = none →
          Tab.get? y.nrec (n.flag.getD (16 + id)) = some { pass := n.pass, cause := cause, raised := false } ∧ y.nfail = g.nfail) ∧
        (∀ r, cause ≠ 0 → Tab.get? g.nrec (n.flag.getD (16 + id)) = some r → r.raised = false →
          y.nrec = g.nrec ∧ y.nfail = (g.nfail + 1) % 2 ^ 32))) ∧
  ∀ (s : State) (port fe : Nat) (v : DWord),
    let p := s.proctor port
    let w := v.toNat
    let key := fe * 16 + w % 16
    let c := prCheck s fe w
    (p.run = none → p.cur = none → p.fifo = [] → ∃ t, exec (.proctorInvocation port) s = .next t ∧ t = s) ∧
    (∀ ev r k a, p.run = none → p.cur = none → p.fifo = ev :: r → p.atts = [(k, a)] →
      let n := (a.count + 1) % 2 ^ 32
      let room := Tab.getD p.used a.part 0 + a.code.length ≤ (s.fe a.part).prround
      ∃ t, exec (.proctorInvocation port) s = .next t ∧ (t.proctor port).fifo = r ∧ t.groups = s.groups ∧ t.mem = s.mem ∧
        (0 < a.skip → (t.proctor port).run = none ∧ (t.proctor port).atts = [(k, { a with skip := a.skip - 1 })]) ∧
        (a.skip = 0 → couldMatch ev a = false ∨ a.armed = false → (t.proctor port).run = none ∧ (t.proctor port).atts = [(k, a)]) ∧
        (a.skip = 0 → couldMatch ev a = true → a.armed = true →
          (t.proctor port).atts = [(k, { a with count := n })] ∧
          (n % 2 ^ a.samp ≠ 0 → (t.proctor port).run = none) ∧
          (n % 2 ^ a.samp = 0 → room →
            (t.proctor port).run = some { att := k, pc := 0, w := [], ev := ev, round := s.tt.round }) ∧
          (n % 2 ^ a.samp = 0 → ¬ room →
            (t.proctor port).run = none ∧ (t.fe a.part).prskip = ((s.fe a.part).prskip + 1) % 2 ^ 32))) ∧
    (bitAt w 10 = false → bitAt (s.fe fe).prstat 0 = false →
      (c.1 ≠ 0 → ∃ t, exec (.proctorAttach fe v) s = .next t ∧ t = { s with fes := t.fes } ∧
        t.fe fe = { s.fe fe with prstat := prStat c.1 c.2.1 c.2.2 }) ∧
      (c.1 = 0 → ∃ t, exec (.proctorAttach fe v) s = .next t ∧ t = { s with fes := t.fes, proctors := t.proctors } ∧
        (t.fe fe).prstat = prStat 0 c.2.1 c.2.2 ∧ ∀ q ∈ cmdPorts w, ∃ a, Tab.get? (t.proctor q).atts key = some a ∧ a.part = fe ∧
          a.slot = w % 16 ∧ a.src = bitsAt w 4 6 ∧ a.armed = bitAt w 11 ∧ a.count = 0 ∧ a.scratch = [] ∧
          a.skip = (s.proctor q).fifo.length ∧ a.leaving = false)) ∧
    (bitAt w 10 = true → bitAt (s.fe fe).prstat 0 = false →
      ((∃ q ∈ cmdPorts w, Tab.get? (s.proctor q).atts key = none) →
        ∃ t, exec (.proctorDetach fe v) s = .next t ∧ bitsAt (t.fe fe).prstat 1 3 = 6) ∧
      ((∀ q ∈ cmdPorts w, ∃ a, Tab.get? (s.proctor q).atts key = some a ∧ a.leaving = false) →
        ∃ t, exec (.proctorDetach fe v) s = .next t ∧ (t.fe fe).prstat = 0 ∧ ∀ q ∈ cmdPorts w,
          ((s.proctor q).run = none → Tab.get? (t.proctor q).atts key = none) ∧
          (∀ r, (s.proctor q).run = some r → r.att = key → ∃ a, Tab.get? (t.proctor q).atts key = some a ∧ a.leaving = true)))

/-- Matrix arithmetic (R95, R98 to R103, R105). The product of two codes is the exact value of its format, a multiple of 2^-112 below 2^78 where EXACT
mode takes it, and none where an operand is no number. An EXACT element adds its products one after another and stays at the nearer end of its range
when a sum would leave it; an F32TREE element adds the once rounded sum of eight products after another; both become NaR for good. A row's update gives
each element its own products in increasing k, from the codes and clamped block scales. A drain truncates: to a float format, to a symmetric 32-bit
integer, to the largest code not above; NaR has its own pattern in each. -/
def Obligations.MatrixArithmetic : Prop :=
  let isValue := fun (o : Option Int) (w : Rat) => ∃ p : Int, o = some p ∧ (p : Rat) * (2 : Rat) ^ (-300 : Int) = w
  let nar : Nat := 2 ^ 223
  let most : Int := 2 ^ 223 - 1
  (∀ (a b : Nat) (sc : Int), a < 256 → b < 256 → -64 ≤ sc → sc ≤ 62 →
    isValue (product 0 a b sc) (((sgn 8 a * sgn 8 b : Int) : Rat) * (2 : Rat) ^ sc) ∧
    ∀ six : Bool, (six = true → a < 64 ∧ b < 64) →
      let sign := if six then 32 else 128
      let d : Int := if six then 4 else 8
      let o := product (if six then 1 else 2) a b sc
      let e : Int := ((a % sign + b % sign : Nat) : Int) - (if six then 32 else 128)
      (a = sign ∨ b = sign → o = none) ∧ (a ≠ sign → b ≠ sign → a = 0 ∨ b = 0 → isValue o 0) ∧
      (a % sign ≠ 0 → b % sign ≠ 0 → isValue o (signedValue (decide (sign ≤ a) != decide (sign ≤ b))
        (nth lgTable ((e % d).toNat * (if six then 2 else 1)) 0) (e / d - 16 + sc)))) ∧
  (∀ (fmt : Nat) (t : FpFmt) (a b : Nat) (sc : Int), (fmt = 3 ∧ t = f16) ∨ (fmt = 4 ∧ t = bf16) → a < 2 ^ 16 → b < 2 ^ 16 →
    (∀ na ma ea nb mb eb, unpack t a = .fin na ma ea → unpack t b = .fin nb mb eb →
      isValue (product fmt a b sc) (signedValue na ma ea * signedValue nb mb eb)) ∧
    ((∀ n m e, unpack t a ≠ .fin n m e) ∨ (∀ n m e, unpack t b ≠ .fin n m e) → product fmt a b sc = none)) ∧
  (∀ (fmt a b : Nat) (sc p : Int), fmt ≤ 3 → a < (if fmt = 3 then 2 ^ 16 else if fmt = 1 then 64 else 256) →
    b < (if fmt = 3 then 2 ^ 16 else if fmt = 1 then 64 else 256) → -64 ≤ sc → sc ≤ 62 → product fmt a b sc = some p →
    p % 2 ^ 188 = 0 ∧ |p| < 2 ^ 378) ∧
  (∀ (x : Nat) (ps : List (Option Int)) (q : Option Int),
    let r := exactElem x ps
    exactElem x [] = (x, false) ∧
    exactElem x (ps ++ [q]) = if r.1 = nar then r else match q with
      | none => (nar, r.2)
      | some p =>
        let w := sgn 224 r.1 + p / 2 ^ 188
        if most < w then (wrap 224 most, true) else if w < -most then (wrap 224 (-most), true) else (wrap 224 w, r.2)) ∧
  (∀ (x : Nat) (ps o : List (Option Int)), ps.length % 8 = 0 → ps.length ≤ 120 → o.length = 8 →
    let r := treeElem x ps
    let z := treeElem x (ps ++ o)
    treeElem x [] = (x, false) ∧ (r.1 = f32.nanBits ∨ none ∈ o → z = (f32.nanBits, r.2)) ∧
    ∀ vs : List Int, r.1 ≠ f32.nanBits → o = vs.map some →
      ∃ y fl, IsRounded f32 .rne ((vs.sum : Rat) * (2 : Rat) ^ (-300 : Int)) false (y, fl) ∧
        let q := fpAdd f32 .rne r.1 y
        z.1 = (if isNan (unpack f32 q.1) then f32.nanBits else q.1) ∧ (z.2 = true ↔ r.2 = true ∨ fl &&& fOF ≠ 0 ∨ q.2 &&& fOF ≠ 0)) ∧
  (∀ (m : MFmt) (old : List Nat) (a : MLine) (bs : List MLine),
    let r := rowUpdate m old a bs
    let elem := fun (x : Nat) (b : MLine) => (if m.tree then treeElem else exactElem) x (products m a b)
    let len := if m.shape = 0 then 64 else if m.shape = 1 then 32 else 128
    let scale := fun (code : Nat) (l : MLine) (k : Nat) => if code = 0 then (0 : Int) else max (-32) (min 31 (sgn 8 (nth l.scales (k / (8 * 2 ^ code)) 0).toNat))
    (∀ (j : Nat) x b, old[j]? = some x → bs[j]? = some b → r.1[j]? = some (elem x b).1) ∧
    (r.2 = true ↔ ∃ (j : Nat) (x : Nat) (b : MLine), old[j]? = some x ∧ bs[j]? = some b ∧ (elem x b).2 = true) ∧
    ∀ b, (products m a b).length = len ∧ ∀ k, k < len → (products m a b)[k]? =
      some (product m.fmt (elemCode m.fmt a.bytes k) (elemCode m.fmt b.bytes k) (scale m.ablk a k + scale m.bblk b k))) ∧
  (∀ (bs : List Byte) (k i : Nat),
    (elemCode 0 bs k = (nth bs k 0).toNat ∧ elemCode 2 bs k = (nth bs k 0).toNat) ∧
    (2 * k + 1 < bs.length → ∀ fmt, fmt = 3 ∨ fmt = 4 → elemCode fmt bs k = (nth bs (2 * k) 0).toNat + (nth bs (2 * k + 1) 0).toNat * 2 ^ 8) ∧
    (12 * (k / 16) + 12 ≤ bs.length → i < 6 → elemCode 1 bs k < 64 ∧
      let j := 6 * (k % 16) + i
      bitAt (elemCode 1 bs k) i = bitAt (nth bs (12 * (k / 16) + j / 8) 0).toNat (j % 8))) ∧
  ∀ (mode x : Nat),
    let gone := drainElem 0 mode x = f32.nanBits ∧ drainElem 1 mode x = f16.nanBits ∧ drainElem 2 mode x = bf16.nanBits ∧
      drainElem 3 mode x = 2 ^ 31 ∧ drainElem 4 mode x = 2 ^ 7
    let gives := fun (v : Rat) =>
      (∀ fmt t, (fmt = 0 ∧ t = f32) ∨ (fmt = 1 ∧ t = f16) ∨ (fmt = 2 ∧ t = bf16) →
        ∃ neg n k, unpack t (drainElem fmt mode x) = .fin neg n k ∧ magnitude n k ≤ |v| ∧ (n = 0 → drainElem fmt mode x = 0) ∧
          (n ≠ 0 → (neg = true ↔ v < 0)) ∧
          ∀ y ny ky ng, unpack t y = .fin ng ny ky → magnitude ny ky ≤ |v| → magnitude ny ky ≤ magnitude n k) ∧
      (∃ k : Int, drainElem 3 mode x = wrap 32 k ∧ (|v| < 2 ^ 31 → RoundedInt .rtz v k) ∧
        (2 ^ 31 ≤ |v| → k = if v < 0 then -(2 ^ 31 - 1) else 2 ^ 31 - 1)) ∧
      ∃ k, k < 128 ∧ drainElem 4 mode x = (if k = 0 then 0 else k + if v < 0 then 128 else 0) ∧ lgValue false k ≤ |v| ∧
        ∀ j, j < 128 → lgValue false j ≤ |v| → j ≤ k
    (mode ≠ 2 → x < 2 ^ 224 → drainElem 5 mode x = x ∧ (x = nar → gone) ∧
      (x ≠ nar → gives (((sgn 224 x : Int) : Rat) * (2 : Rat) ^ (-112 : Int)))) ∧
    (mode = 2 → x < 2 ^ 32 → (x = f32.nanBits → gone) ∧ (∀ n m e, unpack f32 x = .fin n m e → gives (signedValue n m e)) ∧
      ∀ n, unpack f32 x = .inf n → ∀ fmt t, (fmt = 0 ∧ t = f32) ∨ (fmt = 1 ∧ t = f16) ∨ (fmt = 2 ∧ t = bf16) →
        drainElem fmt mode x = (if n then t.signW else 0) + t.maxBits)

/-- The jobs of engines, on operands in scratchpads (R165, R166, R174, R178 to R180, R184 to R187, R248, R251): a matrix job in its turn fetches B's
columns and then makes one row whole after another, with the last of which it is complete; a load of accumulators clears the tile and loads one row
after another; its rows 0 on completion is the model's choice (log 99); a drain writes its rows, queue and status jobs give their values; a chunk of a
window arrives as one unit or stops at its faults; a granule of a fill writes its bytes. That a status job waits for every earlier MMA, MLDACC and
MZERO of its tile (log 40), and that a drain which truncates a value to zero gives +0 (log 61), are the model's choices too. -/
def Obligations.JobsRun : Prop :=
  ∀ (s : State) (core tile id : Nat) (j : MJob),
    let t0 := tileOf s core tile
    let bytesAt := fun (as : List (Bool × Nat)) => as.flatMap fun p => padRead s j.team p.2 1
    let clean := fun (as : List (Bool × Nat)) => ∀ p ∈ as, p.1 = true ∧ padPoison s j.team p.2 1 = false
    let gone := fun (t : State) => Tab.get? t.mjobs id = none ∧ id ∉ (tileOf t core tile).turns
    let elem := fun (t : State) (i k : Nat) => Tab.getD (tileOf t core tile).elems (32 * i + k) 0
    (t0.owner.isSome = true →
      (∀ m, frontJob s core tile 1 = some (id, j) → formatOf (nth j.fb 0 0) j.shape = some m →
        jobWaits s id j (mmaSpans m j.fb j.a j.b) = false → (∀ h i, h < 2 → i < 32 → clean (mmaLine m j h i)) →
        let line := fun (h i : Nat) => splitLine (rowBytes m.fmt) (bytesAt (mmaLine m j h i))
        (j.cols = none →
          ∃ t, exec (.mmaJob core tile) s = .next t ∧ t.mem = s.mem ∧
            Tab.get? t.mjobs id = some { j with begun := true, cols := some ((List.range 32).flatMap fun k => bytesAt (mmaLine m j 1 k)) } ∧
            tileOf t core tile = { t0 with mode := if m.tree then 2 else 1, rows := j.row, stop := false }) ∧
        (∀ bs, j.cols = some bs → j.row < 32 →
          let r := rowUpdate m (tileRow t0 j.row) (line 0 j.row) (colLines m bs)
          ∃ t, exec (.mmaJob core tile) s = .next t ∧ t.mem = s.mem ∧ (tileOf t core tile).mode = (if m.tree then 2 else 1) ∧
            (tileOf t core tile).rows = j.row + 1 ∧ (tileOf t core tile).accsat = (t0.accsat || r.2) ∧
            (j.row < 31 → Tab.get? t.mjobs id = some { j with row := j.row + 1 }) ∧ (j.row = 31 → gone t ∧ (tileOf t core tile).stop = false) ∧
            (∀ k, k < 32 → elem t j.row k = nth r.1 k 0) ∧
            ∀ i k, i ≠ j.row → k < 32 → elem t i k = Tab.getD t0.elems (32 * i + k) 0)) ∧
      (frontJob s core tile 2 = some (id, j) → j.row < 32 → (j.begun = false → j.row = 0) →
        jobWaits s id j [(j.a, strideOf (nth j.fb 0 0), 896)] = false → clean (lineBytesAt j.a (strideOf (nth j.fb 0 0)) j.row 896) →
        ∃ t, exec (.mldaccJob core tile) s = .next t ∧ (j.row = 31 → gone t ∧ (tileOf t core tile).rows = 0) ∧
          (j.row < 31 → Tab.get? t.mjobs id = some { j with begun := true, row := j.row + 1 } ∧ (tileOf t core tile).rows = j.row + 1) ∧
          (j.begun = false → (tileOf t core tile).mode = 1 ∧ (tileOf t core tile).accsat = false) ∧
          (∀ k, k < 32 →
            elem t j.row k = ofBytes (((bytesAt (lineBytesAt j.a (strideOf (nth j.fb 0 0)) j.row 896)).drop (28 * k)).take 28)) ∧
          ∀ i k, i ≠ j.row → k < 32 → elem t i k = if j.begun then Tab.getD t0.elems (32 * i + k) 0 else 0) ∧
      (frontJob s core tile 7 = some (id, j) →
        ∃ t, exec (.mzeroTurn core tile) s = .next t ∧ gone t ∧ (tileOf t core tile).elems = [] ∧ (tileOf t core tile).mode = 0 ∧
          (tileOf t core tile).rows = 0 ∧ t.groups = s.groups)) ∧
    (begunDrain s core tile = none → frontJob s core tile 4 = some (id, j) → padForm j.a = true → j.row = 0 →
      let s1 := takeDrain s id core tile
      let n := 32 * drainWidth j.shape
      let stride := strideOf (nth j.fb 0 0)
      (∀ j1, Tab.get? s1.mjobs id = some j1 → jobWaits s1 id j1 (jobSpans j1) = false) → (n : Int) ≤ stride →
      (Tab.get? s.teams j.team).isSome = true → (∀ a, waitedObject s (some j.team) a 1 = none) →
      ∃ t, exec (.mdrainJob core tile) s = .next t ∧ gone t ∧ t.mem = s.mem ∧
        ∀ i : Nat, i < 32 → padRead t j.team (((j.a % 2 ^ 32 : Nat) : Int) + i * stride).toNat n =
          (List.range 32).flatMap fun k => toBytes (drainWidth j.shape) (drainElem j.shape t0.mode (Tab.getD t0.elems (32 * i + k) 0))) ∧
    (∀ gid g pre rs post, frontJob s core tile 3 = some (id, j) → groupBy s j.uid = some (gid, g) → Tab.get? s.groups gid = some g →
      nth g.queues j.queue [] = pre ++ rs ++ post → rs.length = 8 → (∀ e ∈ rs, e.op = id ∧ e.res = none) → (∀ e ∈ pre, e.op ≠ id) →
      ∃ t y, exec (.mdrainqTurn core tile) s = .next t ∧ gone t ∧ Tab.get? t.groups gid = some y ∧
        nth y.queues j.queue [] = pre ++ rs.mapIdx (fun k e => { e with res := some (queueLanes t0 j.shape j.half k) }) ++ post) ∧
    (∀ gid g d, statusJob s core tile = some (id, j) → groupBy s j.uid = some (gid, g) → Tab.get? s.groups gid = some g →
      j.dest = keyS d → d + 1 < 384 →
      ∃ t y, exec (.tileStatusTurn core tile) s = .next t ∧ gone t ∧ Tab.get? t.groups gid = some y ∧ (∀ e ∈ y.pend, e.2 ≠ id) ∧
        (j.kind = 5 → (y.spair d).toNat = statusWord t0 % 2 ^ 64) ∧ (j.kind ≠ 5 → (y.sreg d).toNat = progressWord t0 % 2 ^ 32) ∧
        (∀ n, n ≠ d → n ≠ d + 1 → y.sreg n = g.sreg n) ∧ y.v = g.v) ∧
    (∀ team region chunk d u,
      let w := d.region region
      let r := vaGather s { part := d.part, core := some d.core, chip := some (chipOfCore d.core), eng := none, hmode := false
                            uid := some w.uid, cls := (Tab.get? s.launches d.launch).map (·.cls) } .load false (chunkVas w chunk)
      Tab.get? s.teams team = some d → w.noChunk chunk = false → copyHeld s w = false → w.state = 2 →
      (∀ a n, waitedObject s (some team) a n = none) →
      Tab.get? s.sliceSets (setKey d region) = none → r.1 = u → u.teams = s.teams → u.sliceSets = s.sliceSets →
      (∀ bs, r.2 = .ok bs →
        ∃ t y, exec (.windowChunkArrival team region chunk) s = .next t ∧ padRead t team (w.offset + 512 * chunk) bs.length = bs ∧
          Tab.get? t.teams team = some y ∧ (y.region region).chunks = w.chunks + 2 ^ chunk ∧
          (y.region region).state = (if ({ w with chunks := w.chunks + 2 ^ chunk } : Window).whole then 4 else 2)) ∧
      (∀ b e, r.2 = .error (b :: e) → w.event = none →
        ∃ t y k, exec (.windowChunkArrival team region chunk) s = .next t ∧ Tab.get? t.teams team = some y ∧
          (y.region region).flt = true ∧ chunk ∈ (y.region region).stopped ∧ (y.region region).chunks = w.chunks ∧
          (y.region region).event = some k ∧ (Tab.get? t.events k).isSome = true)) ∧
    (∀ op k c pa,
      let va := c.a + (c.piece k).1
      let x := churnXer c (granuleMc s c (va % 2 ^ 64) .store)
      Tab.get? s.churns op = some c → c.kind = 0 → k < c.granules → k ∉ c.done → c.event = none → fenceHolds s c.uid op 3 = false →
      granuleMsgs s op = none → va + (c.piece k).2 ≤ 2 ^ 64 → 1 < c.granules → c.done = [] → isDevice pa = true → pa % 4096 = va % 4096 →
      (translate s x (va / 4096 * 4096) .store).2 = .ok (pa / 4096 * 4096, 0) →
      writeWaits (translate s x (va / 4096 * 4096) .store).1 c.part (some c.cls) ((List.range (c.piece k).2).map (pa + ·)) = none →
      (∀ a, waitedObject s none a 1 = none) →
      ∃ t y, exec (.churnGranule op k) s = .next t ∧ Tab.get? t.churns op = some y ∧ y.done = [k] ∧
        (∀ a, Memory.read t.mem a = if pa ≤ a ∧ a < pa + (c.piece k).2 then
          BitVec.ofNat 8 (c.word / 2 ^ (8 * (((c.piece k).1 + (a - pa)) % 4)))
          else Memory.read (translate s x (va / 4096 * 4096) .store).1.mem a))

/-- A step runs the decoded instruction (R38, R75, R228, R333): where nothing else is due in the cycle, and the agenda, or by default the fragment
that ranks first, names a fragment that may issue, that its sub-core selects, and whose words decode under its clause's class, the step is that
instruction's effect for it one cycle later, with what follows in the same cycle; at the start of a clause the step enters it; a Proctor's word and
an event of the agenda likewise. Which action a step takes (the agenda and its default) is the model's choice (log 2). -/
def Obligations.StepRunsDecoded : Prop :=
  ∀ (s : State) (r : List Action), duePlan s = none →
    (∀ core slot fi g f i n, s.agenda = .issue core slot fi :: r → slot < 128 →
      let gid := core * 128 + slot
      let t := tick { s with agenda := r } 1
      let u := select t gid fi g
      Tab.get? s.groups gid = some g → g.frag? fi = some f → mayIssue t gid g = true → frag_ready g fi f = true →
      datapathBusy t gid g f = false →
      (f.idx ≠ 0 → selected t gid g = some (gid, fi) → decode (some (bitsAt f.hdr.toNat 4 3)) (f.words.drop (f.idx - 1)) = .ok (i, n) →
        step s = after (closeRun i u) (exec i u)) ∧
      (f.idx = 0 → step s = after (closeStep s) (exec (.enterClause core slot fi) { t with cur := some (gid, fi) }))) ∧
    (∀ gid fi g f i n, s.agenda = [] →
      let t := tick s 1
      let u := select t gid fi g
      t.clock % 2 = 0 → bestFrag t = some (gid, fi) → selected t gid g = some (gid, fi) → Tab.get? s.groups gid = some g → g.frag? fi = some f → mayIssue t gid g = true →
      frag_ready g fi f = true → datapathBusy t gid g f = false → f.idx ≠ 0 →
      decode (some (bitsAt f.hdr.toNat 4 3)) (f.words.drop (f.idx - 1)) = .ok (i, n) →
      step s = after (closeRun i u) (exec i u)) ∧
    (∀ port x w i, s.agenda = .proctor port :: r →
      let u := { tick { s with agenda := r } 1 with curPr := some port }
      u.prIssuer = some x → x.att.code[x.run.pc]? = some w → decodePr w = some i → step s = after (closeRun i u) (exec i u)) ∧
    (∀ i, s.agenda = .event i :: r → eventOk i = true →
      let u := tick { s with agenda := r, cur := none } 1
      step s = after (closeRun i u) (exec i u))

/-- Words of the manual's own worked encodings (R65 to R71, R338) decode to the instructions that they stand for: VADD V9, S5, 3; VFADD.rtz V10,
V9, 1.5 with a live-mask word; GLD.n32 V8, [S20:S21 + 0x40]; SADDI S6, S6, -1; a short JMP by -11 words; EXIT; VMAD.sat V12, V4, S9, 100; the
Proctor's HINC 3, W2, W3, 0; and unlisted majors are rejected. -/
def Obligations.WorkedWordsDecode : Prop :=
  decode none [0x000985C3] = .ok (.vaddShort { sp := none, d := 9, a := 133, b := 195 }, 1) ∧
  decode (some 0) [0xC1000282, 0x027FF000, 0x3FC00000, 0x00010003] =
    .ok (.vfadd { sp := some 0x00010003, mod := 2, fs := false, d := 10, a := 9, b := 1023, c := 0, hold := 0, lit := some 0x3FC00000 }, 4) ∧
  decode (some 2) [0x50000208, 0x25000040] =
    .ok (.gld { sp := none, nt := false, sx := false, size := 2, fs := false, d := 8, off := 0x40, scope := 0, order := 0, addr := 148
                lit := none }, 2) ∧
  decode (some 1) [0x280301BF, 0x49080000, 0] = .ok (.saddi { sp := none, d := 6, a := 6, imm := 63 }, 1) ∧
  decode none [0x300FFFF5] = .ok (.jmpShort { sp := none, cond := 0, off := 0xFFFF5 }, 1) ∧
  decode none [0x49080000, 0x00000000] = .ok (.exit { sp := none, sel := 0, lo := 0, w1 := 0, lit := none }, 2) ∧
  decode none [0x40060304, 0x01089FFC, 0x00000064] =
    .ok (.vmad { sp := none, mod := 4, fs := false, d := 12, a := 4, b := 137, c := 1023, hold := 0, lit := some 100 }, 3) ∧
  decodePr 0x38C8C000 = some (.prHinc { d := 3, a := 2, b := 3, imm := 0 }) ∧
  decode none [0x4A000000, 0] = .error .unlistedMajor ∧ decode none [0x7F000001, 0] = .error .unlistedMajor

/-- Decoding and encoding agree (R64 to R73, R75, R338): every well-formed instruction is read back from its words, whatever follows them, and
every instruction that is read is well-formed and has exactly the words that were read. Likewise for a Proctor word. -/
def Obligations.DecodeEncodeAgree : Prop :=
  (∀ (i : Instr) (e : Enc) (rest : List Word), i.enc = some e → e.wf = true → (∀ op f, e ≠ .pr op f) →
    decode none (encode i ++ rest) = .ok (i, (encode i).length)) ∧
  (∀ (ws : List Word) (i : Instr) (n : Nat), decode none ws = .ok (i, n) → i.wf = true ∧ n ≤ ws.length ∧ encode i = ws.take n) ∧
  (∀ (i : Instr) (op : BitVec 6) (f : Pr), i.enc = some (.pr op f) → i.wf = true →
    ∃ w, encode i = [w] ∧ decodePr w = some i) ∧
  ∀ (w : Word) (i : Instr), decodePr w = some i → i.wf = true ∧ encode i = [w]

/-- What reset leaves, where the manual gives it (R278, R282, R349, R350, R352, R354, R359, R376): no group, launch or operation; every partition
disabled, with nothing submitted and an empty Journal; every pair FULL with all its credits; every Ednan port enabled and DOWN; no page in host
bias; the management registers. Memory lists nothing: that an unlisted byte reads as zero is the model's choice (log 3). -/
def Obligations.ResetLeaves : Prop :=
  State.reset.groups = [] ∧ State.reset.launches = [] ∧ State.reset.ops = [] ∧ State.reset.teams = [] ∧ State.reset.bias = [] ∧
  (∀ n, (State.reset.fe n).en = false ∧ (State.reset.fe n).err = false ∧ (State.reset.fe n).rst = false ∧ (State.reset.fe n).last = 0 ∧
    (State.reset.fe n).jnlhead = (State.reset.fe n).jnltail ∧ (State.reset.fe n).jnl = [] ∧ (State.reset.fe n).fqhead = 0 ∧
    (State.reset.fe n).fqtail = 0) ∧
  (∀ i j, (State.reset.pair i j).mode = 0 ∧ (State.reset.pair i j).preset = 1 ∧ (State.reset.pair i j).credits = 64 ∧
    (State.reset.pair i j).lostp = false ∧ (State.reset.pair i j).losts = false ∧ (State.reset.pair i j).switching = false) ∧
  (∀ p, (State.reset.edPort p).st = 0 ∧ (State.reset.edPort p).en = true) ∧ (∀ d, edRoute State.reset d = none) ∧
  State.reset.mg.bootstat = 0 ∧ State.reset.mg.errlog = 0 ∧ State.reset.mg.pwrcap = 2600 ∧ State.reset.mg.power = 0 ∧
  State.reset.mg.nonce = 0 ∧ MemoryForm State.reset ∧ GroupForm State.reset

/-- Every step keeps the canonical form of memory and of every scratchpad. -/
def Obligations.MemoryFormKept : Prop :=
  ∀ (s t : State), MemoryForm s → step s = .next t → MemoryForm t

/-- Every step keeps the flag counters within 6 bits (R30) and EXEC of every fragment within the fragment's members (R50). -/
def Obligations.GroupFormKept : Prop :=
  ∀ (s t : State), GroupForm s → step s = .next t → GroupForm t
end

