-- ==== Sys2Proof/Laws/State.lean ====
section
/-! SUPPORT. What each update of the state leaves alone: one lemma for each field and update. -/

namespace Sys2Proof.Machine

/-! ### `State.modGroup` -/

@[simp] theorem State.modGroup_clock (s : State) (gid : Nat) (f : Group → Group) : (s.modGroup gid f).clock = s.clock := rfl
@[simp] theorem State.modGroup_agenda (s : State) (gid : Nat) (f : Group → Group) : (s.modGroup gid f).agenda = s.agenda := rfl
@[simp] theorem State.modGroup_cur (s : State) (gid : Nat) (f : Group → Group) : (s.modGroup gid f).cur = s.cur := rfl
@[simp] theorem State.modGroup_curPr (s : State) (gid : Nat) (f : Group → Group) : (s.modGroup gid f).curPr = s.curPr := rfl
@[simp] theorem State.modGroup_nextOp (s : State) (gid : Nat) (f : Group → Group) : (s.modGroup gid f).nextOp = s.nextOp := rfl
@[simp] theorem State.modGroup_freeCtr (s : State) (gid : Nat) (f : Group → Group) : (s.modGroup gid f).freeCtr = s.freeCtr := rfl
@[simp] theorem State.modGroup_topv (s : State) (gid : Nat) (f : Group → Group) : (s.modGroup gid f).topv = s.topv := rfl
@[simp] theorem State.modGroup_cores (s : State) (gid : Nat) (f : Group → Group) : (s.modGroup gid f).cores = s.cores := rfl
@[simp] theorem State.modGroup_mem (s : State) (gid : Nat) (f : Group → Group) : (s.modGroup gid f).mem = s.mem := rfl
@[simp] theorem State.modGroup_hlines (s : State) (gid : Nat) (f : Group → Group) : (s.modGroup gid f).hlines = s.hlines := rfl
@[simp] theorem State.modGroup_hwaits (s : State) (gid : Nat) (f : Group → Group) : (s.modGroup gid f).hwaits = s.hwaits := rfl
@[simp] theorem State.modGroup_postings (s : State) (gid : Nat) (f : Group → Group) : (s.modGroup gid f).postings = s.postings := rfl
@[simp] theorem State.modGroup_ops (s : State) (gid : Nat) (f : Group → Group) : (s.modGroup gid f).ops = s.ops := rfl
@[simp] theorem State.modGroup_chips (s : State) (gid : Nat) (f : Group → Group) : (s.modGroup gid f).chips = s.chips := rfl
@[simp] theorem State.modGroup_slices (s : State) (gid : Nat) (f : Group → Group) : (s.modGroup gid f).slices = s.slices := rfl
@[simp] theorem State.modGroup_tt (s : State) (gid : Nat) (f : Group → Group) : (s.modGroup gid f).tt = s.tt := rfl
@[simp] theorem State.modGroup_bias (s : State) (gid : Nat) (f : Group → Group) : (s.modGroup gid f).bias = s.bias := rfl
@[simp] theorem State.modGroup_teams (s : State) (gid : Nat) (f : Group → Group) : (s.modGroup gid f).teams = s.teams := rfl
@[simp] theorem State.modGroup_sliceSets (s : State) (gid : Nat) (f : Group → Group) : (s.modGroup gid f).sliceSets = s.sliceSets := rfl
@[simp] theorem State.modGroup_pairs (s : State) (gid : Nat) (f : Group → Group) : (s.modGroup gid f).pairs = s.pairs := rfl
@[simp] theorem State.modGroup_events (s : State) (gid : Nat) (f : Group → Group) : (s.modGroup gid f).events = s.events := rfl
@[simp] theorem State.modGroup_past (s : State) (gid : Nat) (f : Group → Group) : (s.modGroup gid f).past = s.past := rfl
@[simp] theorem State.modGroup_launches (s : State) (gid : Nat) (f : Group → Group) : (s.modGroup gid f).launches = s.launches := rfl
@[simp] theorem State.modGroup_proctors (s : State) (gid : Nat) (f : Group → Group) : (s.modGroup gid f).proctors = s.proctors := rfl
@[simp] theorem State.modGroup_fes (s : State) (gid : Nat) (f : Group → Group) : (s.modGroup gid f).fes = s.fes := rfl
@[simp] theorem State.modGroup_mjobs (s : State) (gid : Nat) (f : Group → Group) : (s.modGroup gid f).mjobs = s.mjobs := rfl
@[simp] theorem State.modGroup_churns (s : State) (gid : Nat) (f : Group → Group) : (s.modGroup gid f).churns = s.churns := rfl
@[simp] theorem State.modGroup_notes (s : State) (gid : Nat) (f : Group → Group) : (s.modGroup gid f).notes = s.notes := rfl
@[simp] theorem State.modGroup_works (s : State) (gid : Nat) (f : Group → Group) : (s.modGroup gid f).works = s.works := rfl
@[simp] theorem State.modGroup_colls (s : State) (gid : Nat) (f : Group → Group) : (s.modGroup gid f).colls = s.colls := rfl
@[simp] theorem State.modGroup_gens (s : State) (gid : Nat) (f : Group → Group) : (s.modGroup gid f).gens = s.gens := rfl
@[simp] theorem State.modGroup_cgens (s : State) (gid : Nat) (f : Group → Group) : (s.modGroup gid f).cgens = s.cgens := rfl
@[simp] theorem State.modGroup_etlbs (s : State) (gid : Nat) (f : Group → Group) : (s.modGroup gid f).etlbs = s.etlbs := rfl
@[simp] theorem State.modGroup_vfs (s : State) (gid : Nat) (f : Group → Group) : (s.modGroup gid f).vfs = s.vfs := rfl
@[simp] theorem State.modGroup_hp (s : State) (gid : Nat) (f : Group → Group) : (s.modGroup gid f).hp = s.hp := rfl
@[simp] theorem State.modGroup_ed (s : State) (gid : Nat) (f : Group → Group) : (s.modGroup gid f).ed = s.ed := rfl
@[simp] theorem State.modGroup_mg (s : State) (gid : Nat) (f : Group → Group) : (s.modGroup gid f).mg = s.mg := rfl
@[simp] theorem State.modGroup_outs (s : State) (gid : Nat) (f : Group → Group) : (s.modGroup gid f).outs = s.outs := rfl

/-! ### `State.modFrag` -/

@[simp] theorem State.modFrag_clock (s : State) (gid fi : Nat) (f : Frag → Frag) : (s.modFrag gid fi f).clock = s.clock := rfl
@[simp] theorem State.modFrag_agenda (s : State) (gid fi : Nat) (f : Frag → Frag) : (s.modFrag gid fi f).agenda = s.agenda := rfl
@[simp] theorem State.modFrag_cur (s : State) (gid fi : Nat) (f : Frag → Frag) : (s.modFrag gid fi f).cur = s.cur := rfl
@[simp] theorem State.modFrag_curPr (s : State) (gid fi : Nat) (f : Frag → Frag) : (s.modFrag gid fi f).curPr = s.curPr := rfl
@[simp] theorem State.modFrag_nextOp (s : State) (gid fi : Nat) (f : Frag → Frag) : (s.modFrag gid fi f).nextOp = s.nextOp := rfl
@[simp] theorem State.modFrag_freeCtr (s : State) (gid fi : Nat) (f : Frag → Frag) : (s.modFrag gid fi f).freeCtr = s.freeCtr := rfl
@[simp] theorem State.modFrag_topv (s : State) (gid fi : Nat) (f : Frag → Frag) : (s.modFrag gid fi f).topv = s.topv := rfl
@[simp] theorem State.modFrag_cores (s : State) (gid fi : Nat) (f : Frag → Frag) : (s.modFrag gid fi f).cores = s.cores := rfl
@[simp] theorem State.modFrag_mem (s : State) (gid fi : Nat) (f : Frag → Frag) : (s.modFrag gid fi f).mem = s.mem := rfl
@[simp] theorem State.modFrag_hlines (s : State) (gid fi : Nat) (f : Frag → Frag) : (s.modFrag gid fi f).hlines = s.hlines := rfl
@[simp] theorem State.modFrag_hwaits (s : State) (gid fi : Nat) (f : Frag → Frag) : (s.modFrag gid fi f).hwaits = s.hwaits := rfl
@[simp] theorem State.modFrag_postings (s : State) (gid fi : Nat) (f : Frag → Frag) : (s.modFrag gid fi f).postings = s.postings := rfl
@[simp] theorem State.modFrag_ops (s : State) (gid fi : Nat) (f : Frag → Frag) : (s.modFrag gid fi f).ops = s.ops := rfl
@[simp] theorem State.modFrag_chips (s : State) (gid fi : Nat) (f : Frag → Frag) : (s.modFrag gid fi f).chips = s.chips := rfl
@[simp] theorem State.modFrag_slices (s : State) (gid fi : Nat) (f : Frag → Frag) : (s.modFrag gid fi f).slices = s.slices := rfl
@[simp] theorem State.modFrag_tt (s : State) (gid fi : Nat) (f : Frag → Frag) : (s.modFrag gid fi f).tt = s.tt := rfl
@[simp] theorem State.modFrag_bias (s : State) (gid fi : Nat) (f : Frag → Frag) : (s.modFrag gid fi f).bias = s.bias := rfl
@[simp] theorem State.modFrag_teams (s : State) (gid fi : Nat) (f : Frag → Frag) : (s.modFrag gid fi f).teams = s.teams := rfl
@[simp] theorem State.modFrag_sliceSets (s : State) (gid fi : Nat) (f : Frag → Frag) : (s.modFrag gid fi f).sliceSets = s.sliceSets := rfl
@[simp] theorem State.modFrag_pairs (s : State) (gid fi : Nat) (f : Frag → Frag) : (s.modFrag gid fi f).pairs = s.pairs := rfl
@[simp] theorem State.modFrag_events (s : State) (gid fi : Nat) (f : Frag → Frag) : (s.modFrag gid fi f).events = s.events := rfl
@[simp] theorem State.modFrag_past (s : State) (gid fi : Nat) (f : Frag → Frag) : (s.modFrag gid fi f).past = s.past := rfl
@[simp] theorem State.modFrag_launches (s : State) (gid fi : Nat) (f : Frag → Frag) : (s.modFrag gid fi f).launches = s.launches := rfl
@[simp] theorem State.modFrag_proctors (s : State) (gid fi : Nat) (f : Frag → Frag) : (s.modFrag gid fi f).proctors = s.proctors := rfl
@[simp] theorem State.modFrag_fes (s : State) (gid fi : Nat) (f : Frag → Frag) : (s.modFrag gid fi f).fes = s.fes := rfl
@[simp] theorem State.modFrag_mjobs (s : State) (gid fi : Nat) (f : Frag → Frag) : (s.modFrag gid fi f).mjobs = s.mjobs := rfl
@[simp] theorem State.modFrag_churns (s : State) (gid fi : Nat) (f : Frag → Frag) : (s.modFrag gid fi f).churns = s.churns := rfl
@[simp] theorem State.modFrag_notes (s : State) (gid fi : Nat) (f : Frag → Frag) : (s.modFrag gid fi f).notes = s.notes := rfl
@[simp] theorem State.modFrag_works (s : State) (gid fi : Nat) (f : Frag → Frag) : (s.modFrag gid fi f).works = s.works := rfl
@[simp] theorem State.modFrag_colls (s : State) (gid fi : Nat) (f : Frag → Frag) : (s.modFrag gid fi f).colls = s.colls := rfl
@[simp] theorem State.modFrag_gens (s : State) (gid fi : Nat) (f : Frag → Frag) : (s.modFrag gid fi f).gens = s.gens := rfl
@[simp] theorem State.modFrag_cgens (s : State) (gid fi : Nat) (f : Frag → Frag) : (s.modFrag gid fi f).cgens = s.cgens := rfl
@[simp] theorem State.modFrag_etlbs (s : State) (gid fi : Nat) (f : Frag → Frag) : (s.modFrag gid fi f).etlbs = s.etlbs := rfl
@[simp] theorem State.modFrag_vfs (s : State) (gid fi : Nat) (f : Frag → Frag) : (s.modFrag gid fi f).vfs = s.vfs := rfl
@[simp] theorem State.modFrag_hp (s : State) (gid fi : Nat) (f : Frag → Frag) : (s.modFrag gid fi f).hp = s.hp := rfl
@[simp] theorem State.modFrag_ed (s : State) (gid fi : Nat) (f : Frag → Frag) : (s.modFrag gid fi f).ed = s.ed := rfl
@[simp] theorem State.modFrag_mg (s : State) (gid fi : Nat) (f : Frag → Frag) : (s.modFrag gid fi f).mg = s.mg := rfl
@[simp] theorem State.modFrag_outs (s : State) (gid fi : Nat) (f : Frag → Frag) : (s.modFrag gid fi f).outs = s.outs := rfl

/-! ### `State.modCore` -/

@[simp] theorem State.modCore_clock (s : State) (c : Nat) (f : Core → Core) : (s.modCore c f).clock = s.clock := rfl
@[simp] theorem State.modCore_agenda (s : State) (c : Nat) (f : Core → Core) : (s.modCore c f).agenda = s.agenda := rfl
@[simp] theorem State.modCore_cur (s : State) (c : Nat) (f : Core → Core) : (s.modCore c f).cur = s.cur := rfl
@[simp] theorem State.modCore_curPr (s : State) (c : Nat) (f : Core → Core) : (s.modCore c f).curPr = s.curPr := rfl
@[simp] theorem State.modCore_nextOp (s : State) (c : Nat) (f : Core → Core) : (s.modCore c f).nextOp = s.nextOp := rfl
@[simp] theorem State.modCore_freeCtr (s : State) (c : Nat) (f : Core → Core) : (s.modCore c f).freeCtr = s.freeCtr := rfl
@[simp] theorem State.modCore_topv (s : State) (c : Nat) (f : Core → Core) : (s.modCore c f).topv = s.topv := rfl
@[simp] theorem State.modCore_groups (s : State) (c : Nat) (f : Core → Core) : (s.modCore c f).groups = s.groups := rfl
@[simp] theorem State.modCore_mem (s : State) (c : Nat) (f : Core → Core) : (s.modCore c f).mem = s.mem := rfl
@[simp] theorem State.modCore_hlines (s : State) (c : Nat) (f : Core → Core) : (s.modCore c f).hlines = s.hlines := rfl
@[simp] theorem State.modCore_hwaits (s : State) (c : Nat) (f : Core → Core) : (s.modCore c f).hwaits = s.hwaits := rfl
@[simp] theorem State.modCore_postings (s : State) (c : Nat) (f : Core → Core) : (s.modCore c f).postings = s.postings := rfl
@[simp] theorem State.modCore_ops (s : State) (c : Nat) (f : Core → Core) : (s.modCore c f).ops = s.ops := rfl
@[simp] theorem State.modCore_chips (s : State) (c : Nat) (f : Core → Core) : (s.modCore c f).chips = s.chips := rfl
@[simp] theorem State.modCore_slices (s : State) (c : Nat) (f : Core → Core) : (s.modCore c f).slices = s.slices := rfl
@[simp] theorem State.modCore_tt (s : State) (c : Nat) (f : Core → Core) : (s.modCore c f).tt = s.tt := rfl
@[simp] theorem State.modCore_bias (s : State) (c : Nat) (f : Core → Core) : (s.modCore c f).bias = s.bias := rfl
@[simp] theorem State.modCore_teams (s : State) (c : Nat) (f : Core → Core) : (s.modCore c f).teams = s.teams := rfl
@[simp] theorem State.modCore_sliceSets (s : State) (c : Nat) (f : Core → Core) : (s.modCore c f).sliceSets = s.sliceSets := rfl
@[simp] theorem State.modCore_pairs (s : State) (c : Nat) (f : Core → Core) : (s.modCore c f).pairs = s.pairs := rfl
@[simp] theorem State.modCore_events (s : State) (c : Nat) (f : Core → Core) : (s.modCore c f).events = s.events := rfl
@[simp] theorem State.modCore_past (s : State) (c : Nat) (f : Core → Core) : (s.modCore c f).past = s.past := rfl
@[simp] theorem State.modCore_launches (s : State) (c : Nat) (f : Core → Core) : (s.modCore c f).launches = s.launches := rfl
@[simp] theorem State.modCore_proctors (s : State) (c : Nat) (f : Core → Core) : (s.modCore c f).proctors = s.proctors := rfl
@[simp] theorem State.modCore_fes (s : State) (c : Nat) (f : Core → Core) : (s.modCore c f).fes = s.fes := rfl
@[simp] theorem State.modCore_mjobs (s : State) (c : Nat) (f : Core → Core) : (s.modCore c f).mjobs = s.mjobs := rfl
@[simp] theorem State.modCore_churns (s : State) (c : Nat) (f : Core → Core) : (s.modCore c f).churns = s.churns := rfl
@[simp] theorem State.modCore_notes (s : State) (c : Nat) (f : Core → Core) : (s.modCore c f).notes = s.notes := rfl
@[simp] theorem State.modCore_works (s : State) (c : Nat) (f : Core → Core) : (s.modCore c f).works = s.works := rfl
@[simp] theorem State.modCore_colls (s : State) (c : Nat) (f : Core → Core) : (s.modCore c f).colls = s.colls := rfl
@[simp] theorem State.modCore_gens (s : State) (c : Nat) (f : Core → Core) : (s.modCore c f).gens = s.gens := rfl
@[simp] theorem State.modCore_cgens (s : State) (c : Nat) (f : Core → Core) : (s.modCore c f).cgens = s.cgens := rfl
@[simp] theorem State.modCore_etlbs (s : State) (c : Nat) (f : Core → Core) : (s.modCore c f).etlbs = s.etlbs := rfl
@[simp] theorem State.modCore_vfs (s : State) (c : Nat) (f : Core → Core) : (s.modCore c f).vfs = s.vfs := rfl
@[simp] theorem State.modCore_hp (s : State) (c : Nat) (f : Core → Core) : (s.modCore c f).hp = s.hp := rfl
@[simp] theorem State.modCore_ed (s : State) (c : Nat) (f : Core → Core) : (s.modCore c f).ed = s.ed := rfl
@[simp] theorem State.modCore_mg (s : State) (c : Nat) (f : Core → Core) : (s.modCore c f).mg = s.mg := rfl
@[simp] theorem State.modCore_outs (s : State) (c : Nat) (f : Core → Core) : (s.modCore c f).outs = s.outs := rfl

/-! ### `State.modFe` -/

@[simp] theorem State.modFe_clock (s : State) (n : Nat) (f : Fe → Fe) : (s.modFe n f).clock = s.clock := rfl
@[simp] theorem State.modFe_agenda (s : State) (n : Nat) (f : Fe → Fe) : (s.modFe n f).agenda = s.agenda := rfl
@[simp] theorem State.modFe_cur (s : State) (n : Nat) (f : Fe → Fe) : (s.modFe n f).cur = s.cur := rfl
@[simp] theorem State.modFe_curPr (s : State) (n : Nat) (f : Fe → Fe) : (s.modFe n f).curPr = s.curPr := rfl
@[simp] theorem State.modFe_nextOp (s : State) (n : Nat) (f : Fe → Fe) : (s.modFe n f).nextOp = s.nextOp := rfl
@[simp] theorem State.modFe_freeCtr (s : State) (n : Nat) (f : Fe → Fe) : (s.modFe n f).freeCtr = s.freeCtr := rfl
@[simp] theorem State.modFe_topv (s : State) (n : Nat) (f : Fe → Fe) : (s.modFe n f).topv = s.topv := rfl
@[simp] theorem State.modFe_groups (s : State) (n : Nat) (f : Fe → Fe) : (s.modFe n f).groups = s.groups := rfl
@[simp] theorem State.modFe_cores (s : State) (n : Nat) (f : Fe → Fe) : (s.modFe n f).cores = s.cores := rfl
@[simp] theorem State.modFe_mem (s : State) (n : Nat) (f : Fe → Fe) : (s.modFe n f).mem = s.mem := rfl
@[simp] theorem State.modFe_hlines (s : State) (n : Nat) (f : Fe → Fe) : (s.modFe n f).hlines = s.hlines := rfl
@[simp] theorem State.modFe_hwaits (s : State) (n : Nat) (f : Fe → Fe) : (s.modFe n f).hwaits = s.hwaits := rfl
@[simp] theorem State.modFe_postings (s : State) (n : Nat) (f : Fe → Fe) : (s.modFe n f).postings = s.postings := rfl
@[simp] theorem State.modFe_ops (s : State) (n : Nat) (f : Fe → Fe) : (s.modFe n f).ops = s.ops := rfl
@[simp] theorem State.modFe_chips (s : State) (n : Nat) (f : Fe → Fe) : (s.modFe n f).chips = s.chips := rfl
@[simp] theorem State.modFe_slices (s : State) (n : Nat) (f : Fe → Fe) : (s.modFe n f).slices = s.slices := rfl
@[simp] theorem State.modFe_tt (s : State) (n : Nat) (f : Fe → Fe) : (s.modFe n f).tt = s.tt := rfl
@[simp] theorem State.modFe_bias (s : State) (n : Nat) (f : Fe → Fe) : (s.modFe n f).bias = s.bias := rfl
@[simp] theorem State.modFe_teams (s : State) (n : Nat) (f : Fe → Fe) : (s.modFe n f).teams = s.teams := rfl
@[simp] theorem State.modFe_sliceSets (s : State) (n : Nat) (f : Fe → Fe) : (s.modFe n f).sliceSets = s.sliceSets := rfl
@[simp] theorem State.modFe_pairs (s : State) (n : Nat) (f : Fe → Fe) : (s.modFe n f).pairs = s.pairs := rfl
@[simp] theorem State.modFe_events (s : State) (n : Nat) (f : Fe → Fe) : (s.modFe n f).events = s.events := rfl
@[simp] theorem State.modFe_past (s : State) (n : Nat) (f : Fe → Fe) : (s.modFe n f).past = s.past := rfl
@[simp] theorem State.modFe_launches (s : State) (n : Nat) (f : Fe → Fe) : (s.modFe n f).launches = s.launches := rfl
@[simp] theorem State.modFe_proctors (s : State) (n : Nat) (f : Fe → Fe) : (s.modFe n f).proctors = s.proctors := rfl
@[simp] theorem State.modFe_mjobs (s : State) (n : Nat) (f : Fe → Fe) : (s.modFe n f).mjobs = s.mjobs := rfl
@[simp] theorem State.modFe_churns (s : State) (n : Nat) (f : Fe → Fe) : (s.modFe n f).churns = s.churns := rfl
@[simp] theorem State.modFe_notes (s : State) (n : Nat) (f : Fe → Fe) : (s.modFe n f).notes = s.notes := rfl
@[simp] theorem State.modFe_works (s : State) (n : Nat) (f : Fe → Fe) : (s.modFe n f).works = s.works := rfl
@[simp] theorem State.modFe_colls (s : State) (n : Nat) (f : Fe → Fe) : (s.modFe n f).colls = s.colls := rfl
@[simp] theorem State.modFe_gens (s : State) (n : Nat) (f : Fe → Fe) : (s.modFe n f).gens = s.gens := rfl
@[simp] theorem State.modFe_cgens (s : State) (n : Nat) (f : Fe → Fe) : (s.modFe n f).cgens = s.cgens := rfl
@[simp] theorem State.modFe_etlbs (s : State) (n : Nat) (f : Fe → Fe) : (s.modFe n f).etlbs = s.etlbs := rfl
@[simp] theorem State.modFe_vfs (s : State) (n : Nat) (f : Fe → Fe) : (s.modFe n f).vfs = s.vfs := rfl
@[simp] theorem State.modFe_hp (s : State) (n : Nat) (f : Fe → Fe) : (s.modFe n f).hp = s.hp := rfl
@[simp] theorem State.modFe_ed (s : State) (n : Nat) (f : Fe → Fe) : (s.modFe n f).ed = s.ed := rfl
@[simp] theorem State.modFe_mg (s : State) (n : Nat) (f : Fe → Fe) : (s.modFe n f).mg = s.mg := rfl
@[simp] theorem State.modFe_outs (s : State) (n : Nat) (f : Fe → Fe) : (s.modFe n f).outs = s.outs := rfl

/-! ### `State.modProctor` -/

@[simp] theorem State.modProctor_clock (s : State) (p : Nat) (f : Proctor → Proctor) : (s.modProctor p f).clock = s.clock := rfl
@[simp] theorem State.modProctor_agenda (s : State) (p : Nat) (f : Proctor → Proctor) : (s.modProctor p f).agenda = s.agenda := rfl
@[simp] theorem State.modProctor_cur (s : State) (p : Nat) (f : Proctor → Proctor) : (s.modProctor p f).cur = s.cur := rfl
@[simp] theorem State.modProctor_curPr (s : State) (p : Nat) (f : Proctor → Proctor) : (s.modProctor p f).curPr = s.curPr := rfl
@[simp] theorem State.modProctor_nextOp (s : State) (p : Nat) (f : Proctor → Proctor) : (s.modProctor p f).nextOp = s.nextOp := rfl
@[simp] theorem State.modProctor_freeCtr (s : State) (p : Nat) (f : Proctor → Proctor) : (s.modProctor p f).freeCtr = s.freeCtr := rfl
@[simp] theorem State.modProctor_topv (s : State) (p : Nat) (f : Proctor → Proctor) : (s.modProctor p f).topv = s.topv := rfl
@[simp] theorem State.modProctor_groups (s : State) (p : Nat) (f : Proctor → Proctor) : (s.modProctor p f).groups = s.groups := rfl
@[simp] theorem State.modProctor_cores (s : State) (p : Nat) (f : Proctor → Proctor) : (s.modProctor p f).cores = s.cores := rfl
@[simp] theorem State.modProctor_mem (s : State) (p : Nat) (f : Proctor → Proctor) : (s.modProctor p f).mem = s.mem := rfl
@[simp] theorem State.modProctor_hlines (s : State) (p : Nat) (f : Proctor → Proctor) : (s.modProctor p f).hlines = s.hlines := rfl
@[simp] theorem State.modProctor_hwaits (s : State) (p : Nat) (f : Proctor → Proctor) : (s.modProctor p f).hwaits = s.hwaits := rfl
@[simp] theorem State.modProctor_postings (s : State) (p : Nat) (f : Proctor → Proctor) : (s.modProctor p f).postings = s.postings := rfl
@[simp] theorem State.modProctor_ops (s : State) (p : Nat) (f : Proctor → Proctor) : (s.modProctor p f).ops = s.ops := rfl
@[simp] theorem State.modProctor_chips (s : State) (p : Nat) (f : Proctor → Proctor) : (s.modProctor p f).chips = s.chips := rfl
@[simp] theorem State.modProctor_slices (s : State) (p : Nat) (f : Proctor → Proctor) : (s.modProctor p f).slices = s.slices := rfl
@[simp] theorem State.modProctor_tt (s : State) (p : Nat) (f : Proctor → Proctor) : (s.modProctor p f).tt = s.tt := rfl
@[simp] theorem State.modProctor_bias (s : State) (p : Nat) (f : Proctor → Proctor) : (s.modProctor p f).bias = s.bias := rfl
@[simp] theorem State.modProctor_teams (s : State) (p : Nat) (f : Proctor → Proctor) : (s.modProctor p f).teams = s.teams := rfl
@[simp] theorem State.modProctor_sliceSets (s : State) (p : Nat) (f : Proctor → Proctor) : (s.modProctor p f).sliceSets = s.sliceSets := rfl
@[simp] theorem State.modProctor_pairs (s : State) (p : Nat) (f : Proctor → Proctor) : (s.modProctor p f).pairs = s.pairs := rfl
@[simp] theorem State.modProctor_events (s : State) (p : Nat) (f : Proctor → Proctor) : (s.modProctor p f).events = s.events := rfl
@[simp] theorem State.modProctor_past (s : State) (p : Nat) (f : Proctor → Proctor) : (s.modProctor p f).past = s.past := rfl
@[simp] theorem State.modProctor_launches (s : State) (p : Nat) (f : Proctor → Proctor) : (s.modProctor p f).launches = s.launches := rfl
@[simp] theorem State.modProctor_fes (s : State) (p : Nat) (f : Proctor → Proctor) : (s.modProctor p f).fes = s.fes := rfl
@[simp] theorem State.modProctor_mjobs (s : State) (p : Nat) (f : Proctor → Proctor) : (s.modProctor p f).mjobs = s.mjobs := rfl
@[simp] theorem State.modProctor_churns (s : State) (p : Nat) (f : Proctor → Proctor) : (s.modProctor p f).churns = s.churns := rfl
@[simp] theorem State.modProctor_notes (s : State) (p : Nat) (f : Proctor → Proctor) : (s.modProctor p f).notes = s.notes := rfl
@[simp] theorem State.modProctor_works (s : State) (p : Nat) (f : Proctor → Proctor) : (s.modProctor p f).works = s.works := rfl
@[simp] theorem State.modProctor_colls (s : State) (p : Nat) (f : Proctor → Proctor) : (s.modProctor p f).colls = s.colls := rfl
@[simp] theorem State.modProctor_gens (s : State) (p : Nat) (f : Proctor → Proctor) : (s.modProctor p f).gens = s.gens := rfl
@[simp] theorem State.modProctor_cgens (s : State) (p : Nat) (f : Proctor → Proctor) : (s.modProctor p f).cgens = s.cgens := rfl
@[simp] theorem State.modProctor_etlbs (s : State) (p : Nat) (f : Proctor → Proctor) : (s.modProctor p f).etlbs = s.etlbs := rfl
@[simp] theorem State.modProctor_vfs (s : State) (p : Nat) (f : Proctor → Proctor) : (s.modProctor p f).vfs = s.vfs := rfl
@[simp] theorem State.modProctor_hp (s : State) (p : Nat) (f : Proctor → Proctor) : (s.modProctor p f).hp = s.hp := rfl
@[simp] theorem State.modProctor_ed (s : State) (p : Nat) (f : Proctor → Proctor) : (s.modProctor p f).ed = s.ed := rfl
@[simp] theorem State.modProctor_mg (s : State) (p : Nat) (f : Proctor → Proctor) : (s.modProctor p f).mg = s.mg := rfl
@[simp] theorem State.modProctor_outs (s : State) (p : Nat) (f : Proctor → Proctor) : (s.modProctor p f).outs = s.outs := rfl

/-! ### `State.modChip` -/

@[simp] theorem State.modChip_clock (s : State) (c : Nat) (f : Chip → Chip) : (s.modChip c f).clock = s.clock := rfl
@[simp] theorem State.modChip_agenda (s : State) (c : Nat) (f : Chip → Chip) : (s.modChip c f).agenda = s.agenda := rfl
@[simp] theorem State.modChip_cur (s : State) (c : Nat) (f : Chip → Chip) : (s.modChip c f).cur = s.cur := rfl
@[simp] theorem State.modChip_curPr (s : State) (c : Nat) (f : Chip → Chip) : (s.modChip c f).curPr = s.curPr := rfl
@[simp] theorem State.modChip_nextOp (s : State) (c : Nat) (f : Chip → Chip) : (s.modChip c f).nextOp = s.nextOp := rfl
@[simp] theorem State.modChip_freeCtr (s : State) (c : Nat) (f : Chip → Chip) : (s.modChip c f).freeCtr = s.freeCtr := rfl
@[simp] theorem State.modChip_topv (s : State) (c : Nat) (f : Chip → Chip) : (s.modChip c f).topv = s.topv := rfl
@[simp] theorem State.modChip_groups (s : State) (c : Nat) (f : Chip → Chip) : (s.modChip c f).groups = s.groups := rfl
@[simp] theorem State.modChip_cores (s : State) (c : Nat) (f : Chip → Chip) : (s.modChip c f).cores = s.cores := rfl
@[simp] theorem State.modChip_mem (s : State) (c : Nat) (f : Chip → Chip) : (s.modChip c f).mem = s.mem := rfl
@[simp] theorem State.modChip_hlines (s : State) (c : Nat) (f : Chip → Chip) : (s.modChip c f).hlines = s.hlines := rfl
@[simp] theorem State.modChip_hwaits (s : State) (c : Nat) (f : Chip → Chip) : (s.modChip c f).hwaits = s.hwaits := rfl
@[simp] theorem State.modChip_postings (s : State) (c : Nat) (f : Chip → Chip) : (s.modChip c f).postings = s.postings := rfl
@[simp] theorem State.modChip_ops (s : State) (c : Nat) (f : Chip → Chip) : (s.modChip c f).ops = s.ops := rfl
@[simp] theorem State.modChip_slices (s : State) (c : Nat) (f : Chip → Chip) : (s.modChip c f).slices = s.slices := rfl
@[simp] theorem State.modChip_tt (s : State) (c : Nat) (f : Chip → Chip) : (s.modChip c f).tt = s.tt := rfl
@[simp] theorem State.modChip_bias (s : State) (c : Nat) (f : Chip → Chip) : (s.modChip c f).bias = s.bias := rfl
@[simp] theorem State.modChip_teams (s : State) (c : Nat) (f : Chip → Chip) : (s.modChip c f).teams = s.teams := rfl
@[simp] theorem State.modChip_sliceSets (s : State) (c : Nat) (f : Chip → Chip) : (s.modChip c f).sliceSets = s.sliceSets := rfl
@[simp] theorem State.modChip_pairs (s : State) (c : Nat) (f : Chip → Chip) : (s.modChip c f).pairs = s.pairs := rfl
@[simp] theorem State.modChip_events (s : State) (c : Nat) (f : Chip → Chip) : (s.modChip c f).events = s.events := rfl
@[simp] theorem State.modChip_past (s : State) (c : Nat) (f : Chip → Chip) : (s.modChip c f).past = s.past := rfl
@[simp] theorem State.modChip_launches (s : State) (c : Nat) (f : Chip → Chip) : (s.modChip c f).launches = s.launches := rfl
@[simp] theorem State.modChip_proctors (s : State) (c : Nat) (f : Chip → Chip) : (s.modChip c f).proctors = s.proctors := rfl
@[simp] theorem State.modChip_fes (s : State) (c : Nat) (f : Chip → Chip) : (s.modChip c f).fes = s.fes := rfl
@[simp] theorem State.modChip_mjobs (s : State) (c : Nat) (f : Chip → Chip) : (s.modChip c f).mjobs = s.mjobs := rfl
@[simp] theorem State.modChip_churns (s : State) (c : Nat) (f : Chip → Chip) : (s.modChip c f).churns = s.churns := rfl
@[simp] theorem State.modChip_notes (s : State) (c : Nat) (f : Chip → Chip) : (s.modChip c f).notes = s.notes := rfl
@[simp] theorem State.modChip_works (s : State) (c : Nat) (f : Chip → Chip) : (s.modChip c f).works = s.works := rfl
@[simp] theorem State.modChip_colls (s : State) (c : Nat) (f : Chip → Chip) : (s.modChip c f).colls = s.colls := rfl
@[simp] theorem State.modChip_gens (s : State) (c : Nat) (f : Chip → Chip) : (s.modChip c f).gens = s.gens := rfl
@[simp] theorem State.modChip_cgens (s : State) (c : Nat) (f : Chip → Chip) : (s.modChip c f).cgens = s.cgens := rfl
@[simp] theorem State.modChip_etlbs (s : State) (c : Nat) (f : Chip → Chip) : (s.modChip c f).etlbs = s.etlbs := rfl
@[simp] theorem State.modChip_vfs (s : State) (c : Nat) (f : Chip → Chip) : (s.modChip c f).vfs = s.vfs := rfl
@[simp] theorem State.modChip_hp (s : State) (c : Nat) (f : Chip → Chip) : (s.modChip c f).hp = s.hp := rfl
@[simp] theorem State.modChip_ed (s : State) (c : Nat) (f : Chip → Chip) : (s.modChip c f).ed = s.ed := rfl
@[simp] theorem State.modChip_mg (s : State) (c : Nat) (f : Chip → Chip) : (s.modChip c f).mg = s.mg := rfl
@[simp] theorem State.modChip_outs (s : State) (c : Nat) (f : Chip → Chip) : (s.modChip c f).outs = s.outs := rfl

/-! ### `State.modPair` -/

@[simp] theorem State.modPair_clock (s : State) (i j : Nat) (f : Pair → Pair) : (s.modPair i j f).clock = s.clock := rfl
@[simp] theorem State.modPair_agenda (s : State) (i j : Nat) (f : Pair → Pair) : (s.modPair i j f).agenda = s.agenda := rfl
@[simp] theorem State.modPair_cur (s : State) (i j : Nat) (f : Pair → Pair) : (s.modPair i j f).cur = s.cur := rfl
@[simp] theorem State.modPair_curPr (s : State) (i j : Nat) (f : Pair → Pair) : (s.modPair i j f).curPr = s.curPr := rfl
@[simp] theorem State.modPair_nextOp (s : State) (i j : Nat) (f : Pair → Pair) : (s.modPair i j f).nextOp = s.nextOp := rfl
@[simp] theorem State.modPair_freeCtr (s : State) (i j : Nat) (f : Pair → Pair) : (s.modPair i j f).freeCtr = s.freeCtr := rfl
@[simp] theorem State.modPair_topv (s : State) (i j : Nat) (f : Pair → Pair) : (s.modPair i j f).topv = s.topv := rfl
@[simp] theorem State.modPair_groups (s : State) (i j : Nat) (f : Pair → Pair) : (s.modPair i j f).groups = s.groups := rfl
@[simp] theorem State.modPair_cores (s : State) (i j : Nat) (f : Pair → Pair) : (s.modPair i j f).cores = s.cores := rfl
@[simp] theorem State.modPair_mem (s : State) (i j : Nat) (f : Pair → Pair) : (s.modPair i j f).mem = s.mem := rfl
@[simp] theorem State.modPair_hlines (s : State) (i j : Nat) (f : Pair → Pair) : (s.modPair i j f).hlines = s.hlines := rfl
@[simp] theorem State.modPair_hwaits (s : State) (i j : Nat) (f : Pair → Pair) : (s.modPair i j f).hwaits = s.hwaits := rfl
@[simp] theorem State.modPair_postings (s : State) (i j : Nat) (f : Pair → Pair) : (s.modPair i j f).postings = s.postings := rfl
@[simp] theorem State.modPair_ops (s : State) (i j : Nat) (f : Pair → Pair) : (s.modPair i j f).ops = s.ops := rfl
@[simp] theorem State.modPair_chips (s : State) (i j : Nat) (f : Pair → Pair) : (s.modPair i j f).chips = s.chips := rfl
@[simp] theorem State.modPair_slices (s : State) (i j : Nat) (f : Pair → Pair) : (s.modPair i j f).slices = s.slices := rfl
@[simp] theorem State.modPair_tt (s : State) (i j : Nat) (f : Pair → Pair) : (s.modPair i j f).tt = s.tt := rfl
@[simp] theorem State.modPair_bias (s : State) (i j : Nat) (f : Pair → Pair) : (s.modPair i j f).bias = s.bias := rfl
@[simp] theorem State.modPair_teams (s : State) (i j : Nat) (f : Pair → Pair) : (s.modPair i j f).teams = s.teams := rfl
@[simp] theorem State.modPair_sliceSets (s : State) (i j : Nat) (f : Pair → Pair) : (s.modPair i j f).sliceSets = s.sliceSets := rfl
@[simp] theorem State.modPair_events (s : State) (i j : Nat) (f : Pair → Pair) : (s.modPair i j f).events = s.events := rfl
@[simp] theorem State.modPair_past (s : State) (i j : Nat) (f : Pair → Pair) : (s.modPair i j f).past = s.past := rfl
@[simp] theorem State.modPair_launches (s : State) (i j : Nat) (f : Pair → Pair) : (s.modPair i j f).launches = s.launches := rfl
@[simp] theorem State.modPair_proctors (s : State) (i j : Nat) (f : Pair → Pair) : (s.modPair i j f).proctors = s.proctors := rfl
@[simp] theorem State.modPair_fes (s : State) (i j : Nat) (f : Pair → Pair) : (s.modPair i j f).fes = s.fes := rfl
@[simp] theorem State.modPair_mjobs (s : State) (i j : Nat) (f : Pair → Pair) : (s.modPair i j f).mjobs = s.mjobs := rfl
@[simp] theorem State.modPair_churns (s : State) (i j : Nat) (f : Pair → Pair) : (s.modPair i j f).churns = s.churns := rfl
@[simp] theorem State.modPair_notes (s : State) (i j : Nat) (f : Pair → Pair) : (s.modPair i j f).notes = s.notes := rfl
@[simp] theorem State.modPair_works (s : State) (i j : Nat) (f : Pair → Pair) : (s.modPair i j f).works = s.works := rfl
@[simp] theorem State.modPair_colls (s : State) (i j : Nat) (f : Pair → Pair) : (s.modPair i j f).colls = s.colls := rfl
@[simp] theorem State.modPair_gens (s : State) (i j : Nat) (f : Pair → Pair) : (s.modPair i j f).gens = s.gens := rfl
@[simp] theorem State.modPair_cgens (s : State) (i j : Nat) (f : Pair → Pair) : (s.modPair i j f).cgens = s.cgens := rfl
@[simp] theorem State.modPair_etlbs (s : State) (i j : Nat) (f : Pair → Pair) : (s.modPair i j f).etlbs = s.etlbs := rfl
@[simp] theorem State.modPair_vfs (s : State) (i j : Nat) (f : Pair → Pair) : (s.modPair i j f).vfs = s.vfs := rfl
@[simp] theorem State.modPair_hp (s : State) (i j : Nat) (f : Pair → Pair) : (s.modPair i j f).hp = s.hp := rfl
@[simp] theorem State.modPair_ed (s : State) (i j : Nat) (f : Pair → Pair) : (s.modPair i j f).ed = s.ed := rfl
@[simp] theorem State.modPair_mg (s : State) (i j : Nat) (f : Pair → Pair) : (s.modPair i j f).mg = s.mg := rfl
@[simp] theorem State.modPair_outs (s : State) (i j : Nat) (f : Pair → Pair) : (s.modPair i j f).outs = s.outs := rfl

/-! ### `State.modHline` -/

@[simp] theorem State.modHline_clock (s : State) (l : Nat) (f : HomeLine → HomeLine) : (s.modHline l f).clock = s.clock := rfl
@[simp] theorem State.modHline_agenda (s : State) (l : Nat) (f : HomeLine → HomeLine) : (s.modHline l f).agenda = s.agenda := rfl
@[simp] theorem State.modHline_cur (s : State) (l : Nat) (f : HomeLine → HomeLine) : (s.modHline l f).cur = s.cur := rfl
@[simp] theorem State.modHline_curPr (s : State) (l : Nat) (f : HomeLine → HomeLine) : (s.modHline l f).curPr = s.curPr := rfl
@[simp] theorem State.modHline_nextOp (s : State) (l : Nat) (f : HomeLine → HomeLine) : (s.modHline l f).nextOp = s.nextOp := rfl
@[simp] theorem State.modHline_freeCtr (s : State) (l : Nat) (f : HomeLine → HomeLine) : (s.modHline l f).freeCtr = s.freeCtr := rfl
@[simp] theorem State.modHline_topv (s : State) (l : Nat) (f : HomeLine → HomeLine) : (s.modHline l f).topv = s.topv := rfl
@[simp] theorem State.modHline_groups (s : State) (l : Nat) (f : HomeLine → HomeLine) : (s.modHline l f).groups = s.groups := rfl
@[simp] theorem State.modHline_cores (s : State) (l : Nat) (f : HomeLine → HomeLine) : (s.modHline l f).cores = s.cores := rfl
@[simp] theorem State.modHline_mem (s : State) (l : Nat) (f : HomeLine → HomeLine) : (s.modHline l f).mem = s.mem := rfl
@[simp] theorem State.modHline_hwaits (s : State) (l : Nat) (f : HomeLine → HomeLine) : (s.modHline l f).hwaits = s.hwaits := rfl
@[simp] theorem State.modHline_postings (s : State) (l : Nat) (f : HomeLine → HomeLine) : (s.modHline l f).postings = s.postings := rfl
@[simp] theorem State.modHline_ops (s : State) (l : Nat) (f : HomeLine → HomeLine) : (s.modHline l f).ops = s.ops := rfl
@[simp] theorem State.modHline_chips (s : State) (l : Nat) (f : HomeLine → HomeLine) : (s.modHline l f).chips = s.chips := rfl
@[simp] theorem State.modHline_slices (s : State) (l : Nat) (f : HomeLine → HomeLine) : (s.modHline l f).slices = s.slices := rfl
@[simp] theorem State.modHline_tt (s : State) (l : Nat) (f : HomeLine → HomeLine) : (s.modHline l f).tt = s.tt := rfl
@[simp] theorem State.modHline_bias (s : State) (l : Nat) (f : HomeLine → HomeLine) : (s.modHline l f).bias = s.bias := rfl
@[simp] theorem State.modHline_teams (s : State) (l : Nat) (f : HomeLine → HomeLine) : (s.modHline l f).teams = s.teams := rfl
@[simp] theorem State.modHline_sliceSets (s : State) (l : Nat) (f : HomeLine → HomeLine) : (s.modHline l f).sliceSets = s.sliceSets := rfl
@[simp] theorem State.modHline_pairs (s : State) (l : Nat) (f : HomeLine → HomeLine) : (s.modHline l f).pairs = s.pairs := rfl
@[simp] theorem State.modHline_events (s : State) (l : Nat) (f : HomeLine → HomeLine) : (s.modHline l f).events = s.events := rfl
@[simp] theorem State.modHline_past (s : State) (l : Nat) (f : HomeLine → HomeLine) : (s.modHline l f).past = s.past := rfl
@[simp] theorem State.modHline_launches (s : State) (l : Nat) (f : HomeLine → HomeLine) : (s.modHline l f).launches = s.launches := rfl
@[simp] theorem State.modHline_proctors (s : State) (l : Nat) (f : HomeLine → HomeLine) : (s.modHline l f).proctors = s.proctors := rfl
@[simp] theorem State.modHline_fes (s : State) (l : Nat) (f : HomeLine → HomeLine) : (s.modHline l f).fes = s.fes := rfl
@[simp] theorem State.modHline_mjobs (s : State) (l : Nat) (f : HomeLine → HomeLine) : (s.modHline l f).mjobs = s.mjobs := rfl
@[simp] theorem State.modHline_churns (s : State) (l : Nat) (f : HomeLine → HomeLine) : (s.modHline l f).churns = s.churns := rfl
@[simp] theorem State.modHline_notes (s : State) (l : Nat) (f : HomeLine → HomeLine) : (s.modHline l f).notes = s.notes := rfl
@[simp] theorem State.modHline_works (s : State) (l : Nat) (f : HomeLine → HomeLine) : (s.modHline l f).works = s.works := rfl
@[simp] theorem State.modHline_colls (s : State) (l : Nat) (f : HomeLine → HomeLine) : (s.modHline l f).colls = s.colls := rfl
@[simp] theorem State.modHline_gens (s : State) (l : Nat) (f : HomeLine → HomeLine) : (s.modHline l f).gens = s.gens := rfl
@[simp] theorem State.modHline_cgens (s : State) (l : Nat) (f : HomeLine → HomeLine) : (s.modHline l f).cgens = s.cgens := rfl
@[simp] theorem State.modHline_etlbs (s : State) (l : Nat) (f : HomeLine → HomeLine) : (s.modHline l f).etlbs = s.etlbs := rfl
@[simp] theorem State.modHline_vfs (s : State) (l : Nat) (f : HomeLine → HomeLine) : (s.modHline l f).vfs = s.vfs := rfl
@[simp] theorem State.modHline_hp (s : State) (l : Nat) (f : HomeLine → HomeLine) : (s.modHline l f).hp = s.hp := rfl
@[simp] theorem State.modHline_ed (s : State) (l : Nat) (f : HomeLine → HomeLine) : (s.modHline l f).ed = s.ed := rfl
@[simp] theorem State.modHline_mg (s : State) (l : Nat) (f : HomeLine → HomeLine) : (s.modHline l f).mg = s.mg := rfl
@[simp] theorem State.modHline_outs (s : State) (l : Nat) (f : HomeLine → HomeLine) : (s.modHline l f).outs = s.outs := rfl

/-! ### `State.modOp` -/

@[simp] theorem State.modOp_clock (s : State) (id : Nat) (f : Op → Op) : (s.modOp id f).clock = s.clock := rfl
@[simp] theorem State.modOp_agenda (s : State) (id : Nat) (f : Op → Op) : (s.modOp id f).agenda = s.agenda := rfl
@[simp] theorem State.modOp_cur (s : State) (id : Nat) (f : Op → Op) : (s.modOp id f).cur = s.cur := rfl
@[simp] theorem State.modOp_curPr (s : State) (id : Nat) (f : Op → Op) : (s.modOp id f).curPr = s.curPr := rfl
@[simp] theorem State.modOp_nextOp (s : State) (id : Nat) (f : Op → Op) : (s.modOp id f).nextOp = s.nextOp := rfl
@[simp] theorem State.modOp_freeCtr (s : State) (id : Nat) (f : Op → Op) : (s.modOp id f).freeCtr = s.freeCtr := rfl
@[simp] theorem State.modOp_topv (s : State) (id : Nat) (f : Op → Op) : (s.modOp id f).topv = s.topv := rfl
@[simp] theorem State.modOp_groups (s : State) (id : Nat) (f : Op → Op) : (s.modOp id f).groups = s.groups := rfl
@[simp] theorem State.modOp_cores (s : State) (id : Nat) (f : Op → Op) : (s.modOp id f).cores = s.cores := rfl
@[simp] theorem State.modOp_mem (s : State) (id : Nat) (f : Op → Op) : (s.modOp id f).mem = s.mem := rfl
@[simp] theorem State.modOp_hlines (s : State) (id : Nat) (f : Op → Op) : (s.modOp id f).hlines = s.hlines := rfl
@[simp] theorem State.modOp_hwaits (s : State) (id : Nat) (f : Op → Op) : (s.modOp id f).hwaits = s.hwaits := rfl
@[simp] theorem State.modOp_postings (s : State) (id : Nat) (f : Op → Op) : (s.modOp id f).postings = s.postings := rfl
@[simp] theorem State.modOp_chips (s : State) (id : Nat) (f : Op → Op) : (s.modOp id f).chips = s.chips := rfl
@[simp] theorem State.modOp_slices (s : State) (id : Nat) (f : Op → Op) : (s.modOp id f).slices = s.slices := rfl
@[simp] theorem State.modOp_tt (s : State) (id : Nat) (f : Op → Op) : (s.modOp id f).tt = s.tt := rfl
@[simp] theorem State.modOp_bias (s : State) (id : Nat) (f : Op → Op) : (s.modOp id f).bias = s.bias := rfl
@[simp] theorem State.modOp_teams (s : State) (id : Nat) (f : Op → Op) : (s.modOp id f).teams = s.teams := rfl
@[simp] theorem State.modOp_sliceSets (s : State) (id : Nat) (f : Op → Op) : (s.modOp id f).sliceSets = s.sliceSets := rfl
@[simp] theorem State.modOp_pairs (s : State) (id : Nat) (f : Op → Op) : (s.modOp id f).pairs = s.pairs := rfl
@[simp] theorem State.modOp_events (s : State) (id : Nat) (f : Op → Op) : (s.modOp id f).events = s.events := rfl
@[simp] theorem State.modOp_past (s : State) (id : Nat) (f : Op → Op) : (s.modOp id f).past = s.past := rfl
@[simp] theorem State.modOp_launches (s : State) (id : Nat) (f : Op → Op) : (s.modOp id f).launches = s.launches := rfl
@[simp] theorem State.modOp_proctors (s : State) (id : Nat) (f : Op → Op) : (s.modOp id f).proctors = s.proctors := rfl
@[simp] theorem State.modOp_fes (s : State) (id : Nat) (f : Op → Op) : (s.modOp id f).fes = s.fes := rfl
@[simp] theorem State.modOp_mjobs (s : State) (id : Nat) (f : Op → Op) : (s.modOp id f).mjobs = s.mjobs := rfl
@[simp] theorem State.modOp_churns (s : State) (id : Nat) (f : Op → Op) : (s.modOp id f).churns = s.churns := rfl
@[simp] theorem State.modOp_notes (s : State) (id : Nat) (f : Op → Op) : (s.modOp id f).notes = s.notes := rfl
@[simp] theorem State.modOp_works (s : State) (id : Nat) (f : Op → Op) : (s.modOp id f).works = s.works := rfl
@[simp] theorem State.modOp_colls (s : State) (id : Nat) (f : Op → Op) : (s.modOp id f).colls = s.colls := rfl
@[simp] theorem State.modOp_gens (s : State) (id : Nat) (f : Op → Op) : (s.modOp id f).gens = s.gens := rfl
@[simp] theorem State.modOp_cgens (s : State) (id : Nat) (f : Op → Op) : (s.modOp id f).cgens = s.cgens := rfl
@[simp] theorem State.modOp_etlbs (s : State) (id : Nat) (f : Op → Op) : (s.modOp id f).etlbs = s.etlbs := rfl
@[simp] theorem State.modOp_vfs (s : State) (id : Nat) (f : Op → Op) : (s.modOp id f).vfs = s.vfs := rfl
@[simp] theorem State.modOp_hp (s : State) (id : Nat) (f : Op → Op) : (s.modOp id f).hp = s.hp := rfl
@[simp] theorem State.modOp_ed (s : State) (id : Nat) (f : Op → Op) : (s.modOp id f).ed = s.ed := rfl
@[simp] theorem State.modOp_mg (s : State) (id : Nat) (f : Op → Op) : (s.modOp id f).mg = s.mg := rfl
@[simp] theorem State.modOp_outs (s : State) (id : Nat) (f : Op → Op) : (s.modOp id f).outs = s.outs := rfl

/-! ### `State.modTeam` -/

@[simp] theorem State.modTeam_clock (s : State) (k : Nat) (f : Team → Team) : (s.modTeam k f).clock = s.clock := rfl
@[simp] theorem State.modTeam_agenda (s : State) (k : Nat) (f : Team → Team) : (s.modTeam k f).agenda = s.agenda := rfl
@[simp] theorem State.modTeam_cur (s : State) (k : Nat) (f : Team → Team) : (s.modTeam k f).cur = s.cur := rfl
@[simp] theorem State.modTeam_curPr (s : State) (k : Nat) (f : Team → Team) : (s.modTeam k f).curPr = s.curPr := rfl
@[simp] theorem State.modTeam_nextOp (s : State) (k : Nat) (f : Team → Team) : (s.modTeam k f).nextOp = s.nextOp := rfl
@[simp] theorem State.modTeam_freeCtr (s : State) (k : Nat) (f : Team → Team) : (s.modTeam k f).freeCtr = s.freeCtr := rfl
@[simp] theorem State.modTeam_topv (s : State) (k : Nat) (f : Team → Team) : (s.modTeam k f).topv = s.topv := rfl
@[simp] theorem State.modTeam_groups (s : State) (k : Nat) (f : Team → Team) : (s.modTeam k f).groups = s.groups := rfl
@[simp] theorem State.modTeam_cores (s : State) (k : Nat) (f : Team → Team) : (s.modTeam k f).cores = s.cores := rfl
@[simp] theorem State.modTeam_mem (s : State) (k : Nat) (f : Team → Team) : (s.modTeam k f).mem = s.mem := rfl
@[simp] theorem State.modTeam_hlines (s : State) (k : Nat) (f : Team → Team) : (s.modTeam k f).hlines = s.hlines := rfl
@[simp] theorem State.modTeam_hwaits (s : State) (k : Nat) (f : Team → Team) : (s.modTeam k f).hwaits = s.hwaits := rfl
@[simp] theorem State.modTeam_postings (s : State) (k : Nat) (f : Team → Team) : (s.modTeam k f).postings = s.postings := rfl
@[simp] theorem State.modTeam_ops (s : State) (k : Nat) (f : Team → Team) : (s.modTeam k f).ops = s.ops := rfl
@[simp] theorem State.modTeam_chips (s : State) (k : Nat) (f : Team → Team) : (s.modTeam k f).chips = s.chips := rfl
@[simp] theorem State.modTeam_slices (s : State) (k : Nat) (f : Team → Team) : (s.modTeam k f).slices = s.slices := rfl
@[simp] theorem State.modTeam_tt (s : State) (k : Nat) (f : Team → Team) : (s.modTeam k f).tt = s.tt := rfl
@[simp] theorem State.modTeam_bias (s : State) (k : Nat) (f : Team → Team) : (s.modTeam k f).bias = s.bias := rfl
@[simp] theorem State.modTeam_sliceSets (s : State) (k : Nat) (f : Team → Team) : (s.modTeam k f).sliceSets = s.sliceSets := rfl
@[simp] theorem State.modTeam_pairs (s : State) (k : Nat) (f : Team → Team) : (s.modTeam k f).pairs = s.pairs := rfl
@[simp] theorem State.modTeam_events (s : State) (k : Nat) (f : Team → Team) : (s.modTeam k f).events = s.events := rfl
@[simp] theorem State.modTeam_past (s : State) (k : Nat) (f : Team → Team) : (s.modTeam k f).past = s.past := rfl
@[simp] theorem State.modTeam_launches (s : State) (k : Nat) (f : Team → Team) : (s.modTeam k f).launches = s.launches := rfl
@[simp] theorem State.modTeam_proctors (s : State) (k : Nat) (f : Team → Team) : (s.modTeam k f).proctors = s.proctors := rfl
@[simp] theorem State.modTeam_fes (s : State) (k : Nat) (f : Team → Team) : (s.modTeam k f).fes = s.fes := rfl
@[simp] theorem State.modTeam_mjobs (s : State) (k : Nat) (f : Team → Team) : (s.modTeam k f).mjobs = s.mjobs := rfl
@[simp] theorem State.modTeam_churns (s : State) (k : Nat) (f : Team → Team) : (s.modTeam k f).churns = s.churns := rfl
@[simp] theorem State.modTeam_notes (s : State) (k : Nat) (f : Team → Team) : (s.modTeam k f).notes = s.notes := rfl
@[simp] theorem State.modTeam_works (s : State) (k : Nat) (f : Team → Team) : (s.modTeam k f).works = s.works := rfl
@[simp] theorem State.modTeam_colls (s : State) (k : Nat) (f : Team → Team) : (s.modTeam k f).colls = s.colls := rfl
@[simp] theorem State.modTeam_gens (s : State) (k : Nat) (f : Team → Team) : (s.modTeam k f).gens = s.gens := rfl
@[simp] theorem State.modTeam_cgens (s : State) (k : Nat) (f : Team → Team) : (s.modTeam k f).cgens = s.cgens := rfl
@[simp] theorem State.modTeam_etlbs (s : State) (k : Nat) (f : Team → Team) : (s.modTeam k f).etlbs = s.etlbs := rfl
@[simp] theorem State.modTeam_vfs (s : State) (k : Nat) (f : Team → Team) : (s.modTeam k f).vfs = s.vfs := rfl
@[simp] theorem State.modTeam_hp (s : State) (k : Nat) (f : Team → Team) : (s.modTeam k f).hp = s.hp := rfl
@[simp] theorem State.modTeam_ed (s : State) (k : Nat) (f : Team → Team) : (s.modTeam k f).ed = s.ed := rfl
@[simp] theorem State.modTeam_mg (s : State) (k : Nat) (f : Team → Team) : (s.modTeam k f).mg = s.mg := rfl
@[simp] theorem State.modTeam_outs (s : State) (k : Nat) (f : Team → Team) : (s.modTeam k f).outs = s.outs := rfl

/-! ### `State.modSlice` -/

@[simp] theorem State.modSlice_clock (s : State) (k : Nat) (f : Slice → Slice) : (s.modSlice k f).clock = s.clock := rfl
@[simp] theorem State.modSlice_agenda (s : State) (k : Nat) (f : Slice → Slice) : (s.modSlice k f).agenda = s.agenda := rfl
@[simp] theorem State.modSlice_cur (s : State) (k : Nat) (f : Slice → Slice) : (s.modSlice k f).cur = s.cur := rfl
@[simp] theorem State.modSlice_curPr (s : State) (k : Nat) (f : Slice → Slice) : (s.modSlice k f).curPr = s.curPr := rfl
@[simp] theorem State.modSlice_nextOp (s : State) (k : Nat) (f : Slice → Slice) : (s.modSlice k f).nextOp = s.nextOp := rfl
@[simp] theorem State.modSlice_freeCtr (s : State) (k : Nat) (f : Slice → Slice) : (s.modSlice k f).freeCtr = s.freeCtr := rfl
@[simp] theorem State.modSlice_topv (s : State) (k : Nat) (f : Slice → Slice) : (s.modSlice k f).topv = s.topv := rfl
@[simp] theorem State.modSlice_groups (s : State) (k : Nat) (f : Slice → Slice) : (s.modSlice k f).groups = s.groups := rfl
@[simp] theorem State.modSlice_cores (s : State) (k : Nat) (f : Slice → Slice) : (s.modSlice k f).cores = s.cores := rfl
@[simp] theorem State.modSlice_mem (s : State) (k : Nat) (f : Slice → Slice) : (s.modSlice k f).mem = s.mem := rfl
@[simp] theorem State.modSlice_hlines (s : State) (k : Nat) (f : Slice → Slice) : (s.modSlice k f).hlines = s.hlines := rfl
@[simp] theorem State.modSlice_hwaits (s : State) (k : Nat) (f : Slice → Slice) : (s.modSlice k f).hwaits = s.hwaits := rfl
@[simp] theorem State.modSlice_postings (s : State) (k : Nat) (f : Slice → Slice) : (s.modSlice k f).postings = s.postings := rfl
@[simp] theorem State.modSlice_ops (s : State) (k : Nat) (f : Slice → Slice) : (s.modSlice k f).ops = s.ops := rfl
@[simp] theorem State.modSlice_chips (s : State) (k : Nat) (f : Slice → Slice) : (s.modSlice k f).chips = s.chips := rfl
@[simp] theorem State.modSlice_tt (s : State) (k : Nat) (f : Slice → Slice) : (s.modSlice k f).tt = s.tt := rfl
@[simp] theorem State.modSlice_bias (s : State) (k : Nat) (f : Slice → Slice) : (s.modSlice k f).bias = s.bias := rfl
@[simp] theorem State.modSlice_teams (s : State) (k : Nat) (f : Slice → Slice) : (s.modSlice k f).teams = s.teams := rfl
@[simp] theorem State.modSlice_sliceSets (s : State) (k : Nat) (f : Slice → Slice) : (s.modSlice k f).sliceSets = s.sliceSets := rfl
@[simp] theorem State.modSlice_pairs (s : State) (k : Nat) (f : Slice → Slice) : (s.modSlice k f).pairs = s.pairs := rfl
@[simp] theorem State.modSlice_events (s : State) (k : Nat) (f : Slice → Slice) : (s.modSlice k f).events = s.events := rfl
@[simp] theorem State.modSlice_past (s : State) (k : Nat) (f : Slice → Slice) : (s.modSlice k f).past = s.past := rfl
@[simp] theorem State.modSlice_launches (s : State) (k : Nat) (f : Slice → Slice) : (s.modSlice k f).launches = s.launches := rfl
@[simp] theorem State.modSlice_proctors (s : State) (k : Nat) (f : Slice → Slice) : (s.modSlice k f).proctors = s.proctors := rfl
@[simp] theorem State.modSlice_fes (s : State) (k : Nat) (f : Slice → Slice) : (s.modSlice k f).fes = s.fes := rfl
@[simp] theorem State.modSlice_mjobs (s : State) (k : Nat) (f : Slice → Slice) : (s.modSlice k f).mjobs = s.mjobs := rfl
@[simp] theorem State.modSlice_churns (s : State) (k : Nat) (f : Slice → Slice) : (s.modSlice k f).churns = s.churns := rfl
@[simp] theorem State.modSlice_notes (s : State) (k : Nat) (f : Slice → Slice) : (s.modSlice k f).notes = s.notes := rfl
@[simp] theorem State.modSlice_works (s : State) (k : Nat) (f : Slice → Slice) : (s.modSlice k f).works = s.works := rfl
@[simp] theorem State.modSlice_colls (s : State) (k : Nat) (f : Slice → Slice) : (s.modSlice k f).colls = s.colls := rfl
@[simp] theorem State.modSlice_gens (s : State) (k : Nat) (f : Slice → Slice) : (s.modSlice k f).gens = s.gens := rfl
@[simp] theorem State.modSlice_cgens (s : State) (k : Nat) (f : Slice → Slice) : (s.modSlice k f).cgens = s.cgens := rfl
@[simp] theorem State.modSlice_etlbs (s : State) (k : Nat) (f : Slice → Slice) : (s.modSlice k f).etlbs = s.etlbs := rfl
@[simp] theorem State.modSlice_vfs (s : State) (k : Nat) (f : Slice → Slice) : (s.modSlice k f).vfs = s.vfs := rfl
@[simp] theorem State.modSlice_hp (s : State) (k : Nat) (f : Slice → Slice) : (s.modSlice k f).hp = s.hp := rfl
@[simp] theorem State.modSlice_ed (s : State) (k : Nat) (f : Slice → Slice) : (s.modSlice k f).ed = s.ed := rfl
@[simp] theorem State.modSlice_mg (s : State) (k : Nat) (f : Slice → Slice) : (s.modSlice k f).mg = s.mg := rfl
@[simp] theorem State.modSlice_outs (s : State) (k : Nat) (f : Slice → Slice) : (s.modSlice k f).outs = s.outs := rfl

/-! ### `State.modNote` -/

@[simp] theorem State.modNote_clock (s : State) (id : Nat) (f : Note → Note) : (s.modNote id f).clock = s.clock := rfl
@[simp] theorem State.modNote_agenda (s : State) (id : Nat) (f : Note → Note) : (s.modNote id f).agenda = s.agenda := rfl
@[simp] theorem State.modNote_cur (s : State) (id : Nat) (f : Note → Note) : (s.modNote id f).cur = s.cur := rfl
@[simp] theorem State.modNote_curPr (s : State) (id : Nat) (f : Note → Note) : (s.modNote id f).curPr = s.curPr := rfl
@[simp] theorem State.modNote_nextOp (s : State) (id : Nat) (f : Note → Note) : (s.modNote id f).nextOp = s.nextOp := rfl
@[simp] theorem State.modNote_freeCtr (s : State) (id : Nat) (f : Note → Note) : (s.modNote id f).freeCtr = s.freeCtr := rfl
@[simp] theorem State.modNote_topv (s : State) (id : Nat) (f : Note → Note) : (s.modNote id f).topv = s.topv := rfl
@[simp] theorem State.modNote_groups (s : State) (id : Nat) (f : Note → Note) : (s.modNote id f).groups = s.groups := rfl
@[simp] theorem State.modNote_cores (s : State) (id : Nat) (f : Note → Note) : (s.modNote id f).cores = s.cores := rfl
@[simp] theorem State.modNote_mem (s : State) (id : Nat) (f : Note → Note) : (s.modNote id f).mem = s.mem := rfl
@[simp] theorem State.modNote_hlines (s : State) (id : Nat) (f : Note → Note) : (s.modNote id f).hlines = s.hlines := rfl
@[simp] theorem State.modNote_hwaits (s : State) (id : Nat) (f : Note → Note) : (s.modNote id f).hwaits = s.hwaits := rfl
@[simp] theorem State.modNote_postings (s : State) (id : Nat) (f : Note → Note) : (s.modNote id f).postings = s.postings := rfl
@[simp] theorem State.modNote_ops (s : State) (id : Nat) (f : Note → Note) : (s.modNote id f).ops = s.ops := rfl
@[simp] theorem State.modNote_chips (s : State) (id : Nat) (f : Note → Note) : (s.modNote id f).chips = s.chips := rfl
@[simp] theorem State.modNote_slices (s : State) (id : Nat) (f : Note → Note) : (s.modNote id f).slices = s.slices := rfl
@[simp] theorem State.modNote_tt (s : State) (id : Nat) (f : Note → Note) : (s.modNote id f).tt = s.tt := rfl
@[simp] theorem State.modNote_bias (s : State) (id : Nat) (f : Note → Note) : (s.modNote id f).bias = s.bias := rfl
@[simp] theorem State.modNote_teams (s : State) (id : Nat) (f : Note → Note) : (s.modNote id f).teams = s.teams := rfl
@[simp] theorem State.modNote_sliceSets (s : State) (id : Nat) (f : Note → Note) : (s.modNote id f).sliceSets = s.sliceSets := rfl
@[simp] theorem State.modNote_pairs (s : State) (id : Nat) (f : Note → Note) : (s.modNote id f).pairs = s.pairs := rfl
@[simp] theorem State.modNote_events (s : State) (id : Nat) (f : Note → Note) : (s.modNote id f).events = s.events := rfl
@[simp] theorem State.modNote_past (s : State) (id : Nat) (f : Note → Note) : (s.modNote id f).past = s.past := rfl
@[simp] theorem State.modNote_launches (s : State) (id : Nat) (f : Note → Note) : (s.modNote id f).launches = s.launches := rfl
@[simp] theorem State.modNote_proctors (s : State) (id : Nat) (f : Note → Note) : (s.modNote id f).proctors = s.proctors := rfl
@[simp] theorem State.modNote_fes (s : State) (id : Nat) (f : Note → Note) : (s.modNote id f).fes = s.fes := rfl
@[simp] theorem State.modNote_mjobs (s : State) (id : Nat) (f : Note → Note) : (s.modNote id f).mjobs = s.mjobs := rfl
@[simp] theorem State.modNote_churns (s : State) (id : Nat) (f : Note → Note) : (s.modNote id f).churns = s.churns := rfl
@[simp] theorem State.modNote_works (s : State) (id : Nat) (f : Note → Note) : (s.modNote id f).works = s.works := rfl
@[simp] theorem State.modNote_colls (s : State) (id : Nat) (f : Note → Note) : (s.modNote id f).colls = s.colls := rfl
@[simp] theorem State.modNote_gens (s : State) (id : Nat) (f : Note → Note) : (s.modNote id f).gens = s.gens := rfl
@[simp] theorem State.modNote_cgens (s : State) (id : Nat) (f : Note → Note) : (s.modNote id f).cgens = s.cgens := rfl
@[simp] theorem State.modNote_etlbs (s : State) (id : Nat) (f : Note → Note) : (s.modNote id f).etlbs = s.etlbs := rfl
@[simp] theorem State.modNote_vfs (s : State) (id : Nat) (f : Note → Note) : (s.modNote id f).vfs = s.vfs := rfl
@[simp] theorem State.modNote_hp (s : State) (id : Nat) (f : Note → Note) : (s.modNote id f).hp = s.hp := rfl
@[simp] theorem State.modNote_ed (s : State) (id : Nat) (f : Note → Note) : (s.modNote id f).ed = s.ed := rfl
@[simp] theorem State.modNote_mg (s : State) (id : Nat) (f : Note → Note) : (s.modNote id f).mg = s.mg := rfl
@[simp] theorem State.modNote_outs (s : State) (id : Nat) (f : Note → Note) : (s.modNote id f).outs = s.outs := rfl

/-! ### `State.modVf` -/

@[simp] theorem State.modVf_clock (s : State) (n : Nat) (f : Vf → Vf) : (s.modVf n f).clock = s.clock := rfl
@[simp] theorem State.modVf_agenda (s : State) (n : Nat) (f : Vf → Vf) : (s.modVf n f).agenda = s.agenda := rfl
@[simp] theorem State.modVf_cur (s : State) (n : Nat) (f : Vf → Vf) : (s.modVf n f).cur = s.cur := rfl
@[simp] theorem State.modVf_curPr (s : State) (n : Nat) (f : Vf → Vf) : (s.modVf n f).curPr = s.curPr := rfl
@[simp] theorem State.modVf_nextOp (s : State) (n : Nat) (f : Vf → Vf) : (s.modVf n f).nextOp = s.nextOp := rfl
@[simp] theorem State.modVf_freeCtr (s : State) (n : Nat) (f : Vf → Vf) : (s.modVf n f).freeCtr = s.freeCtr := rfl
@[simp] theorem State.modVf_topv (s : State) (n : Nat) (f : Vf → Vf) : (s.modVf n f).topv = s.topv := rfl
@[simp] theorem State.modVf_groups (s : State) (n : Nat) (f : Vf → Vf) : (s.modVf n f).groups = s.groups := rfl
@[simp] theorem State.modVf_cores (s : State) (n : Nat) (f : Vf → Vf) : (s.modVf n f).cores = s.cores := rfl
@[simp] theorem State.modVf_mem (s : State) (n : Nat) (f : Vf → Vf) : (s.modVf n f).mem = s.mem := rfl
@[simp] theorem State.modVf_hlines (s : State) (n : Nat) (f : Vf → Vf) : (s.modVf n f).hlines = s.hlines := rfl
@[simp] theorem State.modVf_hwaits (s : State) (n : Nat) (f : Vf → Vf) : (s.modVf n f).hwaits = s.hwaits := rfl
@[simp] theorem State.modVf_postings (s : State) (n : Nat) (f : Vf → Vf) : (s.modVf n f).postings = s.postings := rfl
@[simp] theorem State.modVf_ops (s : State) (n : Nat) (f : Vf → Vf) : (s.modVf n f).ops = s.ops := rfl
@[simp] theorem State.modVf_chips (s : State) (n : Nat) (f : Vf → Vf) : (s.modVf n f).chips = s.chips := rfl
@[simp] theorem State.modVf_slices (s : State) (n : Nat) (f : Vf → Vf) : (s.modVf n f).slices = s.slices := rfl
@[simp] theorem State.modVf_tt (s : State) (n : Nat) (f : Vf → Vf) : (s.modVf n f).tt = s.tt := rfl
@[simp] theorem State.modVf_bias (s : State) (n : Nat) (f : Vf → Vf) : (s.modVf n f).bias = s.bias := rfl
@[simp] theorem State.modVf_teams (s : State) (n : Nat) (f : Vf → Vf) : (s.modVf n f).teams = s.teams := rfl
@[simp] theorem State.modVf_sliceSets (s : State) (n : Nat) (f : Vf → Vf) : (s.modVf n f).sliceSets = s.sliceSets := rfl
@[simp] theorem State.modVf_pairs (s : State) (n : Nat) (f : Vf → Vf) : (s.modVf n f).pairs = s.pairs := rfl
@[simp] theorem State.modVf_events (s : State) (n : Nat) (f : Vf → Vf) : (s.modVf n f).events = s.events := rfl
@[simp] theorem State.modVf_past (s : State) (n : Nat) (f : Vf → Vf) : (s.modVf n f).past = s.past := rfl
@[simp] theorem State.modVf_launches (s : State) (n : Nat) (f : Vf → Vf) : (s.modVf n f).launches = s.launches := rfl
@[simp] theorem State.modVf_proctors (s : State) (n : Nat) (f : Vf → Vf) : (s.modVf n f).proctors = s.proctors := rfl
@[simp] theorem State.modVf_fes (s : State) (n : Nat) (f : Vf → Vf) : (s.modVf n f).fes = s.fes := rfl
@[simp] theorem State.modVf_mjobs (s : State) (n : Nat) (f : Vf → Vf) : (s.modVf n f).mjobs = s.mjobs := rfl
@[simp] theorem State.modVf_churns (s : State) (n : Nat) (f : Vf → Vf) : (s.modVf n f).churns = s.churns := rfl
@[simp] theorem State.modVf_notes (s : State) (n : Nat) (f : Vf → Vf) : (s.modVf n f).notes = s.notes := rfl
@[simp] theorem State.modVf_works (s : State) (n : Nat) (f : Vf → Vf) : (s.modVf n f).works = s.works := rfl
@[simp] theorem State.modVf_colls (s : State) (n : Nat) (f : Vf → Vf) : (s.modVf n f).colls = s.colls := rfl
@[simp] theorem State.modVf_gens (s : State) (n : Nat) (f : Vf → Vf) : (s.modVf n f).gens = s.gens := rfl
@[simp] theorem State.modVf_cgens (s : State) (n : Nat) (f : Vf → Vf) : (s.modVf n f).cgens = s.cgens := rfl
@[simp] theorem State.modVf_etlbs (s : State) (n : Nat) (f : Vf → Vf) : (s.modVf n f).etlbs = s.etlbs := rfl
@[simp] theorem State.modVf_hp (s : State) (n : Nat) (f : Vf → Vf) : (s.modVf n f).hp = s.hp := rfl
@[simp] theorem State.modVf_ed (s : State) (n : Nat) (f : Vf → Vf) : (s.modVf n f).ed = s.ed := rfl
@[simp] theorem State.modVf_mg (s : State) (n : Nat) (f : Vf → Vf) : (s.modVf n f).mg = s.mg := rfl
@[simp] theorem State.modVf_outs (s : State) (n : Nat) (f : Vf → Vf) : (s.modVf n f).outs = s.outs := rfl

/-! ### `State.modPort` -/

@[simp] theorem State.modPort_clock (s : State) (p : Nat) (f : EdPort → EdPort) : (s.modPort p f).clock = s.clock := rfl
@[simp] theorem State.modPort_agenda (s : State) (p : Nat) (f : EdPort → EdPort) : (s.modPort p f).agenda = s.agenda := rfl
@[simp] theorem State.modPort_cur (s : State) (p : Nat) (f : EdPort → EdPort) : (s.modPort p f).cur = s.cur := rfl
@[simp] theorem State.modPort_curPr (s : State) (p : Nat) (f : EdPort → EdPort) : (s.modPort p f).curPr = s.curPr := rfl
@[simp] theorem State.modPort_nextOp (s : State) (p : Nat) (f : EdPort → EdPort) : (s.modPort p f).nextOp = s.nextOp := rfl
@[simp] theorem State.modPort_freeCtr (s : State) (p : Nat) (f : EdPort → EdPort) : (s.modPort p f).freeCtr = s.freeCtr := rfl
@[simp] theorem State.modPort_topv (s : State) (p : Nat) (f : EdPort → EdPort) : (s.modPort p f).topv = s.topv := rfl
@[simp] theorem State.modPort_groups (s : State) (p : Nat) (f : EdPort → EdPort) : (s.modPort p f).groups = s.groups := rfl
@[simp] theorem State.modPort_cores (s : State) (p : Nat) (f : EdPort → EdPort) : (s.modPort p f).cores = s.cores := rfl
@[simp] theorem State.modPort_mem (s : State) (p : Nat) (f : EdPort → EdPort) : (s.modPort p f).mem = s.mem := rfl
@[simp] theorem State.modPort_hlines (s : State) (p : Nat) (f : EdPort → EdPort) : (s.modPort p f).hlines = s.hlines := rfl
@[simp] theorem State.modPort_hwaits (s : State) (p : Nat) (f : EdPort → EdPort) : (s.modPort p f).hwaits = s.hwaits := rfl
@[simp] theorem State.modPort_postings (s : State) (p : Nat) (f : EdPort → EdPort) : (s.modPort p f).postings = s.postings := rfl
@[simp] theorem State.modPort_ops (s : State) (p : Nat) (f : EdPort → EdPort) : (s.modPort p f).ops = s.ops := rfl
@[simp] theorem State.modPort_chips (s : State) (p : Nat) (f : EdPort → EdPort) : (s.modPort p f).chips = s.chips := rfl
@[simp] theorem State.modPort_slices (s : State) (p : Nat) (f : EdPort → EdPort) : (s.modPort p f).slices = s.slices := rfl
@[simp] theorem State.modPort_tt (s : State) (p : Nat) (f : EdPort → EdPort) : (s.modPort p f).tt = s.tt := rfl
@[simp] theorem State.modPort_bias (s : State) (p : Nat) (f : EdPort → EdPort) : (s.modPort p f).bias = s.bias := rfl
@[simp] theorem State.modPort_teams (s : State) (p : Nat) (f : EdPort → EdPort) : (s.modPort p f).teams = s.teams := rfl
@[simp] theorem State.modPort_sliceSets (s : State) (p : Nat) (f : EdPort → EdPort) : (s.modPort p f).sliceSets = s.sliceSets := rfl
@[simp] theorem State.modPort_pairs (s : State) (p : Nat) (f : EdPort → EdPort) : (s.modPort p f).pairs = s.pairs := rfl
@[simp] theorem State.modPort_events (s : State) (p : Nat) (f : EdPort → EdPort) : (s.modPort p f).events = s.events := rfl
@[simp] theorem State.modPort_past (s : State) (p : Nat) (f : EdPort → EdPort) : (s.modPort p f).past = s.past := rfl
@[simp] theorem State.modPort_launches (s : State) (p : Nat) (f : EdPort → EdPort) : (s.modPort p f).launches = s.launches := rfl
@[simp] theorem State.modPort_proctors (s : State) (p : Nat) (f : EdPort → EdPort) : (s.modPort p f).proctors = s.proctors := rfl
@[simp] theorem State.modPort_fes (s : State) (p : Nat) (f : EdPort → EdPort) : (s.modPort p f).fes = s.fes := rfl
@[simp] theorem State.modPort_mjobs (s : State) (p : Nat) (f : EdPort → EdPort) : (s.modPort p f).mjobs = s.mjobs := rfl
@[simp] theorem State.modPort_churns (s : State) (p : Nat) (f : EdPort → EdPort) : (s.modPort p f).churns = s.churns := rfl
@[simp] theorem State.modPort_notes (s : State) (p : Nat) (f : EdPort → EdPort) : (s.modPort p f).notes = s.notes := rfl
@[simp] theorem State.modPort_works (s : State) (p : Nat) (f : EdPort → EdPort) : (s.modPort p f).works = s.works := rfl
@[simp] theorem State.modPort_colls (s : State) (p : Nat) (f : EdPort → EdPort) : (s.modPort p f).colls = s.colls := rfl
@[simp] theorem State.modPort_gens (s : State) (p : Nat) (f : EdPort → EdPort) : (s.modPort p f).gens = s.gens := rfl
@[simp] theorem State.modPort_cgens (s : State) (p : Nat) (f : EdPort → EdPort) : (s.modPort p f).cgens = s.cgens := rfl
@[simp] theorem State.modPort_etlbs (s : State) (p : Nat) (f : EdPort → EdPort) : (s.modPort p f).etlbs = s.etlbs := rfl
@[simp] theorem State.modPort_vfs (s : State) (p : Nat) (f : EdPort → EdPort) : (s.modPort p f).vfs = s.vfs := rfl
@[simp] theorem State.modPort_hp (s : State) (p : Nat) (f : EdPort → EdPort) : (s.modPort p f).hp = s.hp := rfl
@[simp] theorem State.modPort_mg (s : State) (p : Nat) (f : EdPort → EdPort) : (s.modPort p f).mg = s.mg := rfl
@[simp] theorem State.modPort_outs (s : State) (p : Nat) (f : EdPort → EdPort) : (s.modPort p f).outs = s.outs := rfl

/-! ### `State.modComm` -/

@[simp] theorem State.modComm_clock (s : State) (c : Nat) (f : Comm → Comm) : (s.modComm c f).clock = s.clock := rfl
@[simp] theorem State.modComm_agenda (s : State) (c : Nat) (f : Comm → Comm) : (s.modComm c f).agenda = s.agenda := rfl
@[simp] theorem State.modComm_cur (s : State) (c : Nat) (f : Comm → Comm) : (s.modComm c f).cur = s.cur := rfl
@[simp] theorem State.modComm_curPr (s : State) (c : Nat) (f : Comm → Comm) : (s.modComm c f).curPr = s.curPr := rfl
@[simp] theorem State.modComm_nextOp (s : State) (c : Nat) (f : Comm → Comm) : (s.modComm c f).nextOp = s.nextOp := rfl
@[simp] theorem State.modComm_freeCtr (s : State) (c : Nat) (f : Comm → Comm) : (s.modComm c f).freeCtr = s.freeCtr := rfl
@[simp] theorem State.modComm_topv (s : State) (c : Nat) (f : Comm → Comm) : (s.modComm c f).topv = s.topv := rfl
@[simp] theorem State.modComm_groups (s : State) (c : Nat) (f : Comm → Comm) : (s.modComm c f).groups = s.groups := rfl
@[simp] theorem State.modComm_cores (s : State) (c : Nat) (f : Comm → Comm) : (s.modComm c f).cores = s.cores := rfl
@[simp] theorem State.modComm_mem (s : State) (c : Nat) (f : Comm → Comm) : (s.modComm c f).mem = s.mem := rfl
@[simp] theorem State.modComm_hlines (s : State) (c : Nat) (f : Comm → Comm) : (s.modComm c f).hlines = s.hlines := rfl
@[simp] theorem State.modComm_hwaits (s : State) (c : Nat) (f : Comm → Comm) : (s.modComm c f).hwaits = s.hwaits := rfl
@[simp] theorem State.modComm_postings (s : State) (c : Nat) (f : Comm → Comm) : (s.modComm c f).postings = s.postings := rfl
@[simp] theorem State.modComm_ops (s : State) (c : Nat) (f : Comm → Comm) : (s.modComm c f).ops = s.ops := rfl
@[simp] theorem State.modComm_chips (s : State) (c : Nat) (f : Comm → Comm) : (s.modComm c f).chips = s.chips := rfl
@[simp] theorem State.modComm_slices (s : State) (c : Nat) (f : Comm → Comm) : (s.modComm c f).slices = s.slices := rfl
@[simp] theorem State.modComm_tt (s : State) (c : Nat) (f : Comm → Comm) : (s.modComm c f).tt = s.tt := rfl
@[simp] theorem State.modComm_bias (s : State) (c : Nat) (f : Comm → Comm) : (s.modComm c f).bias = s.bias := rfl
@[simp] theorem State.modComm_teams (s : State) (c : Nat) (f : Comm → Comm) : (s.modComm c f).teams = s.teams := rfl
@[simp] theorem State.modComm_sliceSets (s : State) (c : Nat) (f : Comm → Comm) : (s.modComm c f).sliceSets = s.sliceSets := rfl
@[simp] theorem State.modComm_pairs (s : State) (c : Nat) (f : Comm → Comm) : (s.modComm c f).pairs = s.pairs := rfl
@[simp] theorem State.modComm_events (s : State) (c : Nat) (f : Comm → Comm) : (s.modComm c f).events = s.events := rfl
@[simp] theorem State.modComm_past (s : State) (c : Nat) (f : Comm → Comm) : (s.modComm c f).past = s.past := rfl
@[simp] theorem State.modComm_launches (s : State) (c : Nat) (f : Comm → Comm) : (s.modComm c f).launches = s.launches := rfl
@[simp] theorem State.modComm_proctors (s : State) (c : Nat) (f : Comm → Comm) : (s.modComm c f).proctors = s.proctors := rfl
@[simp] theorem State.modComm_fes (s : State) (c : Nat) (f : Comm → Comm) : (s.modComm c f).fes = s.fes := rfl
@[simp] theorem State.modComm_mjobs (s : State) (c : Nat) (f : Comm → Comm) : (s.modComm c f).mjobs = s.mjobs := rfl
@[simp] theorem State.modComm_churns (s : State) (c : Nat) (f : Comm → Comm) : (s.modComm c f).churns = s.churns := rfl
@[simp] theorem State.modComm_notes (s : State) (c : Nat) (f : Comm → Comm) : (s.modComm c f).notes = s.notes := rfl
@[simp] theorem State.modComm_works (s : State) (c : Nat) (f : Comm → Comm) : (s.modComm c f).works = s.works := rfl
@[simp] theorem State.modComm_colls (s : State) (c : Nat) (f : Comm → Comm) : (s.modComm c f).colls = s.colls := rfl
@[simp] theorem State.modComm_gens (s : State) (c : Nat) (f : Comm → Comm) : (s.modComm c f).gens = s.gens := rfl
@[simp] theorem State.modComm_cgens (s : State) (c : Nat) (f : Comm → Comm) : (s.modComm c f).cgens = s.cgens := rfl
@[simp] theorem State.modComm_etlbs (s : State) (c : Nat) (f : Comm → Comm) : (s.modComm c f).etlbs = s.etlbs := rfl
@[simp] theorem State.modComm_vfs (s : State) (c : Nat) (f : Comm → Comm) : (s.modComm c f).vfs = s.vfs := rfl
@[simp] theorem State.modComm_hp (s : State) (c : Nat) (f : Comm → Comm) : (s.modComm c f).hp = s.hp := rfl
@[simp] theorem State.modComm_mg (s : State) (c : Nat) (f : Comm → Comm) : (s.modComm c f).mg = s.mg := rfl
@[simp] theorem State.modComm_outs (s : State) (c : Nat) (f : Comm → Comm) : (s.modComm c f).outs = s.outs := rfl

end Sys2Proof.Machine
end

