-- ==== Sys2Proof/Laws/Tab.lean ====
section
/-! SUPPORT. Reading a table or memory after a change of it, and the canonical form of memory. -/

namespace Sys2Proof.Machine

@[simp] theorem Tab.get?_nil {α : Type} (k : Nat) : Tab.get? ([] : Tab α) k = none := rfl

@[simp] theorem Tab.get?_set_self {α : Type} (t : Tab α) (k : Nat) (v : α) : Tab.get? (Tab.set t k v) k = some v := by
  induction t with
  | nil => simp [Tab.set, Tab.get?]
  | cons e r ih =>
    simp only [Tab.set]
    split
    · simp [Tab.get?]
    · split
      · simp [Tab.get?]
      · simp_all [Tab.get?]

theorem Tab.get?_set_ne {α : Type} (t : Tab α) {j k : Nat} (v : α) (h : j ≠ k) :
    Tab.get? (Tab.set t k v) j = Tab.get? t j := by
  induction t with
  | nil => simp [Tab.set, Tab.get?, Ne.symm h]
  | cons e r ih =>
    obtain ⟨k', v'⟩ := e
    simp only [Tab.set]
    split
    · rename_i h1
      subst h1
      simp [Tab.get?, Ne.symm h]
    · split
      · simp [Tab.get?, Ne.symm h]
      · simp [Tab.get?, ih]

@[simp] theorem Tab.get?_del_self {α : Type} (t : Tab α) (k : Nat) : Tab.get? (Tab.del t k) k = none := by
  induction t with
  | nil => rfl
  | cons e r ih =>
    simp only [Tab.del]
    split
    · exact ih
    · simp_all [Tab.get?]

theorem Tab.get?_del_ne {α : Type} (t : Tab α) {j k : Nat} (h : j ≠ k) : Tab.get? (Tab.del t k) j = Tab.get? t j := by
  induction t with
  | nil => rfl
  | cons e r ih =>
    obtain ⟨k', v'⟩ := e
    simp only [Tab.del]
    split
    · rename_i h1
      subst h1
      simp [Tab.get?, Ne.symm h, ih]
    · simp [Tab.get?, ih]

@[simp] theorem Tab.get?_upd_self {α : Type} (t : Tab α) (k : Nat) (f : α → α) :
    Tab.get? (Tab.upd t k f) k = (Tab.get? t k).map f := by
  unfold Tab.upd
  split <;> simp_all

theorem Tab.get?_upd_ne {α : Type} (t : Tab α) {j k : Nat} (f : α → α) (h : j ≠ k) :
    Tab.get? (Tab.upd t k f) j = Tab.get? t j := by
  unfold Tab.upd
  split
  · exact Tab.get?_set_ne _ _ h
  · rfl

@[simp] theorem Tab.getD_set_self {α : Type} (t : Tab α) (k : Nat) (v d : α) : Tab.getD (Tab.set t k v) k d = v := by
  simp [Tab.getD]

theorem Tab.getD_set_ne {α : Type} (t : Tab α) {j k : Nat} (v d : α) (h : j ≠ k) :
    Tab.getD (Tab.set t k v) j d = Tab.getD t j d := by
  simp [Tab.getD, Tab.get?_set_ne t v h]

/-! ### Memory -/

@[simp] theorem Memory.read_write_self (m : Memory) (a : Nat) (b : Byte) : Memory.read (Memory.write m a b) a = b := by
  unfold Memory.write Memory.read
  split
  · simp_all [Tab.getD]
  · simp

theorem Memory.read_write_ne (m : Memory) {a c : Nat} (b : Byte) (h : c ≠ a) :
    Memory.read (Memory.write m a b) c = Memory.read m c := by
  unfold Memory.write Memory.read Tab.getD
  split
  · rw [Tab.get?_del_ne _ h]
  · rw [Tab.get?_set_ne _ _ h]

/-- A write of bytes leaves every address outside them alone. -/
theorem Memory.read_writeN_outside (m : Memory) (a c : Nat) (bs : List Byte) (h : c < a ∨ a + bs.length ≤ c) :
    Memory.read (Memory.writeN m a bs) c = Memory.read m c := by
  induction bs generalizing m a with
  | nil => rfl
  | cons b r ih =>
    simp only [Memory.writeN, List.length_cons] at *
    rw [ih _ _ (by omega), Memory.read_write_ne _ _ (by omega)]

/-- A write of bytes is read back. -/
theorem Memory.read_writeN_inside (m : Memory) (a k : Nat) (bs : List Byte) (h : k < bs.length) :
    Memory.read (Memory.writeN m a bs) (a + k) = bs[k] := by
  induction bs generalizing m a k with
  | nil => simp at h
  | cons b r ih =>
    simp only [Memory.writeN]
    cases k with
    | zero =>
      rw [Memory.read_writeN_outside _ _ _ _ (by omega)]
      simp
    | succ k =>
      have h2 : k < r.length := by simpa using h
      have := ih (Memory.write m a b) (a + 1) k h2
      rw [show a + (k + 1) = a + 1 + k by omega, this]
      simp

/-! ### The canonical form -/

theorem Memory.wfFrom_mono {lo hi : Nat} {m : Memory} (h : Memory.wfFrom hi m = true) (hl : lo ≤ hi) :
    Memory.wfFrom lo m = true := by
  cases m with
  | nil => rfl
  | cons c t =>
    obtain ⟨a, b⟩ := c
    simp only [Memory.wfFrom, Bool.and_eq_true, decide_eq_true_eq] at *
    exact ⟨⟨by omega, h.1.2⟩, h.2⟩

theorem Memory.wfFrom_del {lo : Nat} {m : Memory} (a : Nat) (h : Memory.wfFrom lo m = true) :
    Memory.wfFrom lo (Tab.del m a) = true := by
  induction m generalizing lo with
  | nil => rfl
  | cons c t ih =>
    obtain ⟨k, b⟩ := c
    simp only [Memory.wfFrom, Bool.and_eq_true, decide_eq_true_eq] at h
    simp only [Tab.del]
    split
    · exact Memory.wfFrom_mono (ih h.2) (by omega)
    · simp only [Memory.wfFrom, Bool.and_eq_true, decide_eq_true_eq]
      exact ⟨h.1, ih h.2⟩

theorem Memory.wfFrom_set {lo : Nat} {m : Memory} (a : Nat) (b : Byte) (h : Memory.wfFrom lo m = true) (hl : lo ≤ a)
    (hb : b ≠ unlistedByte) : Memory.wfFrom lo (Tab.set m a b) = true := by
  induction m generalizing lo with
  | nil => simp [Tab.set, Memory.wfFrom, hl, hb]
  | cons c t ih =>
    obtain ⟨k, d⟩ := c
    simp only [Memory.wfFrom, Bool.and_eq_true, decide_eq_true_eq] at h
    simp only [Tab.set]
    split
    · rename_i h1
      subst h1
      simp only [Memory.wfFrom, Bool.and_eq_true, decide_eq_true_eq]
      exact ⟨⟨hl, hb⟩, h.2⟩
    · split
      · simp only [Memory.wfFrom, Bool.and_eq_true, decide_eq_true_eq]
        exact ⟨⟨hl, hb⟩, ⟨by omega, h.1.2⟩, h.2⟩
      · simp only [Memory.wfFrom, Bool.and_eq_true, decide_eq_true_eq]
        exact ⟨h.1, ih h.2 (by omega)⟩

theorem Memory.wfFrom_filter {lo : Nat} {m : Memory} (p : Host.Cell → Bool) (h : Memory.wfFrom lo m = true) :
    Memory.wfFrom lo (m.filter p) = true := by
  induction m generalizing lo with
  | nil => rfl
  | cons c t ih =>
    obtain ⟨k, b⟩ := c
    simp only [Memory.wfFrom, Bool.and_eq_true, decide_eq_true_eq] at h
    simp only [List.filter]
    split
    · simp only [Memory.wfFrom, Bool.and_eq_true, decide_eq_true_eq]
      exact ⟨h.1, ih h.2⟩
    · exact Memory.wfFrom_mono (ih h.2) (by omega)

/-- A write of one byte keeps the canonical form. -/
theorem Memory.wf_write {m : Memory} (a : Nat) (b : Byte) (h : Memory.wf m = true) :
    Memory.wf (Memory.write m a b) = true := by
  unfold Memory.write
  split
  · exact Memory.wfFrom_del a h
  · exact Memory.wfFrom_set a b h (Nat.zero_le a) ‹_›

/-- A write of bytes keeps the canonical form. -/
theorem Memory.wf_writeN {m : Memory} (a : Nat) (bs : List Byte) (h : Memory.wf m = true) :
    Memory.wf (Memory.writeN m a bs) = true := by
  induction bs generalizing m a with
  | nil => exact h
  | cons b r ih => exact ih (a + 1) (Memory.wf_write a b h)

/-- Writes of single bytes, one after another, keep the canonical form. -/
theorem Memory.wf_foldl {α : Type} (at_ : α → Nat) (val : α → Byte) (l : List α) {m : Memory} (h : Memory.wf m = true) :
    Memory.wf (l.foldl (fun m x => Memory.write m (at_ x) (val x)) m) = true := by
  induction l generalizing m with
  | nil => exact h
  | cons x r ih => exact ih (Memory.wf_write _ _ h)

/-- Dropping bytes keeps the canonical form. -/
theorem Memory.wf_filter {m : Memory} (p : Host.Cell → Bool) (h : Memory.wf m = true) : Memory.wf (m.filter p) = true :=
  Memory.wfFrom_filter p h

end Sys2Proof.Machine
end

