-- ==== Sys2Proof/Laws/Frames.lean ====
section
/-! SUPPORT. What the shared operations of issue leave alone: every one of them touches registers only. -/

namespace Sys2Proof

open Sys2Proof.Machine

/-! ### RegistersOnly is kept along a chain -/

theorem RegistersOnly.refl (gid : Nat) (s : State) : RegistersOnly gid s s :=
  ⟨rfl, fun _ _ => rfl, fun _ => rfl, fun _ => .inl rfl, fun _ => rfl, fun _ => rfl⟩

theorem RegistersOnly.trans {gid : Nat} {s t u : State} (h : RegistersOnly gid s t) (k : RegistersOnly gid t u) :
    RegistersOnly gid s u where
  rest := by rw [k.rest, h.rest]
  others j hj := (k.others j hj).trans (h.others j hj)
  cores c := by rw [k.cores c, h.cores c]
  l1 c := by
    rcases k.l1 c with e | e
    · rw [e]; exact h.l1 c
    · exact .inr e
  fes n := by rw [k.fes n, h.fes n]
  taps p := by rw [k.taps p, h.taps p]

/-- Memory is as before. -/
theorem RegistersOnly.mem_eq {gid : Nat} {s t : State} (h : RegistersOnly gid s t) : t.mem = s.mem := by
  rw [h.rest]

theorem regs_modGroup (s : State) (gid : Nat) (f : Group → Group) : RegistersOnly gid s (s.modGroup gid f) :=
  ⟨rfl, fun _ hk => Tab.get?_upd_ne _ _ hk, fun _ => rfl, fun _ => .inl rfl, fun _ => rfl, fun _ => rfl⟩

theorem regs_modFrag (s : State) (gid fi : Nat) (f : Frag → Frag) : RegistersOnly gid s (s.modFrag gid fi f) :=
  regs_modGroup s gid _

/-- A change of a core's datapath times, check bits and L1 that keeps or empties the L1. -/
theorem regs_modCore (s : State) (gid c : Nat) (f : Core → Core)
    (h : ∀ y, f y = { y with busy := (f y).busy, bad := (f y).bad, l1 := (f y).l1 } ∧ ((f y).l1 = y.l1 ∨ (f y).l1 = [])) :
    RegistersOnly gid s (s.modCore c f) where
  rest := rfl
  others _ _ := rfl
  cores d := by
    by_cases e : d = c
    · subst e; simp only [State.core, State.modCore, Tab.getD_set_self]; exact (h _).1
    · simp only [State.core, State.modCore, Tab.getD_set_ne _ _ _ e]
  l1 d := by
    by_cases e : d = c
    · subst e; simp only [State.core, State.modCore, Tab.getD_set_self]; exact (h _).2
    · exact .inl (by simp only [State.core, State.modCore, Tab.getD_set_ne _ _ _ e])
  fes _ := rfl
  taps _ := rfl

/-- A drop count of a front end advances. -/
theorem regs_modFe (s : State) (gid n : Nat) (f : Fe → Fe) (h : ∀ y, f y = { y with prdrop := (f y).prdrop }) :
    RegistersOnly gid s (s.modFe n f) where
  rest := rfl
  others _ _ := rfl
  cores _ := rfl
  l1 _ := .inl rfl
  fes m := by
    by_cases e : m = n
    · subst e; simp only [State.fe, State.modFe, Tab.getD_set_self]; exact h _
    · simp only [State.fe, State.modFe, Tab.getD_set_ne _ _ _ e]
  taps _ := rfl

theorem regs_foldl {α : Type} {gid : Nat} (f : State → α → State) (h : ∀ s a, RegistersOnly gid s (f s a)) (l : List α)
    (s : State) : RegistersOnly gid s (l.foldl f s) := by
  induction l generalizing s with
  | nil => exact .refl gid s
  | cons a r ih => exact (h s a).trans (ih _)

/-- A Proctor tap. -/
theorem regs_tapEvent (s : State) (gid port : Nat) (ev : PrEvent) : RegistersOnly gid s (tapEvent s port ev) := by
  unfold tapEvent
  dsimp only
  split
  · exact .refl gid s
  · split
    · refine ⟨rfl, fun _ _ => rfl, fun _ => rfl, fun _ => .inl rfl, fun _ => rfl, fun p => ?_⟩
      by_cases e : p = port
      · subst e; simp [State.proctor]
      · simp [State.proctor, Tab.getD_set_ne _ _ _ e]
    · exact regs_foldl _ (fun u q => regs_modFe u gid q _ fun _ => rfl) _ _

theorem regs_tap (s : State) (gid port src : Nat) (part : Option Nat) (e : List Nat) :
    RegistersOnly gid s (tap s port src part e) := regs_tapEvent _ _ _ _

theorem regs_setGState (s : State) (gid : Nat) (st : GState) : RegistersOnly gid s (setGState s gid st) := by
  unfold setGState
  split
  · exact .refl gid s
  · split
    · exact .refl gid s
    · exact (regs_modGroup _ _ _).trans (regs_tap _ _ _ _ _ _)

theorem regs_startRunning (s : State) (gid : Nat) : RegistersOnly gid s (startRunning s gid) := by
  unfold startRunning
  split
  · split <;> first | exact regs_setGState _ _ _ | exact .refl gid s
  · exact .refl gid s

theorem regs_advance (s : State) (x : Ctx) (len : Nat) (sp : Bool) : RegistersOnly x.gid s (advance s x len sp) :=
  (regs_startRunning s x.gid).trans (regs_modGroup _ _ _)

theorem regs_branchTo (s : State) (x : Ctx) (sp : Bool) (pc : Nat) : RegistersOnly x.gid s (branchTo s x sp pc) :=
  (regs_startRunning s x.gid).trans (regs_modGroup _ _ _)

theorem regs_clearWords (s : State) (gid : Nat) (g : Group) (key : Nat) (lanes : List Nat) :
    RegistersOnly gid s (clearWords s gid g key lanes) := by
  unfold clearWords
  dsimp only
  split
  · exact .refl gid s
  · exact regs_modCore _ _ _ _ fun _ => ⟨rfl, .inl rfl⟩

theorem regs_writeVec (s : State) (x : Ctx) (d : Sel) (wide : Bool) (m : LaneMask) (r : Nat → Nat) :
    RegistersOnly x.gid s (writeVec s x d wide m r) := by
  unfold writeVec clearBad
  dsimp only
  split
  · split
    · exact ((regs_modGroup _ _ _).trans (regs_clearWords _ _ _ _ _)).trans
        ((regs_modGroup _ _ _).trans (regs_clearWords _ _ _ _ _))
    · exact (regs_modGroup _ _ _).trans (regs_clearWords _ _ _ _ _)
  · exact .refl x.gid s

theorem regs_writeScalar (s : State) (x : Ctx) (n : Nat) (wide : Bool) (r : Nat) :
    RegistersOnly x.gid s (writeScalar s x n wide r) := by
  unfold writeScalar clearBad
  dsimp only
  split
  · exact ((regs_modGroup _ _ _).trans (regs_clearWords _ _ _ _ _)).trans
      ((regs_modGroup _ _ _).trans (regs_clearWords _ _ _ _ _))
  · exact (regs_modGroup _ _ _).trans (regs_clearWords _ _ _ _ _)

theorem regs_writeUni (s : State) (x : Ctx) (d : Sel) (wide : Bool) (r : Nat) :
    RegistersOnly x.gid s (writeUni s x d wide r) := by
  unfold writeUni
  split
  · exact regs_writeScalar _ _ _ _ _
  · exact regs_modFrag _ _ _ _
  · exact (regs_modGroup _ _ _).trans (regs_modFrag _ _ _ _)
  · exact .refl x.gid s

theorem regs_invalidateL1 (s : State) (gid core : Nat) : RegistersOnly gid s (invalidateL1 s core) := by
  unfold invalidateL1
  split
  · exact .refl gid s
  · exact regs_modCore _ _ _ _ fun _ => ⟨rfl, .inr rfl⟩

theorem regs_readSources (s : State) (x : Ctx) (i : AluI) (os : Opnds) :
    RegistersOnly x.gid s (readSources s x i os) := by
  unfold readSources
  dsimp only
  have h1 : RegistersOnly x.gid s
      (if usesFull x.g (usesOf i os).rd then invalidateL1 s (coreOf x.gid) else s) := by
    split
    · exact regs_invalidateL1 _ _ _
    · exact .refl _ _
  have h2 := h1.trans (regs_modGroup _ x.gid fun g => useNotes (popQueues g (usesOf i os).qs) (usesOf i os).rd)
  split
  · exact h2
  · exact h2.trans (regs_modFrag _ _ _ _)

theorem regs_occupy (s : State) (x : Ctx) (beats : Nat) : RegistersOnly x.gid s (occupy s x beats) :=
  regs_modCore _ _ _ _ fun _ => ⟨rfl, .inl rfl⟩

theorem regs_orSticky (s : State) (gid bits : Nat) : RegistersOnly gid s (orSticky s gid bits) := regs_modGroup _ _ _

theorem regs_setScc (s : State) (x : Ctx) (b : Bool) : RegistersOnly x.gid s (setScc s x b) := regs_modFrag _ _ _ _

theorem regs_setCarry (s : State) (x : Ctx) (b : Bool) : RegistersOnly x.gid s (setCarry s x b) := regs_modFrag _ _ _ _

/-- Parking touches the group and a tap. -/
theorem regs_park (s : State) (x : Ctx) (why : Await) : RegistersOnly x.gid s (park s x why) := by
  unfold park
  dsimp only
  split
  · exact (regs_modFrag _ _ _ _).trans (regs_tap _ _ _ _ _ _)
  · exact regs_modFrag _ _ _ _

/-- A trap touches the group and a tap. -/
theorem regs_takeTrapAt (s : State) (gid fi : Nat) (f : Frag) (tpc rpc ridx code : Nat) (async : Bool) (i0 i1 : Nat)
    (scc : Bool) (iw : List Word) : RegistersOnly gid s (takeTrapAt s gid fi f tpc rpc ridx code async i0 i1 scc iw) := by
  unfold takeTrapAt killByTrap
  split
  · exact .refl gid s
  · split
    · exact regs_modGroup _ _ _
    · exact (regs_foldl _ (fun u k => regs_clearWords u gid _ k _) _ s).trans (regs_modGroup _ _ _)

theorem regs_takeTrap (s : State) (x : Ctx) (code i0 i1 : Nat) : RegistersOnly x.gid s (takeTrap s x code i0 i1) :=
  regs_takeTrapAt _ _ _ _ _ _ _ _ _ _ _ _ _

end Sys2Proof
end

