-- ==== Sys2Proof/Laws/Issue.lean ====
section
/-! SUPPORT. What an issued instruction makes of its group: sources read, destinations written, flags, the advance; and the step of
a vector and of a uniform instruction that passes its checks. -/

namespace Sys2Proof

open Sys2Proof.Machine

/-! ### The issuer -/

theorem issuer_spec {s : State} {x : Ctx} (h : s.issuer = some x) :
    s.cur = some (x.gid, x.fi) ∧ Tab.get? s.groups x.gid = some x.g ∧ x.g.live = true ∧ x.g.frag? x.fi = some x.f := by
  unfold State.issuer at h
  split at h
  · cases h
  · rename_i gid fi hc
    split at h
    · cases h
    · rename_i g hg
      split at h
      · rename_i hl
        split at h
        · rename_i f hf
          cases h
          exact ⟨hc, hg, hl, hf⟩
        · cases h
      · cases h

theorem withIssuer_eq {s : State} {x : Ctx} (h : s.issuer = some x) (k : Ctx → State) : withIssuer s k = .next (k x) := by
  simp [withIssuer, h]

/-- The only stop of a program instruction is that no fragment issues. -/
theorem withIssuer_cases (s : State) (k : Ctx → State) :
    (∃ x, s.issuer = some x ∧ withIssuer s k = .next (k x)) ∨ (s.issuer = none ∧ withIssuer s k = .fault .noIssuer) := by
  unfold withIssuer
  cases h : s.issuer with
  | none => exact .inr ⟨rfl, rfl⟩
  | some x => exact .inl ⟨x, rfl, rfl⟩

theorem runAlu_go {s : State} {x : Ctx} {i : AluI} {ok : Bool} {os : Opnds} (h : Ready s x ok (usesOf i os))
    (k : Ctx → State → State) : runAlu s i ok os k = .next (advance (k x (readSources s x i os)) x i.len i.sp.isSome) := by
  obtain ⟨h1, h2, h3⟩ := h
  simp [runAlu, withIssuer, h1, h2, h3]

/-! ### The group along a chain of operations -/

/-- The group of a state. -/
abbrev grp (s : State) (gid : Nat) : Option Group := Tab.get? s.groups gid

@[simp] theorem grp_modGroup (s : State) (gid : Nat) (f : Group → Group) :
    grp (s.modGroup gid f) gid = (grp s gid).map f := Tab.get?_upd_self _ _ _

@[simp] theorem grp_modFrag (s : State) (gid fi : Nat) (f : Frag → Frag) :
    grp (s.modFrag gid fi f) gid = (grp s gid).map fun g => g.modFrag fi f := grp_modGroup _ _ _

@[simp] theorem grp_modCore (s : State) (gid c : Nat) (f : Core → Core) : grp (s.modCore c f) gid = grp s gid := rfl

@[simp] theorem grp_modFe (s : State) (gid n : Nat) (f : Fe → Fe) : grp (s.modFe n f) gid = grp s gid := rfl

@[simp] theorem grp_clearWords (s : State) (gid k : Nat) (g : Group) (key : Nat) (lanes : List Nat) :
    grp (clearWords s gid g key lanes) k = grp s k := by
  unfold clearWords
  dsimp only
  split <;> rfl

@[simp] theorem grp_clearBad (s : State) (x : Ctx) (k key : Nat) (lanes : List Nat) :
    grp (clearBad s x key lanes) k = grp s k := grp_clearWords _ _ _ _ _ _

theorem groups_foldl_modFe (l : List Nat) (f : Nat → Fe → Fe) (s : State) :
    (l.foldl (fun t q => t.modFe q (f q)) s).groups = s.groups := by
  induction l generalizing s with
  | nil => rfl
  | cons a r ih => rw [List.foldl_cons, ih]; rfl

theorem groups_tapEvent (s : State) (port : Nat) (ev : PrEvent) : (tapEvent s port ev).groups = s.groups := by
  unfold tapEvent
  dsimp only
  split
  · rfl
  · split
    · rfl
    · exact groups_foldl_modFe _ (fun _ f => { f with prdrop := (f.prdrop + 1) % 2 ^ 32 }) s

@[simp] theorem grp_tap (s : State) (gid port src : Nat) (part : Option Nat) (e : List Nat) :
    grp (tap s port src part e) gid = grp s gid := by
  unfold grp tap
  rw [groups_tapEvent]

/-- A group that issues is RUNNING if it was PLACED or PARKED (R219). -/
def ranState (st : GState) : GState :=
  match st with
  | .placed => .running
  | .parked => .running
  | z => z

@[simp] theorem grp_startRunning (s : State) (gid : Nat) :
    grp (startRunning s gid) gid = (grp s gid).map fun g => { g with state := ranState g.state } := by
  unfold startRunning
  cases h : Tab.get? s.groups gid with
  | none => simp [grp, h]
  | some g =>
    cases hs : g.state <;> dsimp only <;> unfold setGState <;> simp [grp, h, hs, ranState]
    all_goals (cases g; simp_all)

/-- What reading sources makes of the group: queue pops and first uses (R53, R196), and the latch captured (R41). -/
def sourcesRead (s : State) (x : Ctx) (i : AluI) (os : Opnds) (g : Group) : Group :=
  let u := usesOf i os
  let g1 := useNotes (popQueues g u.qs) u.rd
  match captured s x i os with
  | none => g1
  | some (n, y) => g1.modFrag x.fi fun f => { f with latches := Tab.set f.latches n y }

@[simp] theorem grp_readSources (s : State) (x : Ctx) (i : AluI) (os : Opnds) :
    grp (readSources s x i os) x.gid = (grp s x.gid).map (sourcesRead s x i os) := by
  have hi : ∀ b : Bool, grp (if b then invalidateL1 s (coreOf x.gid) else s) x.gid = grp s x.gid := by
    intro b
    cases b
    · rfl
    · simp only [if_true]
      unfold invalidateL1
      split <;> rfl
  unfold readSources sourcesRead
  dsimp only
  cases captured s x i os with
  | none =>
    dsimp only
    rw [grp_modGroup, hi]
  | some c =>
    dsimp only
    rw [grp_modFrag, grp_modGroup, hi]
    cases grp s x.gid <;> simp

/-- What a vector write makes of the group (R113). -/
def vecWritten (g : Group) (d : Sel) (wide : Bool) (m : LaneMask) (r : Nat → Nat) : Group :=
  match d with
  | .v n =>
    let g1 := g.writeV n m fun l => BitVec.ofNat 32 (r l)
    if wide then g1.writeV (n + 1) m fun l => BitVec.ofNat 32 (r l / 2 ^ 32) else g1
  | _ => g

@[simp] theorem grp_writeVec (s : State) (x : Ctx) (d : Sel) (wide : Bool) (m : LaneMask) (r : Nat → Nat) :
    grp (writeVec s x d wide m r) x.gid = (grp s x.gid).map fun g => vecWritten g d wide m r := by
  unfold writeVec vecWritten
  cases d <;> dsimp only
  case v n =>
    cases wide
    · simp
    · simp only [if_true, grp_clearBad, grp_modGroup, Option.map_map]
      rfl
  all_goals (cases grp s x.gid <;> simp)

/-- What a scalar write makes of the group (R46). -/
def scalarWritten (g : Group) (n : Nat) (wide : Bool) (r : Nat) : Group :=
  let g1 := g.writeS n (BitVec.ofNat 32 r)
  if wide then g1.writeS (n + 1) (BitVec.ofNat 32 (r / 2 ^ 32)) else g1

@[simp] theorem grp_writeScalar (s : State) (x : Ctx) (n : Nat) (wide : Bool) (r : Nat) :
    grp (writeScalar s x n wide r) x.gid = (grp s x.gid).map fun g => scalarWritten g n wide r := by
  unfold writeScalar scalarWritten
  cases wide
  · simp
  · simp only [if_true, grp_clearBad, grp_modGroup, Option.map_map]
    rfl

@[simp] theorem grp_occupy (s : State) (x : Ctx) (gid beats : Nat) : grp (occupy s x beats) gid = grp s gid := rfl

@[simp] theorem grp_orSticky (s : State) (gid bits : Nat) :
    grp (orSticky s gid bits) gid = (grp s gid).map fun g => { g with sticky := g.sticky ||| bits } := grp_modGroup _ _ _

/-- What the advance makes of the group (R27, R38, R223). -/
def advanced (clock : Nat) (x : Ctx) (len : Nat) (sp : Bool) (g : Group) : Group :=
  let g0 : Group := { g with state := ranState g.state }
  let g1 := g0.modFrag x.fi fun f => issued f clock sp
  if x.f.isLast len then
    gotoIn (g1.modFrag x.fi fun f => { f with yielded := bitAt x.f.hdr.toNat 27 }) clock x.fi x.f.fallThrough
  else g1.modFrag x.fi fun f => { f with idx := x.f.idx + len }

@[simp] theorem grp_advance (s : State) (x : Ctx) (len : Nat) (sp : Bool) :
    grp (advance s x len sp) x.gid = (grp s x.gid).map (advanced s.clock x len sp) := by
  unfold advance
  dsimp only
  rw [grp_modGroup, grp_startRunning]
  cases grp s x.gid <;> rfl

/-! ### What a chain of operations keeps of a group -/

/-- The group keeps what an instruction that uses `u` must leave alone. -/
structure GKeep (u : Use) (g h : Group) : Prop where
  v : ∀ n, keyV n ∉ u.wr → h.vrow n = g.vrow n
  s : ∀ n, keyS n ∉ u.wr → h.sreg n = g.sreg n
  note : ∀ k, k ∉ u.rd → k ∉ u.wr → Tab.get? h.note k = Tab.get? g.note k
  queues : ∀ q, q ∉ u.qs → nth h.queues q [] = nth g.queues q []
  rest : h = { g with v := h.v, s := h.s, note := h.note, queues := h.queues, split := h.split, sticky := h.sticky,
                      state := h.state, hmode := h.hmode, nextRegion := h.nextRegion, nextFrag := h.nextFrag }

theorem GKeep.refl (u : Use) (g : Group) : GKeep u g g := ⟨fun _ _ => rfl, fun _ _ => rfl, fun _ _ _ => rfl, fun _ _ => rfl, rfl⟩

theorem GKeep.trans {u : Use} {g h k : Group} (a : GKeep u g h) (b : GKeep u h k) : GKeep u g k where
  v n e := (b.v n e).trans (a.v n e)
  s n e := (b.s n e).trans (a.s n e)
  note n e f := (b.note n e f).trans (a.note n e f)
  queues q e := (b.queues q e).trans (a.queues q e)
  rest := by rw [b.rest, a.rest]

/-- A change of the split table, the sticky flags, the state and the handler mode only. -/
theorem GKeep.light (u : Use) (g h : Group)
    (e : h = { g with split := h.split, sticky := h.sticky, state := h.state, hmode := h.hmode, nextRegion := h.nextRegion, nextFrag := h.nextFrag }) :
    GKeep u g h := by
  rw [e]; exact ⟨fun _ _ => rfl, fun _ _ => rfl, fun _ _ _ => rfl, fun _ _ => rfl, rfl⟩

theorem modFrag_light (g : Group) (fi : Nat) (f : Frag → Frag) :
    g.modFrag fi f = { g with split := (g.modFrag fi f).split } := by
  unfold Group.modFrag; split <;> rfl

theorem GKeep.modFrag (u : Use) (g : Group) (fi : Nat) (f : Frag → Frag) : GKeep u g (g.modFrag fi f) :=
  .light _ _ _ (by rw [modFrag_light])

theorem GKeep.fuse (u : Use) (g : Group) (clock ri : Nat) (r : Region) : GKeep u g (fuse g clock ri r).1 := by
  unfold Sys2Proof.Machine.fuse
  dsimp only
  split <;> exact .light _ _ _ rfl

theorem GKeep.settleAt (u : Use) (n : Nat) (g : Group) (clock fi : Nat) : GKeep u g (settleAt n g clock fi) := by
  induction n generalizing g fi with
  | zero => exact .refl _ _
  | succ n ih =>
    unfold Sys2Proof.Machine.settleAt
    split
    · exact .refl _ _
    · split
      · exact .refl _ _
      · split
        · exact .refl _ _
        · rename_i f _ _ _ _ _ ri r _
          split
          · have ha : GKeep u g (arrive g fi f ri r) := .light _ _ _ rfl
            dsimp only
            split
            · have hf := GKeep.fuse u (arrive g fi f ri r) clock ri { r with arrived := r.arrived ||| f.members }
              split
              · rename_i heq
                rw [heq] at hf
                exact (ha.trans hf).trans (ih _ _)
              · rename_i heq
                rw [heq] at hf
                exact ha.trans hf
            · exact ha
          · exact .refl _ _

theorem GKeep.gotoIn (u : Use) (g : Group) (clock fi pc : Nat) : GKeep u g (gotoIn g clock fi pc) :=
  (GKeep.modFrag _ _ _ _).trans (GKeep.settleAt _ _ _ _ _)

theorem GKeep.advanced (u : Use) (clock : Nat) (x : Ctx) (len : Nat) (sp : Bool) (g : Group) :
    GKeep u g (advanced clock x len sp g) := by
  unfold Sys2Proof.advanced
  dsimp only
  have h0 : GKeep u g { g with state := ranState g.state } := .light _ _ _ rfl
  split
  · exact ((h0.trans (.modFrag _ _ _ _)).trans (.modFrag _ _ _ _)).trans (.gotoIn _ _ _ _ _)
  · exact (h0.trans (.modFrag _ _ _ _)).trans (.modFrag _ _ _ _)

theorem GKeep.writeV (u : Use) (g : Group) (n : Nat) (m : LaneMask) (h : Nat → Word) (hn : keyV n ∈ u.wr) :
    GKeep u g (g.writeV n m h) := by
  unfold Group.writeV
  split
  · exact .refl _ _
  · refine ⟨fun k hk => ?_, fun _ _ => rfl, fun k _ hk => ?_, fun _ _ => rfl, rfl⟩
    · have : k ≠ n := fun e => hk (e ▸ hn)
      simp only [Group.vrow, Tab.getD_set_ne _ _ _ this]
    · have : k ≠ n := fun e => hk (e ▸ hn)
      exact Tab.get?_del_ne _ this

theorem GKeep.writeS (u : Use) (g : Group) (n : Nat) (y : Word) (hn : keyS n ∈ u.wr) : GKeep u g (g.writeS n y) := by
  unfold Group.writeS
  refine ⟨fun _ _ => rfl, fun k hk => ?_, fun k _ hk => ?_, fun _ _ => rfl, rfl⟩
  · have : k ≠ n := fun e => hk (e ▸ hn)
    simp only [Group.sreg, Tab.getD_set_ne _ _ _ this]
  · have : k ≠ keyS n := fun e => hk (e ▸ hn)
    exact Tab.get?_del_ne _ this

theorem get?_foldl_del {α : Type} (p : Tab α → Nat → Bool) (l : List Nat) (t : Tab α) (k : Nat) (h : k ∉ l) :
    Tab.get? (l.foldl (fun t j => if p t j then Tab.del t j else t) t) k = Tab.get? t k := by
  induction l generalizing t with
  | nil => rfl
  | cons a r ih =>
    have h1 : k ≠ a := fun e => h (by simp [e])
    have h2 : k ∉ r := fun e => h (by simp [e])
    rw [List.foldl_cons, ih _ h2]
    split
    · exact Tab.get?_del_ne _ h1
    · rfl

theorem nth_updNth_ne {α : Type} (l : List α) (i j : Nat) (f : α → α) (d : α) (h : i ≠ j) :
    nth (updNth l i f) j d = nth l j d := by
  unfold updNth nth
  split
  · rw [List.getElem?_set_ne h]
  · rfl

theorem nth_foldl_updNth {α : Type} (qs : List Nat) (l : List α) (f : α → α) (q : Nat) (d : α) (h : q ∉ qs) :
    nth (qs.foldl (fun t n => updNth t n f) l) q d = nth l q d := by
  induction qs generalizing l with
  | nil => rfl
  | cons a r ih =>
    have h1 : a ≠ q := fun e => h (by simp [e])
    have h2 : q ∉ r := fun e => h (by simp [e])
    rw [List.foldl_cons, ih _ h2, nth_updNth_ne _ _ _ _ _ h1]

/-- Reading the sources keeps all but what it reads, whatever is written later. -/
theorem GKeep.sourcesRead' (s : State) (x : Ctx) (i : AluI) (os : Opnds) (w : List Nat) (g : Group) :
    GKeep { usesOf i os with wr := w } g (sourcesRead s x i os g) := by
  unfold Sys2Proof.sourcesRead
  dsimp only
  have h1 : GKeep { usesOf i os with wr := w } g (useNotes (popQueues g (usesOf i os).qs) (usesOf i os).rd) := by
    refine ⟨fun _ _ => rfl, fun _ _ => rfl, fun k hk _ => ?_, fun q hq => ?_, rfl⟩
    · exact get?_foldl_del (fun t j => Tab.get? t j == some NoteSt.full) _ _ _ hk
    · exact nth_foldl_updNth _ _ _ _ _ (by simpa [List.mem_eraseDups] using hq)
  cases captured s x i os with
  | none => exact h1
  | some c => exact h1.trans (.modFrag _ _ _ _)

theorem GKeep.sourcesRead (s : State) (x : Ctx) (i : AluI) (os : Opnds) (g : Group) :
    GKeep (usesOf i os) g (sourcesRead s x i os g) := GKeep.sourcesRead' s x i os (usesOf i os).wr g

theorem GKeep.vecWritten (u : Use) (g : Group) (d : Sel) (wide : Bool) (m : LaneMask) (r : Nat → Nat)
    (h : ∀ n, d = .v n → keyV n ∈ u.wr ∧ (wide = true → keyV (n + 1) ∈ u.wr)) : GKeep u g (vecWritten g d wide m r) := by
  unfold Sys2Proof.vecWritten
  cases d with
  | v n =>
    dsimp only
    obtain ⟨h1, h2⟩ := h n rfl
    cases wide
    · exact .writeV _ _ _ _ _ h1
    · exact (GKeep.writeV _ _ _ _ _ h1).trans (.writeV _ _ _ _ _ (h2 rfl))
  | _ => exact .refl _ _

theorem GKeep.scalarWritten (u : Use) (g : Group) (n : Nat) (wide : Bool) (r : Nat) (h1 : keyS n ∈ u.wr)
    (h2 : wide = true → keyS (n + 1) ∈ u.wr) : GKeep u g (scalarWritten g n wide r) := by
  unfold Sys2Proof.scalarWritten
  cases wide
  · exact .writeS _ _ _ _ h1
  · exact (GKeep.writeS _ _ _ _ h1).trans (.writeS _ _ _ _ (h2 rfl))

theorem GKeep.to_keeps {x : Ctx} {t : State} {u : Use} {g : Group} (ht : grp t x.gid = some g) (k : GKeep u x.g g) :
    GroupKeeps x t u := ⟨g, ht, k.v, k.s, k.note, k.queues, k.rest⟩

/-! ### The split table along a chain -/

theorem frag?_modFrag_self (g : Group) (fi : Nat) (h : Frag → Frag) : (g.modFrag fi h).frag? fi = (g.frag? fi).map h := by
  unfold Group.modFrag
  split
  · rename_i f hf
    simp [Group.frag?, hf]
  · rename_i hn
    have : g.frag? fi = none := by
      unfold Group.frag?
      split
      · rename_i f hf; exact absurd hf (hn f)
      · rfl
    rw [this]; rfl

theorem split_modFrag_ne (g : Group) (fi k : Nat) (h : Frag → Frag) (hk : k ≠ fi) :
    Tab.get? (g.modFrag fi h).split k = Tab.get? g.split k := by
  unfold Group.modFrag
  split
  · exact Tab.get?_set_ne _ _ hk
  · rfl

@[simp] theorem split_writeV (g : Group) (n : Nat) (m : LaneMask) (h : Nat → Word) : (g.writeV n m h).split = g.split := by
  unfold Group.writeV; split <;> rfl

@[simp] theorem hmode_writeV (g : Group) (n : Nat) (m : LaneMask) (h : Nat → Word) : (g.writeV n m h).hmode = g.hmode := by
  unfold Group.writeV; split <;> rfl

@[simp] theorem sticky_writeV (g : Group) (n : Nat) (m : LaneMask) (h : Nat → Word) : (g.writeV n m h).sticky = g.sticky := by
  unfold Group.writeV; split <;> rfl

@[simp] theorem hmode_modFrag (g : Group) (fi : Nat) (h : Frag → Frag) : (g.modFrag fi h).hmode = g.hmode := by
  unfold Group.modFrag; split <;> rfl

/-- Writing a fragment where a fragment stands leaves every region where it is. -/
theorem regions_set_frag (p : Nat × Region → Bool) (t : Tab SplitEntry) (k : Nat) (f g : Frag)
    (h : Tab.get? t k = some (.frag f)) :
    ((Tab.set t k (.frag g)).filterMap fun e => match e.2 with
      | .region r => if p (e.1, r) then some (e.1, r) else none
      | .frag _ => none) =
    (t.filterMap fun e => match e.2 with
      | .region r => if p (e.1, r) then some (e.1, r) else none
      | .frag _ => none) := by
  induction t with
  | nil => simp [Tab.set]
  | cons c t ih =>
    obtain ⟨k', v⟩ := c
    unfold Tab.set
    unfold Tab.get? at h
    split
    · rename_i e
      rw [if_pos e] at h
      cases h
      rfl
    · rename_i e
      rw [if_neg e] at h
      split
      · rfl
      · rw [List.filterMap_cons, List.filterMap_cons, ih h]

theorem region?_modFrag (g : Group) (fi : Nat) (h : Frag → Frag) (id : Nat) : (g.modFrag fi h).region? id = g.region? id := by
  unfold Group.modFrag
  split
  · rename_i f hf
    unfold Group.region?
    have := regions_set_frag (fun r => decide (r.2.id = id)) g.split fi f (h f) hf
    simp only [decide_eq_true_eq] at this
    exact congrArg List.head? this
  · rfl

/-- A chain of operations that changes nothing of the divergence state but the fragment itself. -/
structure GSplit (fi : Nat) (g h : Group) : Prop where
  regions : ∀ id, h.region? id = g.region? id
  others : ∀ k, k ≠ fi → Tab.get? h.split k = Tab.get? g.split k
  hmode : h.hmode = g.hmode

theorem GSplit.refl (fi : Nat) (g : Group) : GSplit fi g g := ⟨fun _ => rfl, fun _ _ => rfl, rfl⟩

theorem GSplit.trans {fi : Nat} {g h k : Group} (a : GSplit fi g h) (b : GSplit fi h k) : GSplit fi g k :=
  ⟨fun id => (b.regions id).trans (a.regions id), fun j e => (b.others j e).trans (a.others j e), b.hmode.trans a.hmode⟩

theorem GSplit.modFrag (g : Group) (fi : Nat) (f : Frag → Frag) : GSplit fi g (g.modFrag fi f) :=
  ⟨region?_modFrag g fi f, fun k e => split_modFrag_ne g fi k f e, hmode_modFrag g fi f⟩

/-- An operation that does not touch the split table. -/
theorem GSplit.same (fi : Nat) (g h : Group) (e : h.split = g.split) (m : h.hmode = g.hmode) : GSplit fi g h :=
  ⟨fun _ => by unfold Group.region?; rw [e], fun _ _ => by rw [e], m⟩

theorem frag?_congr {g h : Group} (e : h.split = g.split) (fi : Nat) : h.frag? fi = g.frag? fi := by
  unfold Group.frag?; rw [e]

/-- A fragment that does not stand at its region's reconvergence point stays where it is. -/
theorem settleAt_alone (n : Nat) (g : Group) (clock fi : Nat) (f : Frag) (hf : g.frag? fi = some f)
    (hr : ∀ id ri r, f.region = some id → g.region? id = some (ri, r) → r.rpc ≠ f.pc) :
    settleAt n g clock fi = g := by
  cases n with
  | zero => rfl
  | succ n =>
    unfold settleAt
    simp only [hf]
    cases he : f.region with
    | none => rfl
    | some id =>
      dsimp only
      cases hq : g.region? id with
      | none => rfl
      | some c =>
        obtain ⟨ri, r⟩ := c
        dsimp only
        rw [if_neg (hr id ri r he hq)]

/-- The fragment after an instruction that does not branch. -/
def goneOn (x : Ctx) (len : Nat) (clock : Nat) (sp : Bool) (f : Frag) : Frag :=
  if x.f.isLast len then
    { issued f clock sp with yielded := bitAt x.f.hdr.toNat 27, pc := x.f.fallThrough, hdr := 0, words := [], idx := 0,
                             resume := none }
  else { issued f clock sp with idx := x.f.idx + len }

theorem advanced_apart {x : Ctx} {len : Nat} (clock : Nat) (sp : Bool) {g : Group} {f : Frag}
    (ha : x.f.isLast len = false ∨ ¬ MeetsRpc x x.f.fallThrough) (hf : g.frag? x.fi = some f) (hr : f.region = x.f.region)
    (hg : ∀ id, g.region? id = x.g.region? id) :
    (advanced clock x len sp g).frag? x.fi = some (goneOn x len clock sp f) ∧ GSplit x.fi g (advanced clock x len sp g) := by
  have hf0 : Group.frag? { g with state := ranState g.state } x.fi = some f := hf
  have e0 : GSplit x.fi g { g with state := ranState g.state } := .same _ _ _ rfl rfl
  cases hl : x.f.isLast len with
  | false =>
    simp only [advanced, goneOn, hl, Bool.false_eq_true, if_false, frag?_modFrag_self, hf0, Option.map_some]
    refine ⟨?_, (e0.trans (.modFrag _ _ _)).trans (.modFrag _ _ _)⟩
    all_goals trivial
  | true =>
    have hn : ¬ MeetsRpc x x.f.fallThrough := by
      rcases ha with h | h
      · rw [hl] at h; cases h
      · exact h
    simp only [advanced, goneOn, hl, if_true, gotoIn]
    rw [settleAt_alone 66 _ clock x.fi _ (by simp only [frag?_modFrag_self, hf0, Option.map_some]; rfl)
      (by
        intro id ri r h1 h2 h3
        simp only [region?_modFrag] at h2
        refine hn ⟨id, ri, r, ?_, ?_, h3.trans rfl⟩
        · rw [← hr]; exact h1
        · rw [← hg]; exact h2)]
    simp only [frag?_modFrag_self, hf0, Option.map_some]
    refine ⟨?_, ((e0.trans (.modFrag _ _ _)).trans (.modFrag _ _ _)).trans (.modFrag _ _ _)⟩
    all_goals trivial

/-- From the group before the advance to `GoesOn`. -/
theorem goesOn_of {x : Ctx} {t : State} {len hold clock : Nat} {sp : Bool} {g : Group} {f : Frag}
    (ht : grp t x.gid = some (advanced clock x len sp g)) (hf : g.frag? x.fi = some f) (hs : GSplit x.fi x.g g)
    (hm : f.members = x.f.members) (hd : f.depth = x.f.depth) (hr : f.region = x.f.region) (hpc : f.pc = x.f.pc)
    (hc : f.count = x.f.count)
    (hl : ∀ n, n + 1 ≠ hold → Tab.get? f.latches n = Tab.get? x.f.latches n) :
    GoesOn x t len hold f.scc f.carry f.exec := by
  intro ha
  obtain ⟨h1, h2⟩ := advanced_apart clock sp ha hf hr hs.regions
  refine ⟨_, _, ht, h1, ?_, ?_, ?_, ?_, ?_, ?_, ?_, ?_, ?_, ?_, ?_, ?_, ?_⟩
  case refine_1 => unfold goneOn; split <;> rfl
  case refine_2 => unfold goneOn; split <;> rfl
  case refine_3 => unfold goneOn; split <;> rfl
  case refine_4 => unfold goneOn; split <;> rfl
  case refine_5 => unfold goneOn issued; split <;> simp [hc]
  case refine_6 => unfold goneOn; split <;> exact hm
  case refine_7 => unfold goneOn; split <;> exact hd
  case refine_8 => unfold goneOn; split <;> exact hr
  case refine_9 => intro e; simp [goneOn, e]
  case refine_10 => intro e; simp [goneOn, e, issued, hpc]
  case refine_11 => intro n hn; have := hl n hn; unfold goneOn issued; split <;> exact this
  case refine_12 => exact fun k hk => (hs.trans h2).others k hk
  case refine_13 => exact (hs.trans h2).hmode

/-! ### The whole step of a vector instruction -/

theorem frag?_sourcesRead (s : State) (x : Ctx) (i : AluI) (os : Opnds) (h : x.g.frag? x.fi = some x.f) :
    ∃ f, (sourcesRead s x i os x.g).frag? x.fi = some f ∧
      f = { x.f with latches := f.latches } ∧ (∀ n, n + 1 ≠ i.hold → Tab.get? f.latches n = Tab.get? x.f.latches n) := by
  unfold sourcesRead
  dsimp only
  have h1 : (useNotes (popQueues x.g (usesOf i os).qs) (usesOf i os).rd).frag? x.fi = some x.f := h
  cases hc : captured s x i os with
  | none => exact ⟨x.f, h1, rfl, fun _ _ => rfl⟩
  | some c =>
    dsimp only
    refine ⟨{ x.f with latches := Tab.set x.f.latches c.1 c.2 }, ?_, rfl, ?_⟩
    · rw [frag?_modFrag_self, h1]; rfl
    · intro n hn
      refine Tab.get?_set_ne _ _ ?_
      have : c.1 = i.hold - 1 ∧ i.hold ≠ 0 := by
        unfold captured at hc
        split at hc
        · cases hc
        · rename_i fld hf
          split at hc
          · cases hc
          · cases hc
            refine ⟨rfl, fun e => ?_⟩
            rw [e] at hf
            cases hf
      omega

theorem split_sourcesRead (s : State) (x : Ctx) (i : AluI) (os : Opnds) (g : Group) :
    GSplit x.fi g (sourcesRead s x i os g) := by
  unfold sourcesRead
  dsimp only
  have h1 : GSplit x.fi g (useNotes (popQueues g (usesOf i os).qs) (usesOf i os).rd) := .same _ _ _ rfl rfl
  cases captured s x i os with
  | none => exact h1
  | some c => exact h1.trans (.modFrag _ _ _)

@[simp] theorem split_vecWritten (g : Group) (d : Sel) (wide : Bool) (m : LaneMask) (r : Nat → Nat) :
    (vecWritten g d wide m r).split = g.split := by
  unfold vecWritten
  cases d <;> try rfl
  cases wide
  · exact split_writeV _ _ _ _
  · simp

@[simp] theorem hmode_vecWritten (g : Group) (d : Sel) (wide : Bool) (m : LaneMask) (r : Nat → Nat) :
    (vecWritten g d wide m r).hmode = g.hmode := by
  unfold vecWritten
  cases d <;> try rfl
  cases wide
  · exact hmode_writeV _ _ _ _
  · simp

@[simp] theorem sticky_vecWritten (g : Group) (d : Sel) (wide : Bool) (m : LaneMask) (r : Nat → Nat) :
    (vecWritten g d wide m r).sticky = g.sticky := by
  unfold vecWritten
  cases d <;> try rfl
  cases wide
  · exact sticky_writeV _ _ _ _
  · simp

theorem v_modFrag (g : Group) (fi : Nat) (f : Frag → Frag) : (g.modFrag fi f).v = g.v := by rw [modFrag_light]
theorem s_modFrag (g : Group) (fi : Nat) (f : Frag → Frag) : (g.modFrag fi f).s = g.s := by rw [modFrag_light]
theorem sticky_modFrag (g : Group) (fi : Nat) (f : Frag → Frag) : (g.modFrag fi f).sticky = g.sticky := by
  unfold Group.modFrag; split <;> rfl

/-- Registers and sticky flags are no part of the divergence. -/
structure GRegs (g h : Group) : Prop where
  v : h.v = g.v
  s : h.s = g.s
  sticky : h.sticky = g.sticky

theorem GRegs.refl (g : Group) : GRegs g g := ⟨rfl, rfl, rfl⟩

theorem GRegs.trans {g h k : Group} (a : GRegs g h) (b : GRegs h k) : GRegs g k :=
  ⟨b.v.trans a.v, b.s.trans a.s, b.sticky.trans a.sticky⟩

theorem GRegs.modFrag (g : Group) (fi : Nat) (f : Frag → Frag) : GRegs g (g.modFrag fi f) :=
  ⟨v_modFrag _ _ _, s_modFrag _ _ _, sticky_modFrag _ _ _⟩

theorem GRegs.fuse (g : Group) (clock ri : Nat) (r : Region) : GRegs g (fuse g clock ri r).1 := by
  unfold Sys2Proof.Machine.fuse
  dsimp only
  split <;> exact ⟨rfl, rfl, rfl⟩

theorem GRegs.settleAt (n : Nat) (g : Group) (clock fi : Nat) : GRegs g (settleAt n g clock fi) := by
  induction n generalizing g fi with
  | zero => exact .refl _
  | succ n ih =>
    unfold Sys2Proof.Machine.settleAt
    split
    · exact .refl _
    · split
      · exact .refl _
      · split
        · exact .refl _
        · rename_i f _ _ _ _ _ ri r _
          split
          · have ha : GRegs g (arrive g fi f ri r) := ⟨rfl, rfl, rfl⟩
            dsimp only
            split
            · have hf := GRegs.fuse (arrive g fi f ri r) clock ri { r with arrived := r.arrived ||| f.members }
              split
              · rename_i heq
                rw [heq] at hf
                exact (ha.trans hf).trans (ih _ _)
              · rename_i heq
                rw [heq] at hf
                exact ha.trans hf
            · exact ha
          · exact .refl _

theorem GRegs.advanced (clock : Nat) (x : Ctx) (len : Nat) (sp : Bool) (g : Group) :
    GRegs g (advanced clock x len sp g) := by
  unfold Sys2Proof.advanced
  dsimp only
  have h0 : GRegs g { g with state := ranState g.state } := ⟨rfl, rfl, rfl⟩
  split
  · exact ((h0.trans (.modFrag _ _ _)).trans (.modFrag _ _ _)).trans ((GRegs.modFrag _ _ _).trans (.settleAt _ _ _ _))
  · exact (h0.trans (.modFrag _ _ _)).trans (.modFrag _ _ _)

theorem GRegs.sourcesRead (s : State) (x : Ctx) (i : AluI) (os : Opnds) (g : Group) :
    GRegs g (sourcesRead s x i os g) := by
  unfold Sys2Proof.sourcesRead
  dsimp only
  have h1 : GRegs g (useNotes (popQueues g (usesOf i os).qs) (usesOf i os).rd) := ⟨rfl, rfl, rfl⟩
  cases captured s x i os with
  | none => exact h1
  | some c => exact h1.trans (.modFrag _ _ _)

theorem vlane_congr {g h : Group} (e : h.v = g.v) (n l : Nat) : h.vlane n l = g.vlane n l := by
  unfold Group.vlane Group.vrow; rw [e]

theorem vval_congr {g h : Group} (e : h.v = g.v) (wide : Bool) (n l : Nat) : vval h wide n l = vval g wide n l := by
  unfold vval; rw [vlane_congr e, vlane_congr e]

theorem sreg_congr {g h : Group} (e : h.s = g.s) (n : Nat) : h.sreg n = g.sreg n := by
  unfold Group.sreg; rw [e]

theorem sval_congr {g h : Group} (e : h.s = g.s) (wide : Bool) (n : Nat) : sval h wide n = sval g wide n := by
  unfold sval Group.spair; rw [sreg_congr e, sreg_congr e]

theorem vlane_writeV_self (g : Group) (n : Nat) (m : LaneMask) (h : Nat → Word) (l : Nat) (hl : l < 64) :
    (g.writeV n m h).vlane n l = if inMask m l then h l else g.vlane n l := by
  unfold Group.writeV
  split
  · rename_i hm
    simp [inMask, hm]
  · simp [Group.vlane, Group.vrow, nth, hl]

theorem vlane_writeV_ne (g : Group) (n k : Nat) (m : LaneMask) (h : Nat → Word) (l : Nat) (hk : k ≠ n) :
    (g.writeV n m h).vlane k l = g.vlane k l := by
  unfold Group.writeV
  split
  · rfl
  · simp only [Group.vlane, Group.vrow, Tab.getD_set_ne _ _ _ hk]

theorem pairOf_toNat (a b : Word) : (pairOf a b).toNat = a.toNat + b.toNat * 2 ^ 32 := by
  unfold pairOf
  have ha := a.isLt
  have hb := b.isLt
  rw [BitVec.toNat_ofNat]
  omega

theorem pair_halves (r : Nat) : r % 2 ^ 32 + r / 2 ^ 32 % 2 ^ 32 * 2 ^ 32 = r % 2 ^ 64 := by omega

theorem vval_vecWritten (g : Group) (n : Nat) (wide : Bool) (m : LaneMask) (r : Nat → Nat) (l : Nat) (hl : l < 64) :
    vval (vecWritten g (.v n) wide m r) wide n l = if inMask m l then r l % 2 ^ bitsOf wide else vval g wide n l := by
  cases wide
  · simp only [vval, vecWritten, bitsOf, Bool.false_eq_true, if_false, vlane_writeV_self _ _ _ _ _ hl]
    split <;> simp
  · simp only [vval, vecWritten, bitsOf, if_true, vlane_writeV_self _ _ _ _ _ hl,
      vlane_writeV_ne _ (n + 1) n _ _ l (by omega), vlane_writeV_ne _ n (n + 1) _ _ l (by omega)]
    split
    · simp only [pairOf_toNat, BitVec.toNat_ofNat]; exact pair_halves _
    · rfl

theorem sreg_writeS_self (g : Group) (n : Nat) (y : Word) : (g.writeS n y).sreg n = y := by
  simp [Group.writeS, Group.sreg]

theorem sreg_writeS_ne (g : Group) (n k : Nat) (y : Word) (hk : k ≠ n) : (g.writeS n y).sreg k = g.sreg k := by
  simp only [Group.writeS, Group.sreg, Tab.getD_set_ne _ _ _ hk]

theorem sval_scalarWritten (g : Group) (n : Nat) (wide : Bool) (r : Nat) :
    sval (scalarWritten g n wide r) wide n = r % 2 ^ bitsOf wide := by
  cases wide
  · simp [sval, scalarWritten, bitsOf, sreg_writeS_self]
  · simp only [sval, scalarWritten, bitsOf, if_true, Group.spair, sreg_writeS_self,
      sreg_writeS_ne _ (n + 1) n _ (by omega), pairOf_toNat, BitVec.toNat_ofNat]
    exact pair_halves _

/-- A vector instruction that passes its checks does what `VecStep` says. -/
theorem runVec_step {s : State} {x : Ctx} {i : AluI} {ok : Bool} {os : Opnds} (slow : Bool) (ty : OpTy) {wide : Bool}
    (lane : (Fld → Nat) → Nat → Nat × Nat) (h : Ready s x ok (usesOf i os))
    (hd : ∀ n, i.d = .v n → keyV n ∈ (usesOf i os).wr ∧ (wide = true → keyV (n + 1) ∈ (usesOf i os).wr)) :
    VecStep s x i os wide (fun l => (lane (fun fld => opVal s x i os fld l) l).1)
      (fun l => (lane (fun fld => opVal s x i os fld l) l).2) (runVec s i ok os slow ty wide lane) := by
  obtain ⟨_, hg, _, hf⟩ := issuer_spec h.1
  unfold runVec
  rw [runAlu_go h]
  dsimp only
  generalize hb : baseBeats slow ty + bankBeats (vectorReads i os) = beats
  generalize hr : (fun l => (lane (fun fld => opVal s x i os fld l) l).1) = r
  generalize hst : stickyOf x.f.exec (fun l => (lane (fun fld => opVal s x i os fld l) l).2) = st
  let g2 : Group := vecWritten (sourcesRead s x i os x.g) i.d wide x.f.exec r
  let g3 : Group := { g2 with sticky := g2.sticky ||| st }
  have ht : grp (advance (orSticky (writeVec (occupy (readSources s x i os) x beats) x i.d wide x.f.exec r) x.gid st) x i.len
      i.sp.isSome) x.gid = some (advanced (orSticky (writeVec (occupy (readSources s x i os) x beats) x i.d wide x.f.exec r)
      x.gid st).clock x i.len i.sp.isSome g3) := by
    rw [grp_advance, grp_orSticky, grp_writeVec, grp_occupy, grp_readSources]
    simp only [grp, hg, Option.map_some]
    rfl
  have k2 : GKeep (usesOf i os) x.g g3 :=
    ((GKeep.sourcesRead s x i os x.g).trans (.vecWritten _ _ _ _ _ _ hd)).trans (.light _ _ _ rfl)
  refine ⟨_, rfl, ?_, ?_, GKeep.to_keeps ht (k2.trans (.advanced _ _ _ _ _ _)), ?_, ?_⟩
  · intro n hn
    refine ⟨_, ht, fun l hl => ?_⟩
    rw [vval_congr (GRegs.advanced _ _ _ _ _).v]
    show vval g2 wide n l = _
    simp only [g2, hn]
    rw [vval_vecWritten _ _ _ _ _ _ hl, vval_congr (GRegs.sourcesRead _ _ _ _ _).v]
  · exact (((regs_readSources _ _ _ _).trans (regs_occupy _ _ _)).trans (regs_writeVec _ _ _ _ _ _)).trans
      ((regs_orSticky _ _ _).trans (regs_advance _ _ _ _))
  · refine ⟨_, ht, ?_⟩
    rw [(GRegs.advanced _ _ _ _ _).sticky]
    show g2.sticky ||| st = _
    simp only [g2, sticky_vecWritten, (GRegs.sourcesRead s x i os x.g).sticky, hst]
  · obtain ⟨f, h1, h2, h3⟩ := frag?_sourcesRead s x i os hf
    have hf3 : g3.frag? x.fi = some f := by
      rw [← h1]; exact frag?_congr (by simp [g3, g2]) _
    have hs3 : GSplit x.fi x.g g3 := (split_sourcesRead s x i os x.g).trans (.same _ _ _ (by simp [g3, g2]) (by simp [g3, g2]))
    have := goesOn_of (hold := i.hold) ht hf3 hs3 (by rw [h2]) (by rw [h2]) (by rw [h2]) (by rw [h2]) (by rw [h2]) h3
    rw [h2] at this
    exact this

/-! ### The whole step of a uniform instruction -/

/-- What a uniform instruction makes of its group before the advance: SCC, CARRY, the sticky bits, then the destination. -/
def uniWritten (x : Ctx) (d : Sel) (wide : Bool) (r st : Nat) (scc carry : Option Bool) (g : Group) : Group :=
  let g1 := match scc with
    | some b => g.modFrag x.fi fun f => { f with scc := b }
    | none => g
  let g2 := match carry with
    | some b => g1.modFrag x.fi fun f => { f with carry := b }
    | none => g1
  let g3 : Group := { g2 with sticky := g2.sticky ||| st }
  match d with
  | .s n => scalarWritten g3 n wide r
  | .exec => g3.modFrag x.fi fun f => { f with exec := BitVec.ofNat 64 r &&& f.members }
  | .flags =>
    Group.modFrag { g3 with sticky := r % 256 - r % 4 } x.fi fun f => { f with scc := bitAt r 0, carry := bitAt r 1 }
  | _ => g3

theorem split_scalarWritten (g : Group) (n : Nat) (wide : Bool) (r : Nat) : (scalarWritten g n wide r).split = g.split := by
  unfold scalarWritten; cases wide <;> rfl
theorem hmode_scalarWritten (g : Group) (n : Nat) (wide : Bool) (r : Nat) : (scalarWritten g n wide r).hmode = g.hmode := by
  unfold scalarWritten; cases wide <;> rfl
theorem sticky_scalarWritten (g : Group) (n : Nat) (wide : Bool) (r : Nat) : (scalarWritten g n wide r).sticky = g.sticky := by
  unfold scalarWritten; cases wide <;> rfl

theorem grp_setScc (s : State) (x : Ctx) (b : Bool) :
    grp (setScc s x b) x.gid = (grp s x.gid).map fun g => g.modFrag x.fi fun f => { f with scc := b } := grp_modFrag _ _ _ _
theorem grp_setCarry (s : State) (x : Ctx) (b : Bool) :
    grp (setCarry s x b) x.gid = (grp s x.gid).map fun g => g.modFrag x.fi fun f => { f with carry := b } := grp_modFrag _ _ _ _

/-- The effect of a uniform instruction on a state. -/
def uniEffect (s1 : State) (x : Ctx) (d : Sel) (wide : Bool) (r st : Nat) (scc carry : Option Bool) : State :=
  let s2 := match scc with
    | some b => setScc s1 x b
    | none => s1
  let s3 := match carry with
    | some b => setCarry s2 x b
    | none => s2
  writeUni (orSticky s3 x.gid st) x d wide r

theorem grp_uniEffect (s : State) (x : Ctx) (d : Sel) (wide : Bool) (r st : Nat) (scc carry : Option Bool) {g : Group}
    (h : grp s x.gid = some g) :
    grp (uniEffect s x d wide r st scc carry) x.gid = some (uniWritten x d wide r st scc carry g) := by
  unfold uniEffect uniWritten
  cases scc <;> cases carry <;> cases d <;> simp [writeUni, writeFlags, setScc, setCarry, h]

theorem regs_uniEffect (s : State) (x : Ctx) (d : Sel) (wide : Bool) (r st : Nat) (scc carry : Option Bool) :
    RegistersOnly x.gid s (uniEffect s x d wide r st scc carry) := by
  unfold uniEffect
  dsimp only
  refine (RegistersOnly.trans ?_ (regs_orSticky _ _ _)).trans (regs_writeUni _ _ _ _ _)
  cases scc <;> cases carry
  · exact .refl _ _
  · exact regs_setCarry _ _ _
  · exact regs_setScc _ _ _
  · exact (regs_setScc _ _ _).trans (regs_setCarry _ _ _)

/-- The fragment of `x` after the flags and EXEC are written. -/
def uniFrag (d : Sel) (r : Nat) (scc carry : Option Bool) (f : Frag) : Frag :=
  { f with scc := if d = .flags then bitAt r 0 else scc.getD f.scc, carry := if d = .flags then bitAt r 1 else carry.getD f.carry,
           exec := if d = .exec then BitVec.ofNat 64 r &&& f.members else f.exec }

theorem frag?_uniWritten (x : Ctx) (d : Sel) (wide : Bool) (r st : Nat) (scc carry : Option Bool) (g : Group) :
    (uniWritten x d wide r st scc carry g).frag? x.fi = (g.frag? x.fi).map (uniFrag d r scc carry) := by
  unfold uniWritten
  dsimp only
  generalize hg2 : (match scc with | some b => g.modFrag x.fi fun f => { f with scc := b } | none => g) = g2
  have h2 : g2.frag? x.fi = (g.frag? x.fi).map fun f => { f with scc := scc.getD f.scc } := by
    subst hg2; cases scc
    · cases g.frag? x.fi <;> rfl
    · exact frag?_modFrag_self _ _ _
  generalize hg3 : (match carry with | some b => g2.modFrag x.fi fun f => { f with carry := b } | none => g2) = g3
  have h3 : g3.frag? x.fi = (g.frag? x.fi).map fun f => { f with scc := scc.getD f.scc, carry := carry.getD f.carry } := by
    subst hg3; cases carry
    · rw [h2]; cases g.frag? x.fi <;> rfl
    · rw [frag?_modFrag_self, h2]; cases g.frag? x.fi <;> rfl
  have h4 : ∀ k, Group.frag? { g3 with sticky := k } x.fi = g3.frag? x.fi := fun _ => rfl
  cases d <;> try (show g3.frag? x.fi = _; rw [h3]; cases g.frag? x.fi <;> simp [uniFrag])
  case s n =>
    dsimp only
    rw [frag?_congr (split_scalarWritten _ _ _ _), h4, h3]; cases g.frag? x.fi <;> simp [uniFrag]
  case exec =>
    dsimp only
    rw [frag?_modFrag_self, h4, h3]; cases g.frag? x.fi <;> simp [uniFrag]
  case flags =>
    dsimp only
    rw [frag?_modFrag_self, h4, h3]; cases g.frag? x.fi <;> simp [uniFrag]

theorem split_uniWritten (x : Ctx) (d : Sel) (wide : Bool) (r st : Nat) (scc carry : Option Bool) (g : Group) :
    GSplit x.fi g (uniWritten x d wide r st scc carry g) := by
  unfold uniWritten
  dsimp only
  generalize hg2 : (match scc with | some b => g.modFrag x.fi fun f => { f with scc := b } | none => g) = g2
  have h2 : GSplit x.fi g g2 := by
    subst hg2; cases scc
    · exact .refl _ _
    · exact .modFrag _ _ _
  generalize hg3 : (match carry with | some b => g2.modFrag x.fi fun f => { f with carry := b } | none => g2) = g3
  have h3 : GSplit x.fi g g3 := by
    subst hg3; cases carry
    · exact h2
    · exact h2.trans (.modFrag _ _ _)
  have h4 : ∀ k, GSplit x.fi g { g3 with sticky := k } := fun _ => h3.trans (.same _ _ _ rfl rfl)
  cases d <;> try exact h4 _
  · exact (h4 _).trans (.same _ _ _ (split_scalarWritten _ _ _ _) (hmode_scalarWritten _ _ _ _))
  · exact (h4 _).trans (.modFrag _ _ _)
  · exact (h4 _).trans (.modFrag _ _ _)

theorem GKeep.uniWritten (u : Use) (x : Ctx) (d : Sel) (wide : Bool) (r st : Nat) (scc carry : Option Bool) (g : Group)
    (h : ∀ n, d = .s n → keyS n ∈ u.wr ∧ (wide = true → keyS (n + 1) ∈ u.wr)) :
    GKeep u g (uniWritten x d wide r st scc carry g) := by
  unfold Sys2Proof.uniWritten
  dsimp only
  generalize hg2 : (match scc with | some b => g.modFrag x.fi fun f => { f with scc := b } | none => g) = g2
  have h2 : GKeep u g g2 := by
    subst hg2; cases scc
    · exact .refl _ _
    · exact .modFrag _ _ _ _
  generalize hg3 : (match carry with | some b => g2.modFrag x.fi fun f => { f with carry := b } | none => g2) = g3
  have h3 : GKeep u g g3 := by
    subst hg3; cases carry
    · exact h2
    · exact h2.trans (.modFrag _ _ _ _)
  have h4 : ∀ k, GKeep u g { g3 with sticky := k } := fun _ => h3.trans (.light _ _ _ rfl)
  cases d <;> try exact h4 _
  case s n => exact (h4 _).trans (.scalarWritten _ _ _ _ _ (h n rfl).1 (h n rfl).2)
  case exec => exact (h4 _).trans (.modFrag _ _ _ _)
  case flags => exact (h4 _).trans (.modFrag _ _ _ _)

theorem sticky_uniWritten (x : Ctx) (d : Sel) (wide : Bool) (r st : Nat) (scc carry : Option Bool) (g : Group) :
    (uniWritten x d wide r st scc carry g).sticky = if d = .flags then r % 256 - r % 4 else g.sticky ||| st := by
  unfold uniWritten
  dsimp only
  generalize hg2 : (match scc with | some b => g.modFrag x.fi fun f => { f with scc := b } | none => g) = g2
  have h2 : g2.sticky = g.sticky := by
    subst hg2; cases scc
    · rfl
    · exact sticky_modFrag _ _ _
  generalize hg3 : (match carry with | some b => g2.modFrag x.fi fun f => { f with carry := b } | none => g2) = g3
  have h3 : g3.sticky = g.sticky := by
    subst hg3; cases carry
    · exact h2
    · exact (sticky_modFrag _ _ _).trans h2
  cases d <;> try (simp [h3])
  · exact sticky_scalarWritten _ _ _ _
  · exact sticky_modFrag _ _ _
  · exact sticky_modFrag _ _ _

/-- A uniform instruction that passes its checks does what `UniStep` says. -/
theorem runUni_step {s : State} {x : Ctx} {i : AluI} {ok : Bool} {os : Opnds} {wide : Bool}
    (eff : Ctx → (Fld → Nat) → Nat × Nat × Option Bool × Option Bool) (h : Ready s x ok (usesOf i os))
    (hd : ∀ n, i.d = .s n → keyS n ∈ (usesOf i os).wr ∧ (wide = true → keyS (n + 1) ∈ (usesOf i os).wr)) :
    UniStep s x i os wide (eff x fun fld => opVal s x i os fld 0).1 (eff x fun fld => opVal s x i os fld 0).2.1
      ((eff x fun fld => opVal s x i os fld 0).2.2.1.getD x.f.scc) ((eff x fun fld => opVal s x i os fld 0).2.2.2.getD x.f.carry)
      (runUni s i ok os wide eff) := by
  obtain ⟨_, hg, _, hf⟩ := issuer_spec h.1
  unfold runUni
  rw [runAlu_go h]
  dsimp only
  generalize (eff x fun fld => opVal s x i os fld 0) = e
  obtain ⟨r, st, scc, carry⟩ := e
  let g3 : Group := uniWritten x i.d wide r st scc carry (sourcesRead s x i os x.g)
  have hg3 : grp (uniEffect (readSources s x i os) x i.d wide r st scc carry) x.gid = some g3 :=
    grp_uniEffect _ _ _ _ _ _ _ _ (by rw [grp_readSources]; simp only [grp, hg, Option.map_some])
  show UniStep s x i os wide r st (scc.getD x.f.scc) (carry.getD x.f.carry)
    (.next (advance (uniEffect (readSources s x i os) x i.d wide r st scc carry) x i.len i.sp.isSome))
  generalize huu : uniEffect (readSources s x i os) x i.d wide r st scc carry = u at hg3
  have ht : grp (advance u x i.len i.sp.isSome) x.gid = some (advanced u.clock x i.len i.sp.isSome g3) := by
    rw [grp_advance, hg3]; rfl
  have k2 : GKeep (usesOf i os) x.g g3 := (GKeep.sourcesRead s x i os x.g).trans (.uniWritten _ _ _ _ _ _ _ _ _ hd)
  refine ⟨_, rfl, ?_, ?_, GKeep.to_keeps ht (k2.trans (.advanced _ _ _ _ _ _)), ?_, ?_⟩
  · intro n hn
    refine ⟨_, ht, ?_⟩
    rw [sval_congr (GRegs.advanced _ _ _ _ _).s]
    simp only [g3, hn]
    exact sval_scalarWritten _ _ _ _
  · subst huu
    exact ((regs_readSources _ _ _ _).trans (regs_uniEffect _ _ _ _ _ _ _ _)).trans (regs_advance _ _ _ _)
  · refine ⟨_, ht, ?_⟩
    rw [(GRegs.advanced _ _ _ _ _).sticky, sticky_uniWritten, (GRegs.sourcesRead s x i os x.g).sticky]
  · obtain ⟨f, h1, h2, h3⟩ := frag?_sourcesRead s x i os hf
    have hf3 : g3.frag? x.fi = some (uniFrag i.d r scc carry f) := by rw [frag?_uniWritten, h1]; rfl
    have hs3 : GSplit x.fi x.g g3 := (split_sourcesRead s x i os x.g).trans (split_uniWritten _ _ _ _ _ _ _ _)
    have := goesOn_of (hold := i.hold) ht hf3 hs3 (by rw [h2]; rfl) (by rw [h2]; rfl) (by rw [h2]; rfl) (by rw [h2]; rfl)
      (by rw [h2]; rfl) h3
    rw [h2] at this
    exact this

/-! ### What the destination operand asks -/

theorem foldl_use (i : AluI) (os : Opnds) (a : Use) :
    (∀ k, k ∈ a.wr → k ∈ (os.foldl (fun acc o => Use.and acc (useOf o.2 (i.fld o.1))) a).wr) ∧
    (a.bad = true → (os.foldl (fun acc o => Use.and acc (useOf o.2 (i.fld o.1))) a).bad = true) := by
  induction os generalizing a with
  | nil => exact ⟨fun _ h => h, fun h => h⟩
  | cons o r ih =>
    rw [List.foldl_cons]
    refine ⟨fun k hk => (ih _).1 k ?_, fun hb => (ih _).2 ?_⟩
    · simp [Use.and, hk]
    · simp [Use.and, hb]

theorem use_of_mem {i : AluI} {os : Opnds} {o : Fld × Kind} (h : o ∈ os) (a : Use) :
    (∀ k, k ∈ (useOf o.2 (i.fld o.1)).wr → k ∈ (os.foldl (fun acc o => Use.and acc (useOf o.2 (i.fld o.1))) a).wr) ∧
    ((useOf o.2 (i.fld o.1)).bad = true → (os.foldl (fun acc o => Use.and acc (useOf o.2 (i.fld o.1))) a).bad = true) := by
  induction os generalizing a with
  | nil => cases h
  | cons q r ih =>
    rw [List.foldl_cons]
    rcases List.mem_cons.1 h with e | e
    · subst e
      refine ⟨fun k hk => (foldl_use i r _).1 k ?_, fun hb => (foldl_use i r _).2 ?_⟩
      · simp [Use.and, hk]
      · simp [Use.and, hb]
    · exact ih e _

/-- An instruction that passes its checks has no operand that takes ILLOPND. -/
theorem Ready.not_bad {s : State} {x : Ctx} {ok : Bool} {u : Use} (h : Ready s x ok u) : u.bad = false := by
  have h3 := h.2.2
  unfold operandGate at h3
  cases hb : u.bad
  · rfl
  · simp [hb] at h3

theorem wr_of_mem {s : State} {x : Ctx} {ok : Bool} {i : AluI} {os : Opnds} (h : Ready s x ok (usesOf i os))
    {o : Fld × Kind} (ho : o ∈ os) :
    (useOf o.2 (i.fld o.1)).bad = false ∧ ∀ k, k ∈ (useOf o.2 (i.fld o.1)).wr → k ∈ (usesOf i os).wr := by
  have hb := h.not_bad
  obtain ⟨h1, h2⟩ := use_of_mem (i := i) ho Use.none
  unfold usesOf at hb ⊢
  dsimp only at hb ⊢
  split at hb
  · rename_i hh
    rw [if_pos hh]
    refine ⟨?_, h1⟩
    cases hc : (useOf o.2 (i.fld o.1)).bad
    · rfl
    · rw [h2 hc] at hb; cases hb
  · cases hb

theorem key_span (f : Nat → Nat) (wide : Bool) (n : Nat) : f n ∈ (span wide n).map f := by
  cases wide <;> simp [span]

theorem key_span_succ (f : Nat → Nat) (n : Nat) : f (n + 1) ∈ (span true n).map f := by simp [span]

/-- The keys of a vector destination are among those written. -/
theorem dstV_wr {s : State} {x : Ctx} {ok : Bool} {i : AluI} {os : Opnds} (h : Ready s x ok (usesOf i os)) {t : OpTy}
    {rd : Bool} (ho : (Fld.d, Kind.dstV t rd) ∈ os) :
    ∀ n, i.d = .v n → keyV n ∈ (usesOf i os).wr ∧ (t.wide = true → keyV (n + 1) ∈ (usesOf i os).wr) := by
  intro n hn
  obtain ⟨h1, h2⟩ := wr_of_mem h ho
  simp only [AluI.fld, hn, useOf] at h1 h2
  split at h1
  · cases h1
  · rename_i hc
    rw [if_neg hc] at h2
    exact ⟨h2 _ (key_span _ _ _), fun e => h2 _ (by rw [e]; exact key_span_succ _ _)⟩

/-- The keys of a uniform destination are among those written. -/
theorem dstU_wr {s : State} {x : Ctx} {ok : Bool} {i : AluI} {os : Opnds} (h : Ready s x ok (usesOf i os)) {t : OpTy}
    {rd : Bool} (ho : (Fld.d, Kind.dstU t rd) ∈ os) :
    ∀ n, i.d = .s n → keyS n ∈ (usesOf i os).wr ∧ (t.wide = true → keyS (n + 1) ∈ (usesOf i os).wr) := by
  intro n hn
  obtain ⟨h1, h2⟩ := wr_of_mem h ho
  simp only [AluI.fld, hn, useOf] at h1 h2
  split at h1
  · cases h1
  · rename_i hc
    rw [if_neg hc] at h2
    exact ⟨h2 _ (key_span _ _ _), fun e => h2 _ (by rw [e]; exact key_span_succ _ _)⟩

/-- The keys of an S destination are among those written. -/
theorem dstS_wr {s : State} {x : Ctx} {ok : Bool} {i : AluI} {os : Opnds} (h : Ready s x ok (usesOf i os)) {wide null : Bool}
    (ho : (Fld.d, Kind.dstS wide null) ∈ os) :
    ∀ n, i.d = .s n → keyS n ∈ (usesOf i os).wr ∧ (wide = true → keyS (n + 1) ∈ (usesOf i os).wr) := by
  intro n hn
  obtain ⟨h1, h2⟩ := wr_of_mem h ho
  simp only [AluI.fld, hn, useOf] at h1 h2
  split at h1
  · cases h1
  · rename_i hc
    rw [if_neg hc] at h2
    exact ⟨h2 _ (key_span _ _ _), fun e => h2 _ (by rw [e]; exact key_span_succ _ _)⟩

/-- An arithmetic instruction with any effect `e` on registers, whose group becomes `G` of what reading the sources makes of it. -/
theorem alu_done {s : State} {x : Ctx} {i : AluI} {ok : Bool} {os : Opnds} {w : List Nat} {e : State → State} {G : Group}
    (h : Ready s x ok (usesOf i os))
    (he : ∀ u, grp u x.gid = some (sourcesRead s x i os x.g) → grp (e u) x.gid = some G)
    (hr : RegistersOnly x.gid (readSources s x i os) (e (readSources s x i os)))
    (hk : GKeep { usesOf i os with wr := w } (sourcesRead s x i os x.g) G)
    (hs : G.split = (sourcesRead s x i os x.g).split) (hm : G.hmode = (sourcesRead s x i os x.g).hmode)
    {t : State} (ht : t = advance (e (readSources s x i os)) x i.len i.sp.isSome) :
    RegistersOnly x.gid s t ∧ GroupKeeps x t { usesOf i os with wr := w } ∧
      (∃ g, Tab.get? t.groups x.gid = some g ∧ GRegs G g) ∧ GoesOn x t i.len i.hold x.f.scc x.f.carry x.f.exec := by
  obtain ⟨_, hg, _, hf⟩ := issuer_spec h.1
  have h0 : grp (readSources s x i os) x.gid = some (sourcesRead s x i os x.g) := by
    rw [grp_readSources]; simp only [grp, hg, Option.map_some]
  have h1 := he _ h0
  generalize e (readSources s x i os) = u at *
  have h2 : grp t x.gid = some (advanced u.clock x i.len i.sp.isSome G) := by
    rw [ht, grp_advance, h1]; rfl
  refine ⟨?_, GKeep.to_keeps h2 (((GKeep.sourcesRead' s x i os w x.g).trans hk).trans (.advanced _ _ _ _ _ _)),
    ⟨_, h2, GRegs.advanced _ _ _ _ _⟩, ?_⟩
  · rw [ht]; exact ((regs_readSources _ _ _ _).trans hr).trans (regs_advance _ _ _ _)
  · obtain ⟨f, k1, k2, k3⟩ := frag?_sourcesRead s x i os hf
    have hf3 : G.frag? x.fi = some f := by rw [← k1]; exact frag?_congr hs _
    have hs3 : GSplit x.fi x.g G := (split_sourcesRead s x i os x.g).trans (.same _ _ _ hs hm)
    have := goesOn_of (hold := i.hold) h2 hf3 hs3 (by rw [k2]) (by rw [k2]) (by rw [k2]) (by rw [k2]) (by rw [k2]) k3
    rw [k2] at this
    exact this

end Sys2Proof
end

