-- ==== Sys2Proof/Laws/Does.lean ====
section
/-! SUPPORT. From the shared shapes of issue to the clauses of the statements: a vector instruction, a uniform instruction. -/

namespace Sys2Proof

open Sys2Proof.Machine

/-- Results that agree at the width written, and equal sticky bits. -/
theorem VecStep.congr {s : State} {x : Ctx} {i : AluI} {os : Opnds} {wide : Bool} {r q st su : Nat → Nat} {o : Answer}
    (h : VecStep s x i os wide r st o) (e : ∀ l, r l % 2 ^ bitsOf wide = q l % 2 ^ bitsOf wide) (e2 : ∀ l, st l = su l) :
    VecStep s x i os wide q su o := by
  obtain ⟨t, h1, h2, h3, h4, h5, h6⟩ := h
  refine ⟨t, h1, ?_, h3, h4, ?_, h6⟩
  · intro n hn
    obtain ⟨g, hg, hl⟩ := h2 n hn
    exact ⟨g, hg, fun l hl2 => by rw [hl l hl2, e]⟩
  · rw [show su = st from funext fun l => (e2 l).symm]; exact h5

/-- A vector instruction whose meaning is `runVec` of `lane` does what a clause says that agrees with `lane`. -/
theorem vecDoes_lane {s : State} {x : Ctx} {i : Instr} {v : AluI} {os : Opnds} {wide : Bool} {r st : (Fld → Nat) → Nat → Nat}
    {slow : Bool} {ty : OpTy} (lane : (Fld → Nat) → Nat → Nat × Nat)
    (he : exec i s = runVec s v (fieldsOk i) os slow ty wide lane) {t : OpTy} {rd : Bool}
    (hm : (Fld.d, Kind.dstV t rd) ∈ os) (hw : t.wide = wide)
    (hr : ∀ (o : Fld → Nat) l, (lane o l).1 % 2 ^ bitsOf wide = r o l % 2 ^ bitsOf wide)
    (hs : ∀ (o : Fld → Nat) l, (lane o l).2 = st o l) : VecDoes s x i v os wide r st := by
  intro h
  subst hw
  rw [he]
  exact (runVec_step slow ty lane h (dstV_wr h hm)).congr (fun l => hr _ l) (fun l => hs _ l)

/-- The same where the meaning gives the result and the sticky bits themselves. -/
theorem vecDoes_of {s : State} {x : Ctx} {i : Instr} {v : AluI} {os : Opnds} {wide : Bool} {r st : (Fld → Nat) → Nat → Nat}
    {slow : Bool} {ty : OpTy} (he : exec i s = runVec s v (fieldsOk i) os slow ty wide fun o l => (r o l, st o l)) {t : OpTy}
    {rd : Bool} (hm : (Fld.d, Kind.dstV t rd) ∈ os) (hw : t.wide = wide) : VecDoes s x i v os wide r st :=
  vecDoes_lane _ he hm hw (fun _ _ => rfl) (fun _ _ => rfl)

theorem UniStep.congr {s : State} {x : Ctx} {i : AluI} {os : Opnds} {wide : Bool} {r st r2 st2 : Nat} {c d c2 d2 : Bool}
    {o : Answer} (h : UniStep s x i os wide r st c d o) (e : r = r2) (e2 : st = st2) (e3 : c = c2) (e4 : d = d2) :
    UniStep s x i os wide r2 st2 c2 d2 o := by
  subst e e2 e3 e4; exact h

/-- A uniform instruction whose meaning is `runUni` of `eff` does what a clause says that agrees with `eff`. -/
theorem uniDoes_of {s : State} {x : Ctx} {i : Instr} {v : AluI} {os : Opnds} {wide : Bool} {r st : (Fld → Nat) → Nat}
    {scc carry : (Fld → Nat) → Bool} (eff : Ctx → (Fld → Nat) → Nat × Nat × Option Bool × Option Bool)
    (he : exec i s = runUni s v (fieldsOk i) os wide eff)
    (hd : Issues s x i v os → ∀ n, v.d = .s n → keyS n ∈ (usesOf v os).wr ∧ (wide = true → keyS (n + 1) ∈ (usesOf v os).wr))
    (hr : ∀ o, (eff x o).1 = r o) (hs : ∀ o, (eff x o).2.1 = st o) (hc : ∀ o, (eff x o).2.2.1.getD x.f.scc = scc o)
    (hy : ∀ o, (eff x o).2.2.2.getD x.f.carry = carry o) : UniDoes s x i v os wide r st scc carry := by
  intro h
  rw [he]
  exact (runUni_step eff h (hd h)).congr (hr _) (hs _) (hc _) (hy _)

end Sys2Proof
end

