-- ==== Sys2Proof/Laws/PerInstr.lean ====
section
/-! SUPPORT. The families of statements about every instruction as syntax, one lemma for each constructor. -/

namespace Sys2Proof.Laws

/-- The encoding tables read both ways (R64 to R73, R338): the word fields that stand for a well-formed instruction are read back as it;
an event of the device has no words. -/
def EncodingTable.Statement (i : Instr) : Prop :=
  (∀ e, i.enc = some e → i.wf = true → e.instr? = some i) ∧ (i.enc = none → encode i = [])

theorem EncodingTable.of_some {i : Instr} {e : Enc} (h : i.enc = some e) (r : i.wf = true → e.instr? = some i) : EncodingTable.Statement i :=
  ⟨fun e2 h2 => by rw [h] at h2; cases h2; exact r, fun n => by rw [h] at n; cases n⟩

theorem EncodingTable.of_none {i : Instr} (h : i.enc = none) (r : encode i = []) : EncodingTable.Statement i :=
  ⟨fun _ h2 => absurd (h.symm.trans h2) (by simp), fun _ => r⟩

theorem EncodingTable.vaddShort (f : Vs3) : EncodingTable.Statement (.vaddShort f) := EncodingTable.of_some rfl fun _ => rfl
theorem EncodingTable.vsubShort (f : Vs3) : EncodingTable.Statement (.vsubShort f) := EncodingTable.of_some rfl fun _ => rfl
theorem EncodingTable.vmulShort (f : Vs3) : EncodingTable.Statement (.vmulShort f) := EncodingTable.of_some rfl fun _ => rfl
theorem EncodingTable.vandShort (f : Vs3) : EncodingTable.Statement (.vandShort f) := EncodingTable.of_some rfl fun _ => rfl
theorem EncodingTable.vorShort (f : Vs3) : EncodingTable.Statement (.vorShort f) := EncodingTable.of_some rfl fun _ => rfl
theorem EncodingTable.vxorShort (f : Vs3) : EncodingTable.Statement (.vxorShort f) := EncodingTable.of_some rfl fun _ => rfl
theorem EncodingTable.vshlShort (f : Vs3) : EncodingTable.Statement (.vshlShort f) := EncodingTable.of_some rfl fun _ => rfl
theorem EncodingTable.vshrShort (f : Vs3) : EncodingTable.Statement (.vshrShort f) := EncodingTable.of_some rfl fun _ => rfl
theorem EncodingTable.vsraShort (f : Vs3) : EncodingTable.Statement (.vsraShort f) := EncodingTable.of_some rfl fun _ => rfl
theorem EncodingTable.vminShort (f : Vs3) : EncodingTable.Statement (.vminShort f) := EncodingTable.of_some rfl fun _ => rfl
theorem EncodingTable.vmaxShort (f : Vs3) : EncodingTable.Statement (.vmaxShort f) := EncodingTable.of_some rfl fun _ => rfl
theorem EncodingTable.vfaddShort (f : Vs3) : EncodingTable.Statement (.vfaddShort f) := EncodingTable.of_some rfl fun _ => rfl
theorem EncodingTable.vfsubShort (f : Vs3) : EncodingTable.Statement (.vfsubShort f) := EncodingTable.of_some rfl fun _ => rfl
theorem EncodingTable.vfmulShort (f : Vs3) : EncodingTable.Statement (.vfmulShort f) := EncodingTable.of_some rfl fun _ => rfl
theorem EncodingTable.vfmac (f : Vs3) : EncodingTable.Statement (.vfmac f) := EncodingTable.of_some rfl fun _ => rfl
theorem EncodingTable.vfminShort (f : Vs3) : EncodingTable.Statement (.vfminShort f) := EncodingTable.of_some rfl fun _ => rfl
theorem EncodingTable.vfmaxShort (f : Vs3) : EncodingTable.Statement (.vfmaxShort f) := EncodingTable.of_some rfl fun _ => rfl
theorem EncodingTable.vmovShort (f : Vs3) : EncodingTable.Statement (.vmovShort f) := EncodingTable.of_some rfl fun _ => rfl
theorem EncodingTable.vaddi (f : Vs2i) : EncodingTable.Statement (.vaddi f) := EncodingTable.of_some rfl fun _ => rfl
theorem EncodingTable.vshli (f : Vs2i) : EncodingTable.Statement (.vshli f) := EncodingTable.of_some rfl fun _ => rfl
theorem EncodingTable.vshri (f : Vs2i) : EncodingTable.Statement (.vshri f) := EncodingTable.of_some rfl fun _ => rfl
theorem EncodingTable.vandi (f : Vs2i) : EncodingTable.Statement (.vandi f) := EncodingTable.of_some rfl fun _ => rfl
theorem EncodingTable.saddi (f : Us) : EncodingTable.Statement (.saddi f) := EncodingTable.of_some rfl fun _ => rfl
theorem EncodingTable.smovi (f : Usi) : EncodingTable.Statement (.smovi f) := EncodingTable.of_some rfl fun _ => rfl
theorem EncodingTable.jmpShort (f : Br) : EncodingTable.Statement (.jmpShort f) := EncodingTable.of_some rfl fun _ => rfl
theorem EncodingTable.brsShort (f : Br) : EncodingTable.Statement (.brsShort f) := EncodingTable.of_some rfl fun _ => rfl
theorem EncodingTable.nop (f : NopF) : EncodingTable.Statement (.nop f) := EncodingTable.of_some rfl fun _ => rfl
theorem EncodingTable.vadd (f : Lg) : EncodingTable.Statement (.vadd f) := EncodingTable.of_some rfl fun _ => rfl
theorem EncodingTable.vsub (f : Lg) : EncodingTable.Statement (.vsub f) := EncodingTable.of_some rfl fun _ => rfl
theorem EncodingTable.vaddc (f : Lg) : EncodingTable.Statement (.vaddc f) := EncodingTable.of_some rfl fun _ => rfl
theorem EncodingTable.vsubb (f : Lg) : EncodingTable.Statement (.vsubb f) := EncodingTable.of_some rfl fun _ => rfl
theorem EncodingTable.vmul (f : Lg) : EncodingTable.Statement (.vmul f) := EncodingTable.of_some rfl fun _ => rfl
theorem EncodingTable.vmulhi (f : Lg) : EncodingTable.Statement (.vmulhi f) := EncodingTable.of_some rfl fun _ => rfl
theorem EncodingTable.vmad (f : Lg) : EncodingTable.Statement (.vmad f) := EncodingTable.of_some rfl fun _ => rfl
theorem EncodingTable.vmadw (f : Lg) : EncodingTable.Statement (.vmadw f) := EncodingTable.of_some rfl fun _ => rfl
theorem EncodingTable.vabsd (f : Lg) : EncodingTable.Statement (.vabsd f) := EncodingTable.of_some rfl fun _ => rfl
theorem EncodingTable.vmin (f : Lg) : EncodingTable.Statement (.vmin f) := EncodingTable.of_some rfl fun _ => rfl
theorem EncodingTable.vmax (f : Lg) : EncodingTable.Statement (.vmax f) := EncodingTable.of_some rfl fun _ => rfl
theorem EncodingTable.vand (f : Lg) : EncodingTable.Statement (.vand f) := EncodingTable.of_some rfl fun _ => rfl
theorem EncodingTable.vor (f : Lg) : EncodingTable.Statement (.vor f) := EncodingTable.of_some rfl fun _ => rfl
theorem EncodingTable.vxor (f : Lg) : EncodingTable.Statement (.vxor f) := EncodingTable.of_some rfl fun _ => rfl
theorem EncodingTable.vandn (f : Lg) : EncodingTable.Statement (.vandn f) := EncodingTable.of_some rfl fun _ => rfl
theorem EncodingTable.vshl (f : Lg) : EncodingTable.Statement (.vshl f) := EncodingTable.of_some rfl fun _ => rfl
theorem EncodingTable.vshr (f : Lg) : EncodingTable.Statement (.vshr f) := EncodingTable.of_some rfl fun _ => rfl
theorem EncodingTable.vsra (f : Lg) : EncodingTable.Statement (.vsra f) := EncodingTable.of_some rfl fun _ => rfl
theorem EncodingTable.vfshr (f : Lg) : EncodingTable.Statement (.vfshr f) := EncodingTable.of_some rfl fun _ => rfl
theorem EncodingTable.vbfe (f : Lg) : EncodingTable.Statement (.vbfe f) := EncodingTable.of_some rfl fun _ => rfl
theorem EncodingTable.vbfi (f : Lg) : EncodingTable.Statement (.vbfi f) := EncodingTable.of_some rfl fun _ => rfl
theorem EncodingTable.vpopc (f : Lg) : EncodingTable.Statement (.vpopc f) := EncodingTable.of_some rfl fun _ => rfl
theorem EncodingTable.vclz (f : Lg) : EncodingTable.Statement (.vclz f) := EncodingTable.of_some rfl fun _ => rfl
theorem EncodingTable.vbrev (f : Lg) : EncodingTable.Statement (.vbrev f) := EncodingTable.of_some rfl fun _ => rfl
theorem EncodingTable.vsel (f : Lg) : EncodingTable.Statement (.vsel f) := EncodingTable.of_some rfl fun _ => rfl
theorem EncodingTable.vmov (f : Lg) : EncodingTable.Statement (.vmov f) := EncodingTable.of_some rfl fun _ => rfl
theorem EncodingTable.vmovi (f : Lg) : EncodingTable.Statement (.vmovi f) := EncodingTable.of_some rfl fun _ => rfl
theorem EncodingTable.vmovx (f : Lg) : EncodingTable.Statement (.vmovx f) := EncodingTable.of_some rfl fun _ => rfl
theorem EncodingTable.vlea (f : Lg) : EncodingTable.Statement (.vlea f) := EncodingTable.of_some rfl fun _ => rfl
theorem EncodingTable.vdiv (f : Lg) : EncodingTable.Statement (.vdiv f) := EncodingTable.of_some rfl fun _ => rfl
theorem EncodingTable.vrem (f : Lg) : EncodingTable.Statement (.vrem f) := EncodingTable.of_some rfl fun _ => rfl
theorem EncodingTable.vfadd (f : Lg) : EncodingTable.Statement (.vfadd f) := EncodingTable.of_some rfl fun _ => rfl
theorem EncodingTable.vfsub (f : Lg) : EncodingTable.Statement (.vfsub f) := EncodingTable.of_some rfl fun _ => rfl
theorem EncodingTable.vfmul (f : Lg) : EncodingTable.Statement (.vfmul f) := EncodingTable.of_some rfl fun _ => rfl
theorem EncodingTable.vfma (f : Lg) : EncodingTable.Statement (.vfma f) := EncodingTable.of_some rfl fun _ => rfl
theorem EncodingTable.vfmin (f : Lg) : EncodingTable.Statement (.vfmin f) := EncodingTable.of_some rfl fun _ => rfl
theorem EncodingTable.vfmax (f : Lg) : EncodingTable.Statement (.vfmax f) := EncodingTable.of_some rfl fun _ => rfl
theorem EncodingTable.vfrnd (f : Lg) : EncodingTable.Statement (.vfrnd f) := EncodingTable.of_some rfl fun _ => rfl
theorem EncodingTable.vffract (f : Lg) : EncodingTable.Statement (.vffract f) := EncodingTable.of_some rfl fun _ => rfl
theorem EncodingTable.vfdot2 (f : Lg) : EncodingTable.Statement (.vfdot2 f) := EncodingTable.of_some rfl fun _ => rfl
theorem EncodingTable.vfclass (f : Lg) : EncodingTable.Statement (.vfclass f) := EncodingTable.of_some rfl fun _ => rfl
theorem EncodingTable.vfldexp (f : Lg) : EncodingTable.Statement (.vfldexp f) := EncodingTable.of_some rfl fun _ => rfl
theorem EncodingTable.vffrexp (f : Lg) : EncodingTable.Statement (.vffrexp f) := EncodingTable.of_some rfl fun _ => rfl
theorem EncodingTable.vfcopys (f : Lg) : EncodingTable.Statement (.vfcopys f) := EncodingTable.of_some rfl fun _ => rfl
theorem EncodingTable.vfdiv (f : Lg) : EncodingTable.Statement (.vfdiv f) := EncodingTable.of_some rfl fun _ => rfl
theorem EncodingTable.vrcp (f : Lg) : EncodingTable.Statement (.vrcp f) := EncodingTable.of_some rfl fun _ => rfl
theorem EncodingTable.vrsq (f : Lg) : EncodingTable.Statement (.vrsq f) := EncodingTable.of_some rfl fun _ => rfl
theorem EncodingTable.vsqrt (f : Lg) : EncodingTable.Statement (.vsqrt f) := EncodingTable.of_some rfl fun _ => rfl
theorem EncodingTable.vexp2 (f : Lg) : EncodingTable.Statement (.vexp2 f) := EncodingTable.of_some rfl fun _ => rfl
theorem EncodingTable.vlog2 (f : Lg) : EncodingTable.Statement (.vlog2 f) := EncodingTable.of_some rfl fun _ => rfl
theorem EncodingTable.vsinpi (f : Lg) : EncodingTable.Statement (.vsinpi f) := EncodingTable.of_some rfl fun _ => rfl
theorem EncodingTable.vcospi (f : Lg) : EncodingTable.Statement (.vcospi f) := EncodingTable.of_some rfl fun _ => rfl
theorem EncodingTable.vtanh (f : Lg) : EncodingTable.Statement (.vtanh f) := EncodingTable.of_some rfl fun _ => rfl
theorem EncodingTable.vcvtf (f : Lg) : EncodingTable.Statement (.vcvtf f) := EncodingTable.of_some rfl fun _ => rfl
theorem EncodingTable.vcvtfi (f : Lg) : EncodingTable.Statement (.vcvtfi f) := EncodingTable.of_some rfl fun _ => rfl
theorem EncodingTable.vcvtif (f : Lg) : EncodingTable.Statement (.vcvtif f) := EncodingTable.of_some rfl fun _ => rfl
theorem EncodingTable.vpack (f : Lg) : EncodingTable.Statement (.vpack f) := EncodingTable.of_some rfl fun _ => rfl
theorem EncodingTable.vunpk (f : Lg) : EncodingTable.Statement (.vunpk f) := EncodingTable.of_some rfl fun _ => rfl
theorem EncodingTable.vcvtlg (f : Lg) : EncodingTable.Statement (.vcvtlg f) := EncodingTable.of_some rfl fun _ => rfl
theorem EncodingTable.vlgcvt (f : Lg) : EncodingTable.Statement (.vlgcvt f) := EncodingTable.of_some rfl fun _ => rfl
theorem EncodingTable.vcmp (f : Lg) : EncodingTable.Statement (.vcmp f) := EncodingTable.of_some rfl fun _ => rfl
theorem EncodingTable.vcmpf (f : Lg) : EncodingTable.Statement (.vcmpf f) := EncodingTable.of_some rfl fun _ => rfl
theorem EncodingTable.vshfl (f : Lg) : EncodingTable.Statement (.vshfl f) := EncodingTable.of_some rfl fun _ => rfl
theorem EncodingTable.vbcst (f : Lg) : EncodingTable.Statement (.vbcst f) := EncodingTable.of_some rfl fun _ => rfl
theorem EncodingTable.vrdln (f : Lg) : EncodingTable.Statement (.vrdln f) := EncodingTable.of_some rfl fun _ => rfl
theorem EncodingTable.vwrln (f : Lg) : EncodingTable.Statement (.vwrln f) := EncodingTable.of_some rfl fun _ => rfl
theorem EncodingTable.vballot (f : Lg) : EncodingTable.Statement (.vballot f) := EncodingTable.of_some rfl fun _ => rfl
theorem EncodingTable.vmpfx (f : Lg) : EncodingTable.Statement (.vmpfx f) := EncodingTable.of_some rfl fun _ => rfl
theorem EncodingTable.vred (f : Lg) : EncodingTable.Statement (.vred f) := EncodingTable.of_some rfl fun _ => rfl
theorem EncodingTable.vscan (f : Lg) : EncodingTable.Statement (.vscan f) := EncodingTable.of_some rfl fun _ => rfl
theorem EncodingTable.vqswz (f : Lg) : EncodingTable.Statement (.vqswz f) := EncodingTable.of_some rfl fun _ => rfl
theorem EncodingTable.vmatch (f : Lg) : EncodingTable.Statement (.vmatch f) := EncodingTable.of_some rfl fun _ => rfl
theorem EncodingTable.sadd (f : Lg) : EncodingTable.Statement (.sadd f) := EncodingTable.of_some rfl fun _ => rfl
theorem EncodingTable.ssub (f : Lg) : EncodingTable.Statement (.ssub f) := EncodingTable.of_some rfl fun _ => rfl
theorem EncodingTable.smul (f : Lg) : EncodingTable.Statement (.smul f) := EncodingTable.of_some rfl fun _ => rfl
theorem EncodingTable.smulhi (f : Lg) : EncodingTable.Statement (.smulhi f) := EncodingTable.of_some rfl fun _ => rfl
theorem EncodingTable.sand (f : Lg) : EncodingTable.Statement (.sand f) := EncodingTable.of_some rfl fun _ => rfl
theorem EncodingTable.sor (f : Lg) : EncodingTable.Statement (.sor f) := EncodingTable.of_some rfl fun _ => rfl
theorem EncodingTable.sxor (f : Lg) : EncodingTable.Statement (.sxor f) := EncodingTable.of_some rfl fun _ => rfl
theorem EncodingTable.sandn (f : Lg) : EncodingTable.Statement (.sandn f) := EncodingTable.of_some rfl fun _ => rfl
theorem EncodingTable.sshl (f : Lg) : EncodingTable.Statement (.sshl f) := EncodingTable.of_some rfl fun _ => rfl
theorem EncodingTable.sshr (f : Lg) : EncodingTable.Statement (.sshr f) := EncodingTable.of_some rfl fun _ => rfl
theorem EncodingTable.ssra (f : Lg) : EncodingTable.Statement (.ssra f) := EncodingTable.of_some rfl fun _ => rfl
theorem EncodingTable.sbfe (f : Lg) : EncodingTable.Statement (.sbfe f) := EncodingTable.of_some rfl fun _ => rfl
theorem EncodingTable.spopc (f : Lg) : EncodingTable.Statement (.spopc f) := EncodingTable.of_some rfl fun _ => rfl
theorem EncodingTable.sclz (f : Lg) : EncodingTable.Statement (.sclz f) := EncodingTable.of_some rfl fun _ => rfl
theorem EncodingTable.smin (f : Lg) : EncodingTable.Statement (.smin f) := EncodingTable.of_some rfl fun _ => rfl
theorem EncodingTable.smax (f : Lg) : EncodingTable.Statement (.smax f) := EncodingTable.of_some rfl fun _ => rfl
theorem EncodingTable.smov (f : Lg) : EncodingTable.Statement (.smov f) := EncodingTable.of_some rfl fun _ => rfl
theorem EncodingTable.ssel (f : Lg) : EncodingTable.Statement (.ssel f) := EncodingTable.of_some rfl fun _ => rfl
theorem EncodingTable.scmp (f : Lg) : EncodingTable.Statement (.scmp f) := EncodingTable.of_some rfl fun _ => rfl
theorem EncodingTable.slea (f : Lg) : EncodingTable.Statement (.slea f) := EncodingTable.of_some rfl fun _ => rfl
theorem EncodingTable.smovk (f : Lg) : EncodingTable.Statement (.smovk f) := EncodingTable.of_some rfl fun _ => rfl
theorem EncodingTable.sfadd (f : Lg) : EncodingTable.Statement (.sfadd f) := EncodingTable.of_some rfl fun _ => rfl
theorem EncodingTable.sfmul (f : Lg) : EncodingTable.Statement (.sfmul f) := EncodingTable.of_some rfl fun _ => rfl
theorem EncodingTable.sfma (f : Lg) : EncodingTable.Statement (.sfma f) := EncodingTable.of_some rfl fun _ => rfl
theorem EncodingTable.smff1 (f : Lg) : EncodingTable.Statement (.smff1 f) := EncodingTable.of_some rfl fun _ => rfl
theorem EncodingTable.jmp (f : Lb) : EncodingTable.Statement (.jmp f) := EncodingTable.of_some rfl fun _ => rfl
theorem EncodingTable.brs (f : Lb) : EncodingTable.Statement (.brs f) := EncodingTable.of_some rfl fun _ => rfl
theorem EncodingTable.brz (f : Lb) : EncodingTable.Statement (.brz f) := EncodingTable.of_some rfl fun _ => rfl
theorem EncodingTable.split (f : Lb) : EncodingTable.Statement (.split f) := EncodingTable.of_some rfl fun _ => rfl
theorem EncodingTable.break (f : Lb) : EncodingTable.Statement (.break f) := EncodingTable.of_some rfl fun _ => rfl
theorem EncodingTable.call (f : Lb) : EncodingTable.Statement (.call f) := EncodingTable.of_some rfl fun _ => rfl
theorem EncodingTable.ret (f : Lb) : EncodingTable.Statement (.ret f) := EncodingTable.of_some rfl fun _ => rfl
theorem EncodingTable.jmpi (f : Lb) : EncodingTable.Statement (.jmpi f) := EncodingTable.of_some rfl fun _ => rfl
theorem EncodingTable.exit (f : Lb) : EncodingTable.Statement (.exit f) := EncodingTable.of_some rfl fun _ => rfl
theorem EncodingTable.yield (f : Lb) : EncodingTable.Statement (.yield f) := EncodingTable.of_some rfl fun _ => rfl
theorem EncodingTable.gld (f : Lm) : EncodingTable.Statement (.gld f) := EncodingTable.of_some rfl fun _ => rfl
theorem EncodingTable.gst (f : Lm) : EncodingTable.Statement (.gst f) := EncodingTable.of_some rfl fun _ => rfl
theorem EncodingTable.uld (f : Lm) : EncodingTable.Statement (.uld f) := EncodingTable.of_some rfl fun _ => rfl
theorem EncodingTable.ust (f : Lm) : EncodingTable.Statement (.ust f) := EncodingTable.of_some rfl fun _ => rfl
theorem EncodingTable.cpf (f : Lm) : EncodingTable.Statement (.cpf f) := EncodingTable.of_some rfl fun _ => rfl
theorem EncodingTable.sld (f : Lm) : EncodingTable.Statement (.sld f) := EncodingTable.of_some rfl fun _ => rfl
theorem EncodingTable.sst (f : Lm) : EncodingTable.Statement (.sst f) := EncodingTable.of_some rfl fun _ => rfl
theorem EncodingTable.xld (f : Lm) : EncodingTable.Statement (.xld f) := EncodingTable.of_some rfl fun _ => rfl
theorem EncodingTable.xst (f : Lm) : EncodingTable.Statement (.xst f) := EncodingTable.of_some rfl fun _ => rfl
theorem EncodingTable.gatom (f : La) : EncodingTable.Statement (.gatom f) := EncodingTable.of_some rfl fun _ => rfl
theorem EncodingTable.satom (f : La) : EncodingTable.Statement (.satom f) := EncodingTable.of_some rfl fun _ => rfl
theorem EncodingTable.xatom (f : La) : EncodingTable.Statement (.xatom f) := EncodingTable.of_some rfl fun _ => rfl
theorem EncodingTable.uatom (f : La) : EncodingTable.Statement (.uatom f) := EncodingTable.of_some rfl fun _ => rfl
theorem EncodingTable.fence (f : Lg) : EncodingTable.Statement (.fence f) := EncodingTable.of_some rfl fun _ => rfl
theorem EncodingTable.fencex (f : Lg) : EncodingTable.Statement (.fencex f) := EncodingTable.of_some rfl fun _ => rfl
theorem EncodingTable.cinv (f : Lg) : EncodingTable.Statement (.cinv f) := EncodingTable.of_some rfl fun _ => rfl
theorem EncodingTable.cwb (f : Lg) : EncodingTable.Statement (.cwb f) := EncodingTable.of_some rfl fun _ => rfl
theorem EncodingTable.wbind (f : Lg) : EncodingTable.Statement (.wbind f) := EncodingTable.of_some rfl fun _ => rfl
theorem EncodingTable.wunbind (f : Lg) : EncodingTable.Statement (.wunbind f) := EncodingTable.of_some rfl fun _ => rfl
theorem EncodingTable.wwarm (f : Lg) : EncodingTable.Statement (.wwarm f) := EncodingTable.of_some rfl fun _ => rfl
theorem EncodingTable.wtest (f : Lg) : EncodingTable.Statement (.wtest f) := EncodingTable.of_some rfl fun _ => rfl
theorem EncodingTable.wwait (f : Lg) : EncodingTable.Statement (.wwait f) := EncodingTable.of_some rfl fun _ => rfl
theorem EncodingTable.wslice (f : Lg) : EncodingTable.Statement (.wslice f) := EncodingTable.of_some rfl fun _ => rfl
theorem EncodingTable.chfill (f : Lg) : EncodingTable.Statement (.chfill f) := EncodingTable.of_some rfl fun _ => rfl
theorem EncodingTable.chcopy (f : Lg) : EncodingTable.Statement (.chcopy f) := EncodingTable.of_some rfl fun _ => rfl
theorem EncodingTable.chcmp (f : Lg) : EncodingTable.Statement (.chcmp f) := EncodingTable.of_some rfl fun _ => rfl
theorem EncodingTable.chred (f : Lg) : EncodingTable.Statement (.chred f) := EncodingTable.of_some rfl fun _ => rfl
theorem EncodingTable.mma (f : Lx) : EncodingTable.Statement (.mma f) := EncodingTable.of_some rfl fun _ => rfl
theorem EncodingTable.mzero (f : Lx) : EncodingTable.Statement (.mzero f) := EncodingTable.of_some rfl fun _ => rfl
theorem EncodingTable.mdrain (f : Lx) : EncodingTable.Statement (.mdrain f) := EncodingTable.of_some rfl fun _ => rfl
theorem EncodingTable.mdrainq (f : Lx) : EncodingTable.Statement (.mdrainq f) := EncodingTable.of_some rfl fun _ => rfl
theorem EncodingTable.mldacc (f : Lx) : EncodingTable.Statement (.mldacc f) := EncodingTable.of_some rfl fun _ => rfl
theorem EncodingTable.mstat (f : Lx) : EncodingTable.Statement (.mstat f) := EncodingTable.of_some rfl fun _ => rfl
theorem EncodingTable.mrprog (f : Lx) : EncodingTable.Statement (.mrprog f) := EncodingTable.of_some rfl fun _ => rfl
theorem EncodingTable.capmint (f : Lg) : EncodingTable.Statement (.capmint f) := EncodingTable.of_some rfl fun _ => rfl
theorem EncodingTable.caprev (f : Lg) : EncodingTable.Statement (.caprev f) := EncodingTable.of_some rfl fun _ => rfl
theorem EncodingTable.note (f : Lg) : EncodingTable.Statement (.note f) := EncodingTable.of_some rfl fun _ => rfl
theorem EncodingTable.noteu (f : Lg) : EncodingTable.Statement (.noteu f) := EncodingTable.of_some rfl fun _ => rfl
theorem EncodingTable.expect (f : Lg) : EncodingTable.Statement (.expect f) := EncodingTable.of_some rfl fun _ => rfl
theorem EncodingTable.npoll (f : Lg) : EncodingTable.Statement (.npoll f) := EncodingTable.of_some rfl fun _ => rfl
theorem EncodingTable.wreg (f : Lg) : EncodingTable.Statement (.wreg f) := EncodingTable.of_some rfl fun _ => rfl
theorem EncodingTable.wdrop (f : Lg) : EncodingTable.Statement (.wdrop f) := EncodingTable.of_some rfl fun _ => rfl
theorem EncodingTable.wait (f : Lg) : EncodingTable.Statement (.wait f) := EncodingTable.of_some rfl fun _ => rfl
theorem EncodingTable.lock (f : Lg) : EncodingTable.Statement (.lock f) := EncodingTable.of_some rfl fun _ => rfl
theorem EncodingTable.unlock (f : Lg) : EncodingTable.Statement (.unlock f) := EncodingTable.of_some rfl fun _ => rfl
theorem EncodingTable.bar (f : Lg) : EncodingTable.Statement (.bar f) := EncodingTable.of_some rfl fun _ => rfl
theorem EncodingTable.bara (f : Lg) : EncodingTable.Statement (.bara f) := EncodingTable.of_some rfl fun _ => rfl
theorem EncodingTable.barw (f : Lg) : EncodingTable.Statement (.barw f) := EncodingTable.of_some rfl fun _ => rfl
theorem EncodingTable.whold (f : Lg) : EncodingTable.Statement (.whold f) := EncodingTable.of_some rfl fun _ => rfl
theorem EncodingTable.wstat (f : Lg) : EncodingTable.Statement (.wstat f) := EncodingTable.of_some rfl fun _ => rfl
theorem EncodingTable.spawn (f : Lg) : EncodingTable.Statement (.spawn f) := EncodingTable.of_some rfl fun _ => rfl
theorem EncodingTable.launch (f : Lg) : EncodingTable.Statement (.launch f) := EncodingTable.of_some rfl fun _ => rfl
theorem EncodingTable.join (f : Lg) : EncodingTable.Statement (.join f) := EncodingTable.of_some rfl fun _ => rfl
theorem EncodingTable.kill (f : Lg) : EncodingTable.Statement (.kill f) := EncodingTable.of_some rfl fun _ => rfl
theorem EncodingTable.quota (f : Lg) : EncodingTable.Statement (.quota f) := EncodingTable.of_some rfl fun _ => rfl
theorem EncodingTable.coll (f : Lg) : EncodingTable.Statement (.coll f) := EncodingTable.of_some rfl fun _ => rfl
theorem EncodingTable.ctopv (f : Lg) : EncodingTable.Statement (.ctopv f) := EncodingTable.of_some rfl fun _ => rfl
theorem EncodingTable.trap (f : Lg) : EncodingTable.Statement (.trap f) := EncodingTable.of_some rfl fun _ => rfl
theorem EncodingTable.tret (f : Lg) : EncodingTable.Statement (.tret f) := EncodingTable.of_some rfl fun _ => rfl
theorem EncodingTable.sgetsr (f : Lg) : EncodingTable.Statement (.sgetsr f) := EncodingTable.of_some rfl fun _ => rfl
theorem EncodingTable.ssetsr (f : Lg) : EncodingTable.Statement (.ssetsr f) := EncodingTable.of_some rfl fun _ => rfl
theorem EncodingTable.sleep (f : Lg) : EncodingTable.Statement (.sleep f) := EncodingTable.of_some rfl fun _ => rfl
theorem EncodingTable.pmark (f : Lg) : EncodingTable.Statement (.pmark f) := EncodingTable.of_some rfl fun _ => rfl
theorem EncodingTable.dbrk (f : Lg) : EncodingTable.Statement (.dbrk f) := EncodingTable.of_some rfl fun _ => rfl
theorem EncodingTable.fresume (f : Lg) : EncodingTable.Statement (.fresume f) := EncodingTable.of_some rfl fun _ => rfl
theorem EncodingTable.prLde (f : Pr) : EncodingTable.Statement (.prLde f) := EncodingTable.of_some rfl fun _ => rfl
theorem EncodingTable.prLdi (f : Pr) : EncodingTable.Statement (.prLdi f) := EncodingTable.of_some rfl fun _ => rfl
theorem EncodingTable.prAdd (f : Pr) : EncodingTable.Statement (.prAdd f) := EncodingTable.of_some rfl fun _ => rfl
theorem EncodingTable.prSub (f : Pr) : EncodingTable.Statement (.prSub f) := EncodingTable.of_some rfl fun _ => rfl
theorem EncodingTable.prAnd (f : Pr) : EncodingTable.Statement (.prAnd f) := EncodingTable.of_some rfl fun _ => rfl
theorem EncodingTable.prOr (f : Pr) : EncodingTable.Statement (.prOr f) := EncodingTable.of_some rfl fun _ => rfl
theorem EncodingTable.prXor (f : Pr) : EncodingTable.Statement (.prXor f) := EncodingTable.of_some rfl fun _ => rfl
theorem EncodingTable.prShl (f : Pr) : EncodingTable.Statement (.prShl f) := EncodingTable.of_some rfl fun _ => rfl
theorem EncodingTable.prShr (f : Pr) : EncodingTable.Statement (.prShr f) := EncodingTable.of_some rfl fun _ => rfl
theorem EncodingTable.prMin (f : Pr) : EncodingTable.Statement (.prMin f) := EncodingTable.of_some rfl fun _ => rfl
theorem EncodingTable.prMax (f : Pr) : EncodingTable.Statement (.prMax f) := EncodingTable.of_some rfl fun _ => rfl
theorem EncodingTable.prMul (f : Pr) : EncodingTable.Statement (.prMul f) := EncodingTable.of_some rfl fun _ => rfl
theorem EncodingTable.prHash (f : Pr) : EncodingTable.Statement (.prHash f) := EncodingTable.of_some rfl fun _ => rfl
theorem EncodingTable.prBfw (f : Pr) : EncodingTable.Statement (.prBfw f) := EncodingTable.of_some rfl fun _ => rfl
theorem EncodingTable.prHinc (f : Pr) : EncodingTable.Statement (.prHinc f) := EncodingTable.of_some rfl fun _ => rfl
theorem EncodingTable.prSkinc (f : Pr) : EncodingTable.Statement (.prSkinc f) := EncodingTable.of_some rfl fun _ => rfl
theorem EncodingTable.prHll (f : Pr) : EncodingTable.Statement (.prHll f) := EncodingTable.of_some rfl fun _ => rfl
theorem EncodingTable.prLdm (f : Pr) : EncodingTable.Statement (.prLdm f) := EncodingTable.of_some rfl fun _ => rfl
theorem EncodingTable.prStm (f : Pr) : EncodingTable.Statement (.prStm f) := EncodingTable.of_some rfl fun _ => rfl
theorem EncodingTable.prTrigIrq (f : Pr) : EncodingTable.Statement (.prTrigIrq f) := EncodingTable.of_some rfl fun w => by simp only [Instr.wf, Instr.enc, trigWf, Bool.and_eq_true, beq_iff_eq] at w; simp [Enc.instr?, prInstr, w.2]
theorem EncodingTable.prTrigSnap (f : Pr) : EncodingTable.Statement (.prTrigSnap f) := EncodingTable.of_some rfl fun w => by simp only [Instr.wf, Instr.enc, trigWf, Bool.and_eq_true, beq_iff_eq] at w; simp [Enc.instr?, prInstr, w.2]
theorem EncodingTable.prTrigArm (f : Pr) : EncodingTable.Statement (.prTrigArm f) := EncodingTable.of_some rfl fun w => by simp only [Instr.wf, Instr.enc, trigWf, Bool.and_eq_true, beq_iff_eq] at w; simp [Enc.instr?, prInstr, w.2]
theorem EncodingTable.prTrigDisarm (f : Pr) : EncodingTable.Statement (.prTrigDisarm f) := EncodingTable.of_some rfl fun w => by simp only [Instr.wf, Instr.enc, trigWf, Bool.and_eq_true, beq_iff_eq] at w; simp [Enc.instr?, prInstr, w.2]
theorem EncodingTable.prEmit (f : Pr) : EncodingTable.Statement (.prEmit f) := EncodingTable.of_some rfl fun _ => rfl
theorem EncodingTable.prEnd (f : Pr) : EncodingTable.Statement (.prEnd f) := EncodingTable.of_some rfl fun _ => rfl
theorem EncodingTable.enterClause (core : Nat) (slot : Nat) (frag : Nat) : EncodingTable.Statement (.enterClause core slot frag) := EncodingTable.of_none rfl rfl
theorem EncodingTable.waitingTableRetest (core : Nat) (slot : Nat) (frag : Nat) : EncodingTable.Statement (.waitingTableRetest core slot frag) := EncodingTable.of_none rfl rfl
theorem EncodingTable.sleepExpiry (core : Nat) (slot : Nat) (frag : Nat) : EncodingTable.Statement (.sleepExpiry core slot frag) := EncodingTable.of_none rfl rfl
theorem EncodingTable.spillBringBack (core : Nat) (slot : Nat) (idx : Nat) : EncodingTable.Statement (.spillBringBack core slot idx) := EncodingTable.of_none rfl rfl
theorem EncodingTable.globalLoadReply (op : Nat) : EncodingTable.Statement (.globalLoadReply op) := EncodingTable.of_none rfl rfl
theorem EncodingTable.homeLoadRequest (chip : Nat) (mc : Nat) : EncodingTable.Statement (.homeLoadRequest chip mc) := EncodingTable.of_none rfl rfl
theorem EncodingTable.dramReadComplete (mc : Nat) (line : Nat) (bad : Bool) : EncodingTable.Statement (.dramReadComplete mc line bad) := EncodingTable.of_none rfl rfl
theorem EncodingTable.nearCacheGrant (chip : Nat) (mc : Nat) : EncodingTable.Statement (.nearCacheGrant chip mc) := EncodingTable.of_none rfl rfl
theorem EncodingTable.nearCacheProbe (chip : Nat) (mc : Nat) : EncodingTable.Statement (.nearCacheProbe chip mc) := EncodingTable.of_none rfl rfl
theorem EncodingTable.combineBufferTimeout (core : Nat) (line : Nat) : EncodingTable.Statement (.combineBufferTimeout core line) := EncodingTable.of_none rfl rfl
theorem EncodingTable.homePostingMerge (chip : Nat) (mc : Nat) : EncodingTable.Statement (.homePostingMerge chip mc) := EncodingTable.of_none rfl rfl
theorem EncodingTable.probeAckReceive (chip : Nat) (mc : Nat) : EncodingTable.Statement (.probeAckReceive chip mc) := EncodingTable.of_none rfl rfl
theorem EncodingTable.postingAck (chip : Nat) (mc : Nat) : EncodingTable.Statement (.postingAck chip mc) := EncodingTable.of_none rfl rfl
theorem EncodingTable.homeAtomic (chip : Nat) (mc : Nat) : EncodingTable.Statement (.homeAtomic chip mc) := EncodingTable.of_none rfl rfl
theorem EncodingTable.atomicReply (op : Nat) : EncodingTable.Statement (.atomicReply op) := EncodingTable.of_none rfl rfl
theorem EncodingTable.tableWalkStep (op : Nat) : EncodingTable.Statement (.tableWalkStep op) := EncodingTable.of_none rfl rfl
theorem EncodingTable.feFqhead (fe : Nat) (v : DWord) : EncodingTable.Statement (.feFqhead fe v) := EncodingTable.of_none rfl rfl
theorem EncodingTable.feFresume (fe : Nat) (v : DWord) : EncodingTable.Statement (.feFresume fe v) := EncodingTable.of_none rfl rfl
theorem EncodingTable.feTlbinv (fe : Nat) (v : DWord) : EncodingTable.Statement (.feTlbinv fe v) := EncodingTable.of_none rfl rfl
theorem EncodingTable.tlbinvComplete (fe : Nat) : EncodingTable.Statement (.tlbinvComplete fe) := EncodingTable.of_none rfl rfl
theorem EncodingTable.fePreemptSave (fe : Nat) (v : DWord) : EncodingTable.Statement (.fePreemptSave fe v) := EncodingTable.of_none rfl rfl
theorem EncodingTable.fePreemptRestore (fe : Nat) (v : DWord) : EncodingTable.Statement (.fePreemptRestore fe v) := EncodingTable.of_none rfl rfl
theorem EncodingTable.sliceEnd (core : Nat) (slot : Nat) : EncodingTable.Statement (.sliceEnd core slot) := EncodingTable.of_none rfl rfl
theorem EncodingTable.saveGraceExpiry (core : Nat) (slot : Nat) : EncodingTable.Statement (.saveGraceExpiry core slot) := EncodingTable.of_none rfl rfl
theorem EncodingTable.saveComplete (core : Nat) (slot : Nat) : EncodingTable.Statement (.saveComplete core slot) := EncodingTable.of_none rfl rfl
theorem EncodingTable.restore (core : Nat) (slot : Nat) : EncodingTable.Statement (.restore core slot) := EncodingTable.of_none rfl rfl
theorem EncodingTable.registerCompaction (core : Nat) : EncodingTable.Statement (.registerCompaction core) := EncodingTable.of_none rfl rfl
theorem EncodingTable.teamPlacement (fe : Nat) : EncodingTable.Statement (.teamPlacement fe) := EncodingTable.of_none rfl rfl
theorem EncodingTable.cohortPlacement (fe : Nat) : EncodingTable.Statement (.cohortPlacement fe) := EncodingTable.of_none rfl rfl
theorem EncodingTable.feSubmit (fe : Nat) (v : DWord) : EncodingTable.Statement (.feSubmit fe v) := EncodingTable.of_none rfl rfl
theorem EncodingTable.journalDurable (fe : Nat) (jseq : Nat) : EncodingTable.Statement (.journalDurable fe jseq) := EncodingTable.of_none rfl rfl
theorem EncodingTable.journalMirrorFailure (mc : Nat) : EncodingTable.Statement (.journalMirrorFailure mc) := EncodingTable.of_none rfl rfl
theorem EncodingTable.feReset (fe : Nat) (v : DWord) : EncodingTable.Statement (.feReset fe v) := EncodingTable.of_none rfl rfl
theorem EncodingTable.feCtlEnable (fe : Nat) : EncodingTable.Statement (.feCtlEnable fe) := EncodingTable.of_none rfl rfl
theorem EncodingTable.feCtlDisable (fe : Nat) : EncodingTable.Statement (.feCtlDisable fe) := EncodingTable.of_none rfl rfl
theorem EncodingTable.watchdogExpiry (fe : Nat) (jseq : Nat) : EncodingTable.Statement (.watchdogExpiry fe jseq) := EncodingTable.of_none rfl rfl
theorem EncodingTable.hardwareFailure (chip : Nat) : EncodingTable.Statement (.hardwareFailure chip) := EncodingTable.of_none rfl rfl
theorem EncodingTable.mgReset (v : DWord) (img : Nat) (cause : Nat) : EncodingTable.Statement (.mgReset v img cause) := EncodingTable.of_none rfl rfl
theorem EncodingTable.fatalDeviceError (cause : Nat) : EncodingTable.Statement (.fatalDeviceError cause) := EncodingTable.of_none rfl rfl
theorem EncodingTable.planesTrained : EncodingTable.Statement (.planesTrained) := EncodingTable.of_none rfl rfl
theorem EncodingTable.mgAttcmd (v : DWord) : EncodingTable.Statement (.mgAttcmd v) := EncodingTable.of_none rfl rfl
theorem EncodingTable.attestationDone : EncodingTable.Statement (.attestationDone) := EncodingTable.of_none rfl rfl
theorem EncodingTable.powerLimitReached : EncodingTable.Statement (.powerLimitReached) := EncodingTable.of_none rfl rfl
theorem EncodingTable.clockRaise : EncodingTable.Statement (.clockRaise) := EncodingTable.of_none rfl rfl
theorem EncodingTable.ttCommit (v : DWord) : EncodingTable.Statement (.ttCommit v) := EncodingTable.of_none rfl rfl
theorem EncodingTable.timetableRoundStart : EncodingTable.Statement (.timetableRoundStart) := EncodingTable.of_none rfl rfl
theorem EncodingTable.timetableSlotStart : EncodingTable.Statement (.timetableSlotStart) := EncodingTable.of_none rfl rfl
theorem EncodingTable.feWaymask (fe : Nat) (v : DWord) : EncodingTable.Statement (.feWaymask fe v) := EncodingTable.of_none rfl rfl
theorem EncodingTable.wayMaskApply (fe : Nat) (slice : Nat) : EncodingTable.Statement (.wayMaskApply fe slice) := EncodingTable.of_none rfl rfl
theorem EncodingTable.wayCleaningDone (fe : Nat) (slice : Nat) : EncodingTable.Statement (.wayCleaningDone fe slice) := EncodingTable.of_none rfl rfl
theorem EncodingTable.feAllowlim (fe : Nat) (v : DWord) : EncodingTable.Statement (.feAllowlim fe v) := EncodingTable.of_none rfl rfl
theorem EncodingTable.vfMbox (vf : Nat) (v : DWord) : EncodingTable.Statement (.vfMbox vf v) := EncodingTable.of_none rfl rfl
theorem EncodingTable.mailboxFifoRead (vf : Nat) : EncodingTable.Statement (.mailboxFifoRead vf) := EncodingTable.of_none rfl rfl
theorem EncodingTable.vfMap (vf : Nat) (v : DWord) : EncodingTable.Statement (.vfMap vf v) := EncodingTable.of_none rfl rfl
theorem EncodingTable.feJnlhead (fe : Nat) (v : DWord) : EncodingTable.Statement (.feJnlhead fe v) := EncodingTable.of_none rfl rfl
theorem EncodingTable.feProuthead (fe : Nat) (v : DWord) : EncodingTable.Statement (.feProuthead fe v) := EncodingTable.of_none rfl rfl
theorem EncodingTable.registerWrite (bar : Nat) (off : Nat) (v : DWord) : EncodingTable.Statement (.registerWrite bar off v) := EncodingTable.of_none rfl rfl
theorem EncodingTable.biasFlipToHost : EncodingTable.Statement (.biasFlipToHost) := EncodingTable.of_none rfl rfl
theorem EncodingTable.biasFlipToDevice : EncodingTable.Statement (.biasFlipToDevice) := EncodingTable.of_none rfl rfl
theorem EncodingTable.flushRequest (chip : Nat) : EncodingTable.Statement (.flushRequest chip) := EncodingTable.of_none rfl rfl
theorem EncodingTable.flushdone (chip : Nat) : EncodingTable.Statement (.flushdone chip) := EncodingTable.of_none rfl rfl
theorem EncodingTable.flushInvalidationAck (chip : Nat) : EncodingTable.Statement (.flushInvalidationAck chip) := EncodingTable.of_none rfl rfl
theorem EncodingTable.bisnpResponse (line : Nat) (half : Nat) (data : List Byte) : EncodingTable.Statement (.bisnpResponse line half data) := EncodingTable.of_none rfl rfl
theorem EncodingTable.hostMemRead (pa : Nat) (n : Nat) : EncodingTable.Statement (.hostMemRead pa n) := EncodingTable.of_none rfl rfl
theorem EncodingTable.hostMemWrite (pa : Nat) (data : List (Option Byte)) : EncodingTable.Statement (.hostMemWrite pa data) := EncodingTable.of_none rfl rfl
theorem EncodingTable.hostCacheRequest (line : Nat) (half : Nat) (own : Bool) : EncodingTable.Statement (.hostCacheRequest line half own) := EncodingTable.of_none rfl rfl
theorem EncodingTable.snpdata (line : Nat) (half : Nat) : EncodingTable.Statement (.snpdata line half) := EncodingTable.of_none rfl rfl
theorem EncodingTable.snpinv (line : Nat) (half : Nat) : EncodingTable.Statement (.snpinv line half) := EncodingTable.of_none rfl rfl
theorem EncodingTable.snpcur (line : Nat) (half : Nat) : EncodingTable.Statement (.snpcur line half) := EncodingTable.of_none rfl rfl
theorem EncodingTable.hostSectorGrant (chip : Nat) (line : Nat) (half : Nat) (data : HostData) (own : Bool) : EncodingTable.Statement (.hostSectorGrant chip line half data own) := EncodingTable.of_none rfl rfl
theorem EncodingTable.upgradeNotice (chip : Nat) (line : Nat) (half : Nat) : EncodingTable.Statement (.upgradeNotice chip line half) := EncodingTable.of_none rfl rfl
theorem EncodingTable.flitReceive (i : Nat) (j : Nat) (ok : Bool) : EncodingTable.Statement (.flitReceive i j ok) := EncodingTable.of_none rfl rfl
theorem EncodingTable.flitAck (i : Nat) (j : Nat) : EncodingTable.Statement (.flitAck i j) := EncodingTable.of_none rfl rfl
theorem EncodingTable.switchoverDrainTimeout (i : Nat) (j : Nat) : EncodingTable.Statement (.switchoverDrainTimeout i j) := EncodingTable.of_none rfl rfl
theorem EncodingTable.creditReturn (i : Nat) (j : Nat) : EncodingTable.Statement (.creditReturn i j) := EncodingTable.of_none rfl rfl
theorem EncodingTable.colourLoss (i : Nat) (j : Nat) (colour : Nat) : EncodingTable.Statement (.colourLoss i j colour) := EncodingTable.of_none rfl rfl
theorem EncodingTable.lossReport (i : Nat) (j : Nat) (colour : Nat) : EncodingTable.Statement (.lossReport i j colour) := EncodingTable.of_none rfl rfl
theorem EncodingTable.sepRoute (i : Nat) (j : Nat) (v : Word) : EncodingTable.Statement (.sepRoute i j v) := EncodingTable.of_none rfl rfl
theorem EncodingTable.colourRetest (i : Nat) (j : Nat) (colour : Nat) (ok : Bool) : EncodingTable.Statement (.colourRetest i j colour ok) := EncodingTable.of_none rfl rfl
theorem EncodingTable.lossOfLight (p : Nat) : EncodingTable.Statement (.lossOfLight p) := EncodingTable.of_none rfl rfl
theorem EncodingTable.trainingComplete (p : Nat) (partner : Nat) (us : Nat) : EncodingTable.Statement (.trainingComplete p partner us) := EncodingTable.of_none rfl rfl
theorem EncodingTable.trainingTimeout (p : Nat) : EncodingTable.Statement (.trainingTimeout p) := EncodingTable.of_none rfl rfl
theorem EncodingTable.edPortEnable (p : Nat) : EncodingTable.Statement (.edPortEnable p) := EncodingTable.of_none rfl rfl
theorem EncodingTable.edPortDisable (p : Nat) : EncodingTable.Statement (.edPortDisable p) := EncodingTable.of_none rfl rfl
theorem EncodingTable.ednanFlitReceive (p : Nat) (ok : Bool) (pkt : Packet) : EncodingTable.Statement (.ednanFlitReceive p ok pkt) := EncodingTable.of_none rfl rfl
theorem EncodingTable.collectivePacketReceive (p : Nat) : EncodingTable.Statement (.collectivePacketReceive p) := EncodingTable.of_none rfl rfl
theorem EncodingTable.topvCommit (v : DWord) : EncodingTable.Statement (.topvCommit v) := EncodingTable.of_none rfl rfl
theorem EncodingTable.cmCfg (v : DWord) : EncodingTable.Statement (.cmCfg v) := EncodingTable.of_none rfl rfl
theorem EncodingTable.cmMapdata (v : DWord) : EncodingTable.Statement (.cmMapdata v) := EncodingTable.of_none rfl rfl
theorem EncodingTable.collectiveComplete (op : Nat) : EncodingTable.Statement (.collectiveComplete op) := EncodingTable.of_none rfl rfl
theorem EncodingTable.deadlockProbe (chip : Nat) : EncodingTable.Statement (.deadlockProbe chip) := EncodingTable.of_none rfl rfl
theorem EncodingTable.cycleDelivery (chip : Nat) : EncodingTable.Statement (.cycleDelivery chip) := EncodingTable.of_none rfl rfl
theorem EncodingTable.priorityRaise (core : Nat) (slot : Nat) : EncodingTable.Statement (.priorityRaise core slot) := EncodingTable.of_none rfl rfl
theorem EncodingTable.waitReread (chip : Nat) (idx : Nat) : EncodingTable.Statement (.waitReread chip idx) := EncodingTable.of_none rfl rfl
theorem EncodingTable.noteArrival (core : Nat) : EncodingTable.Statement (.noteArrival core) := EncodingTable.of_none rfl rfl
theorem EncodingTable.noteBufferRetry (core : Nat) : EncodingTable.Statement (.noteBufferRetry core) := EncodingTable.of_none rfl rfl
theorem EncodingTable.noteAckReceive (op : Nat) : EncodingTable.Statement (.noteAckReceive op) := EncodingTable.of_none rfl rfl
theorem EncodingTable.windowChunkArrival (team : Nat) (region : Nat) (chunk : Nat) : EncodingTable.Statement (.windowChunkArrival team region chunk) := EncodingTable.of_none rfl rfl
theorem EncodingTable.mmaJob (core : Nat) (tile : Nat) : EncodingTable.Statement (.mmaJob core tile) := EncodingTable.of_none rfl rfl
theorem EncodingTable.mldaccJob (core : Nat) (tile : Nat) : EncodingTable.Statement (.mldaccJob core tile) := EncodingTable.of_none rfl rfl
theorem EncodingTable.mdrainJob (core : Nat) (tile : Nat) : EncodingTable.Statement (.mdrainJob core tile) := EncodingTable.of_none rfl rfl
theorem EncodingTable.mdrainqTurn (core : Nat) (tile : Nat) : EncodingTable.Statement (.mdrainqTurn core tile) := EncodingTable.of_none rfl rfl
theorem EncodingTable.tileStatusTurn (core : Nat) (tile : Nat) : EncodingTable.Statement (.tileStatusTurn core tile) := EncodingTable.of_none rfl rfl
theorem EncodingTable.mzeroTurn (core : Nat) (tile : Nat) : EncodingTable.Statement (.mzeroTurn core tile) := EncodingTable.of_none rfl rfl
theorem EncodingTable.churnGranule (op : Nat) (k : Nat) : EncodingTable.Statement (.churnGranule op k) := EncodingTable.of_none rfl rfl
theorem EncodingTable.proctorInvocation (port : Nat) : EncodingTable.Statement (.proctorInvocation port) := EncodingTable.of_none rfl rfl
theorem EncodingTable.proctorAttach (fe : Nat) (v : DWord) : EncodingTable.Statement (.proctorAttach fe v) := EncodingTable.of_none rfl rfl
theorem EncodingTable.proctorDetach (fe : Nat) (v : DWord) : EncodingTable.Statement (.proctorDetach fe v) := EncodingTable.of_none rfl rfl
theorem EncodingTable.registerScrub (core : Nat) (row : Nat) (lane : Nat) : EncodingTable.Statement (.registerScrub core row lane) := EncodingTable.of_none rfl rfl
theorem EncodingTable.storageScrub (kind : Nat) (place : Nat) (line : Nat) (fatal : Bool) : EncodingTable.Statement (.storageScrub kind place line fatal) := EncodingTable.of_none rfl rfl
theorem EncodingTable.dramPatrol (mc : Nat) (line : Nat) (bad : Bool) : EncodingTable.Statement (.dramPatrol mc line bad) := EncodingTable.of_none rfl rfl
theorem EncodingTable.unlistedOpcode (ws : List Word) : EncodingTable.Statement (.unlistedOpcode ws) := EncodingTable.of_none rfl rfl
theorem EncodingTable.scratchpadAccessComplete (op : Nat) : EncodingTable.Statement (.scratchpadAccessComplete op) := EncodingTable.of_none rfl rfl
theorem EncodingTable.chipletPowerGating (chip : Nat) : EncodingTable.Statement (.chipletPowerGating chip) := EncodingTable.of_none rfl rfl

end Sys2Proof.Laws
end

