-- ==== Sys2Proof/Tests/Slice0.lean ====
section
/-! SUPPORT. Tests of the model, each about one word or one step on a small state, and for every statement with hypotheses a witness
that they can be met. Words are assembled by hand from the encoding tables (R55, R64 to R73, R338) or taken from the manual's worked
encodings; expected results are the manual's or computed by hand from its rules. -/

namespace Sys2Proof.Tests

open Sys2Proof Sys2Proof.Machine

/-! ### Small states -/

/-- A fragment at word `idx` of a clause of `n` NOP words. -/
def fragAt (n idx : Nat) : Frag :=
  { firstFrag 0x1000 0 with hdr := plainHeader 0 n, words := List.replicate n 0x3F000000, idx := idx }

/-- A group in slot 0 of core 0 with some registers. -/
def grpOf (f : Frag) (s : Tab Word) (v : Tab (List Word)) : Group :=
  { Group.blank 0 0x1000 with vcount := 16, uid := 7, s := s, v := v, trapVa := 0x2000, split := [(0, .frag f)] }

/-- A state whose issuing fragment is fragment 0 of that group. -/
def stOf (g : Group) : State := { State.reset with groups := [(0, g)], cur := some (0, 0), nextOp := 10 }

/-- What issues there. -/
def ctxOf (g : Group) (f : Frag) : Ctx := { gid := 0, fi := 0, g := g, f := f }

def f0 : Frag := fragAt 7 1
def g0 : Group := grpOf f0 [(4, 3), (6, 0x40), (8, 7)] [(0, [5, 0x80000000]), (1, [2, 1]), (2, [0xFFFFFFFF, 9])]
def s0 : State := stOf g0
def x0 : Ctx := ctxOf g0 f0

/-- LG fields: D, A, B, C and MOD. -/
def lg (d a b c m : Nat) : Lg :=
  { sp := none, mod := BitVec.ofNat 5 m, fs := false, d := BitVec.ofNat 10 d, a := BitVec.ofNat 10 a, b := BitVec.ofNat 10 b
    c := BitVec.ofNat 10 c, hold := 0, lit := none }

/-- LB fields. -/
def lb (sel lo : Nat) (w1 : Word) : Lb := { sp := none, sel := BitVec.ofNat 10 sel, lo := BitVec.ofNat 6 lo, w1 := w1, lit := none }

/-- An instruction with its operands passes its checks in a state. -/
def passes (s : State) (x : Ctx) (i : Instr) (v : AluI) (os : Opnds) : Bool :=
  s.issuer == some x && (fieldsOk i && operandGate s x (usesOf v os) == .go)

theorem issues_of_passes {s : State} {x : Ctx} {i : Instr} {v : AluI} {os : Opnds} (h : passes s x i v os = true) :
    Issues s x i v os := by
  simp only [passes, Bool.and_eq_true, beq_iff_eq] at h
  exact ⟨h.1, h.2.1, h.2.2⟩

/-- Cases of instructions that pass. -/
theorem issues_of_all {s : State} {x : Ctx} {l : List (Instr × AluI × Opnds)}
    (h : (l.all fun p => passes s x p.1 p.2.1 p.2.2) = true) : ∀ p ∈ l, Issues s x p.1 p.2.1 p.2.2 :=
  fun p hp => issues_of_passes (List.all_eq_true.1 h p hp)

/-! ### Vector and uniform instructions: their hypotheses can be met -/

/-- An LG instruction with its operands. -/
def lgCase (i : Lg → Instr) (os : Opnds) (f : Lg) : Instr × AluI × Opnds := (i f, lgView f, os)

/-- VINT arithmetic, 64 bits too, and the highest V pair below VCOUNT. -/
def vintCases : List (Instr × AluI × Opnds) :=
  ([Instr.vadd, .vsub, .vmul, .vmulhi, .vabsd, .vmin, .vmax, .vdiv, .vrem].map fun i => lgCase i (dab .i32 .i32 .i32) (lg 15 0 1 0 0)) ++
  ([Instr.vadd, .vsub, .vmulhi, .vdiv, .vrem].map fun i => lgCase i (dab .i64 .i64 .i64) (lg 14 0 2 0 16)) ++
  [lgCase .vmad (dabc .i32 .i32 .i32 .i32) (lg 5 0 1 2 4), lgCase .vmadw (dabc .i64 .i32 .i32 .i64) (lg 6 0 1 2 0),
   lgCase .vaddc (dabc .n64 .i32 .i32 .n32) (lg 6 0 1 2 0), lgCase .vsubb (dabc .n64 .i32 .i32 .n32) (lg 6 0 1 2 0),
   lgCase .vlea (dabc .i64 .i64 .i32 .n32) (lg 6 0 1 2 0)]

theorem test_witness_VectorIntegerArithmetic : ∀ p ∈ vintCases, Issues s0 x0 p.1 p.2.1 p.2.2 := issues_of_all (by decide)


/-- VINT on bits. -/
def bitCases : List (Instr × AluI × Opnds) :=
  ([Instr.vand, .vor, .vxor, .vandn].map fun i => lgCase i (dab .n32 .n32 .n32) (lg 15 0 1 0 8)) ++
  ([Instr.vshl, .vshr, .vsra].map fun i => lgCase i (dab .n64 .n64 .n32) (lg 14 0 1 0 24)) ++
  ([Instr.vpopc, .vclz, .vbrev, .vmov].map fun i => lgCase i (da .n32 .n32) (lg 5 0 0 0 8)) ++
  [lgCase .vfshr (dabc .n32 .n32 .n32 .n32) (lg 5 0 1 2 8), lgCase .vbfe (dabc .i32 .i32 .n32 .n32) (lg 5 0 1 2 0),
   lgCase .vbfi [(.d, .dstV .i32 true), (.a, .src .i32), (.b, .src .n32), (.c, .src .n32)] (lg 5 0 1 2 0),
   lgCase .vsel [(.d, .dstV .i32 false), (.a, .src .i32), (.b, .src .i32), (.c, .spair true)] (lg 5 0 1 1022 0)]

theorem test_witness_VectorBitOperations : ∀ p ∈ bitCases, Issues s0 x0 p.1 p.2.1 p.2.2 := issues_of_all (by decide)

theorem test_witness_VectorBitOperations_fields : (OpTy.i32 = .i32 ∧ 31 < OpTy.i32.w) ∧ (OpTy.n64 = .n64 ∧ 63 < OpTy.n64.w) := by decide

/-- VS3 fields. -/
def vs (d a b : Nat) : Vs3 := { sp := none, d := BitVec.ofNat 8 d, a := BitVec.ofNat 8 a, b := BitVec.ofNat 8 b }
def vi (d a imm : Nat) : Vs2i := { sp := none, d := BitVec.ofNat 8 d, a := BitVec.ofNat 8 a, imm := BitVec.ofNat 8 imm }

def shortCases : List (Instr × AluI × Opnds) :=
  ([Instr.vaddShort, .vsubShort, .vmulShort, .vandShort, .vorShort, .vxorShort, .vminShort, .vmaxShort].map fun i =>
    (i (vs 15 0 1), vs3View (vs 15 0 1), dab .i32 .i32 .i32)) ++
  ([Instr.vshlShort, .vshrShort, .vsraShort].map fun i => (i (vs 5 0 1), vs3View (vs 5 0 1), dab .i32 .i32 .n32)) ++
  [(.vmovShort (vs 5 0 0), vs3View (vs 5 0 0), da .i32 .i32)] ++
  ([Instr.vaddi, .vandi].map fun i => (i (vi 5 0 0x80), vs2iView (vi 5 0 0x80), dab .i32 .i32 .i32)) ++
  ([Instr.vshli, .vshri].map fun i => (i (vi 5 0 31), vs2iView (vi 5 0 31), dab .i32 .i32 .n32))

theorem test_witness_VectorIntegerArithmetic_short : ∀ p ∈ shortCases, Issues s0 x0 p.1 p.2.1 p.2.2 := issues_of_all (by decide)

/-- Base V3 and constant index 12: V15 is the last register below VCOUNT. -/
theorem test_witness_IndexedMoves :
    let os : Opnds := [(.d, .dstV .i32 false), (.a, .vbase false), (.b, .src .n32)]
    let ox : Opnds := [(.d, .vbase false), (.a, .src .i32), (.b, .src .n32)]
    Issues s0 x0 (.vmovi (lg 5 3 524 0 0)) (lgView (lg 5 3 524 0 0)) os ∧
    Issues s0 x0 (.vmovx (lg 3 1 524 0 0)) (lgView (lg 3 1 524 0 0)) ox ∧
    (∀ l ∈ lanesOf x0.f.exec, indexBad x0.g.vcount false (3 + opVal s0 x0 (lgView (lg 5 3 524 0 0)) os .b l) = false) ∧
    indexedGate s0 x0 false true ((lanesOf x0.f.exec).map fun l => (l, 15)) .go = .go ∧
    indexedGate s0 x0 false false ((lanesOf x0.f.exec).map fun l => (l, 15)) .go = .go :=
  ⟨issues_of_passes (by decide), issues_of_passes (by decide), by decide, by decide, by decide⟩

/-- VFLT at F32, F64 and a packed format. -/
def fltCases : List (Instr × AluI × Opnds) :=
  ([Instr.vfadd, .vfsub, .vfmul, .vfmin, .vfmax, .vfcopys, .vfdiv].map fun i => lgCase i (dab .f32 .f32 .f32) (lg 15 0 1 0 0)) ++
  ([Instr.vfadd, .vfsub, .vfmul].map fun i => lgCase i (dab .f64 .f64 .f64) (lg 14 0 2 0 8)) ++
  ([Instr.vfmin, .vfmax].map fun i => lgCase i (dab .bf16x2 .bf16x2 .bf16x2) (lg 15 0 1 0 24)) ++
  [lgCase .vfma (dabc .f32 .f32 .f32 .f32) (lg 5 0 1 2 0), lgCase .vfrnd (da .f32 .f32) (lg 5 0 0 0 0),
   lgCase .vffract (da .f32 .f32) (lg 5 0 0 0 0), lgCase .vfdot2 (dabc .f32 .f16x2 .f16x2 .f32) (lg 5 0 1 2 16),
   lgCase .vfclass (da .n32 .f32) (lg 5 0 0 0 0), lgCase .vfldexp (dab .f32 .f32 .n32) (lg 5 0 1 0 0),
   lgCase .vffrexp (da .n32 .f32) (lg 5 0 0 0 0), (.vfmac (vs 6 4 5), macView (vs 6 4 5), dabc .f32 .f32 .f32 .f32)] ++
  ([Instr.vfaddShort, .vfsubShort, .vfmulShort, .vfminShort, .vfmaxShort].map fun i =>
    (i (vs 5 0 1), vs3View (vs 5 0 1), dab .f32 .f32 .f32))

theorem test_witness_VectorFloat : ∀ p ∈ fltCases, Issues s0 x0 p.1 p.2.1 p.2.2 := issues_of_all (by decide)

/-- 1 + 2^-24 rounds to 1.0 under RNE and up to the next value under RUP; both raise NX alone (R89, R92). -/
theorem test_witness_FloatRoundsOnce :
    roundFp f32 .rne false (2 ^ 24 + 1) (-24) = (0x3F800000, fNX) ∧ roundFp f32 .rup false (2 ^ 24 + 1) (-24) = (0x3F800001, fNX) ∧
    fNX &&& fOF = 0 ∧ f32 ∈ [f16, bf16, f32, f64] := by decide

def xfnCases : List (Instr × AluI × Opnds) :=
  [Instr.vrcp, .vrsq, .vsqrt, .vexp2, .vlog2, .vsinpi, .vcospi, .vtanh].flatMap fun i =>
    [lgCase i (da .f32 .f32) (lg 15 0 0 0 0), lgCase i (da .f64 .f64) (lg 14 0 0 0 8)]

theorem test_witness_Transcendentals : ∀ p ∈ xfnCases, Issues s0 x0 p.1 p.2.1 p.2.2 := issues_of_all (by decide)

/-- Conversions: F32 to F16, to I32, from I64 to F64; the three kinds of VPACK; unpacking; LG8. -/
def cnvCases : List (Instr × AluI × Opnds) :=
  [lgCase .vcvtf (da (holder (vcvtfFmt 2).2) (holder (vcvtfFmt 2).1)) (lg 4 0 0 0 8), lgCase .vcvtfi (da .i32 .f32) (lg 5 0 0 0 1),
   lgCase .vcvtif (da .f64 .i64) (lg 4 0 0 0 20), lgCase .vpack (dab .n32 .n32 .n32) (lg 5 0 1 0 0),
   lgCase .vpack (dab .n32 .n32 .n32) (lg 5 0 1 0 1), lgCase .vpack (dab .n64 .n32 .n32) (lg 4 0 1 0 2),
   lgCase .vunpk (da .n32 .n32) (lg 5 0 0 0 9), lgCase .vcvtlg (da .n32 .f32) (lg 5 0 0 0 0), lgCase .vlgcvt (da .n32 .n32) (lg 5 0 0 0 0)]

theorem test_witness_VectorConversions : ∀ p ∈ cnvCases, Issues s0 x0 p.1 p.2.1 p.2.2 := issues_of_all (by decide)

/-- Destinations S6:S7 (134) and NULL. -/
theorem test_witness_VectorCompares :
    ∀ p ∈ [lgCase .vcmp [(.d, .dstS true true), (.a, .src .i32), (.b, .src .i32)] (lg 134 0 1 0 2),
           lgCase .vcmp [(.d, .dstS true true), (.a, .src .n64), (.b, .src .n64)] (lg 1022 0 2 0 29),
           lgCase .vcmpf [(.d, .dstS true true), (.a, .src .f32), (.b, .src .f32)] (lg 134 0 1 0 7)],
      Issues s0 x0 p.1 p.2.1 p.2.2 := issues_of_all (by decide)

def laneCases : List (Instr × AluI × Opnds) :=
  [lgCase .vshfl (dab .n32 .n32 .n32) (lg 5 0 1 0 3), lgCase .vbcst [(.d, .dstV .n32 false), (.a, .src .n32), (.b, .uni .n32)] (lg 5 0 132 0 0),
   lgCase .vqswz [(.d, .dstV .n64 false), (.a, .src .n64), (.b, .uni .n32)] (lg 4 0 132 0 4),
   lgCase .vwrln [(.d, .dstV .n32 false), (.a, .uni .n32), (.b, .uni .n32)] (lg 5 132 513 0 0),
   lgCase .vmpfx [(.d, .dstV .n32 false), (.a, .uni .n64)] (lg 5 134 0 0 0),
   lgCase .vmatch [(.d, .dstV .n64 false), (.a, .src .n32)] (lg 4 0 0 0 0)]

theorem test_witness_LaneMoves : ∀ p ∈ laneCases, Issues s0 x0 p.1 p.2.1 p.2.2 := issues_of_all (by decide)

def redCases : List (Instr × AluI × Opnds) :=
  [lgCase .vrdln [(.d, .dstS false true), (.a, .src .n32), (.b, .uni .n32)] (lg 133 0 132 0 0),
   lgCase .vrdln [(.d, .dstS true true), (.a, .src .n64), (.b, .uni .n32)] (lg 1022 0 132 0 4),
   lgCase .vballot [(.d, .dstS true true), (.a, .src .n32)] (lg 134 0 0 0 0),
   lgCase .vred [(.d, .dstVS (redTy 0)), (.a, .src (redTy 0))] (lg 133 0 0 0 0),
   lgCase .vscan [(.d, .dstV (redTy 16) false), (.a, .src (redTy 16))] (lg 5 0 0 0 16)]

/-- EXEC zero, for VRED's second clause. -/
def f0z : Frag := { f0 with exec := 0 }
def g0z : Group := grpOf f0z [] []

theorem test_witness_LaneReductions :
    (∀ p ∈ redCases, Issues s0 x0 p.1 p.2.1 p.2.2) ∧
    Issues (stOf g0z) (ctxOf g0z f0z) (.vred (lg 133 0 0 0 0)) (lgView (lg 133 0 0 0 0)) [(.d, .dstVS (redTy 0)), (.a, .src (redTy 0))] ∧
    (laneTree (redOp 0 0) (fun l => some (l, 0)) 6 0).isSome = true :=
  ⟨issues_of_all (by decide), issues_of_passes (by decide), by decide⟩


/-- UALU with S, EXEC (771), FLAGS (772) and NULL destinations. -/
def uniCases : List (Instr × AluI × Opnds) :=
  let u (t : OpTy) (r : Bool) : Fld × Kind := (.d, .dstU t r)
  ([Instr.sadd, .ssub, .smul, .smulhi, .sand, .sor, .sxor, .sandn, .smin, .smax, .ssel].map fun i =>
    lgCase i [u .i32 false, (.a, .uni .i32), (.b, .uni .i32)] (lg 133 132 513 0 0)) ++
  ([Instr.sadd, .sand].map fun i => lgCase i [u .n64 false, (.a, .uni .n64), (.b, .uni .n64)] (lg 771 134 134 0 24)) ++
  ([Instr.sshl, .sshr, .ssra].map fun i => lgCase i [u .n32 false, (.a, .uni .n32), (.b, .uni .n32)] (lg 772 132 543 0 8)) ++
  ([Instr.spopc, .sclz, .smov, .smff1].map fun i => lgCase i [u .n32 false, (.a, .uni .n32)] (lg 1022 132 0 0 8)) ++
  [lgCase .sbfe [u .i32 false, (.a, .uni .i32), (.b, .uni .n32), (.c, .uni .n32)] (lg 133 132 513 514 0),
   lgCase .scmp [u .n32 false, (.a, .uni .i32), (.b, .uni .i32)] (lg 1022 132 513 0 2),
   lgCase .slea [u .i64 false, (.a, .uni .i64), (.b, .uni .i32), (.c, .uni .n32)] (lg 134 134 513 514 0),
   lgCase .smovk [u .n32 true, (.a, .uni .n32), (.c, .uni .n32)] (lg 133 132 0 514 8),
   (.saddi { sp := none, d := 6, a := 6, imm := 63 }, usView { sp := none, d := 6, a := 6, imm := 63 },
     [u .i32 false, (.a, .uni .i32), (.b, .uni .i32)]),
   (.smovi { sp := none, d := 6, imm := 0 }, usiView { sp := none, d := 6, imm := 0 }, [u .i32 false, (.a, .uni .i32)])]

theorem test_witness_UniformArithmetic : ∀ p ∈ uniCases, Issues s0 x0 p.1 p.2.1 p.2.2 := issues_of_all (by decide)

theorem test_witness_UniformArithmetic_floats :
    ∀ p ∈ [lgCase .sfadd [(.d, .dstU .f32 false), (.a, .uni .f32), (.b, .uni .f32)] (lg 133 132 540 0 0),
           lgCase .sfmul [(.d, .dstU .f64 false), (.a, .uni .f64), (.b, .uni .f64)] (lg 134 134 540 0 8),
           lgCase .sfma [(.d, .dstU .f32 false), (.a, .uni .f32), (.b, .uni .f32), (.c, .uni .f32)] (lg 133 132 540 538 0)],
      Issues s0 x0 p.1 p.2.1 p.2.2 := issues_of_all (by decide)

/-! ### Control: hypotheses can be met -/

/-- A control instruction passes its checks. -/
def ctlPasses (s : State) (x : Ctx) (i : Instr) (len : Nat) (branch : Bool) (u : Use) : Bool :=
  s.issuer == some x && (fieldsOk i && (operandGate s x u == .go && (!branch || x.f.isLast len)))

theorem ctlReady_of {s : State} {x : Ctx} {i : Instr} {len : Nat} {branch : Bool} {u : Use}
    (h : ctlPasses s x i len branch u = true) : CtlReady s x i len branch u := by
  simp only [ctlPasses, Bool.and_eq_true, Bool.or_eq_true, Bool.not_eq_true', beq_iff_eq] at h
  exact ⟨⟨h.1, h.2.1, h.2.2.1⟩, fun hb => h.2.2.2.resolve_left (by simp [hb])⟩

/-- A clause of one branch of two words; S6:S7 holds 0x40, S8:S9 holds 7. -/
def fB : Frag := fragAt 2 1
def gB : Group := grpOf fB [(6, 0x40), (8, 7)] []
def sB : State := stOf gB
def xB : Ctx := ctxOf gB fB

/-- A clause of one short branch. -/
def fT : Frag := fragAt 1 1
def gT : Group := grpOf fT [] []

theorem test_witness_Branches :
    CtlReady sB xB (.jmp (lb 0 0 0xFFFFFFFE)) 2 true Use.none ∧ CtlReady sB xB (.brs (lb 0 32 8)) 2 true Use.none ∧
    CtlReady sB xB (.brz (lb 132 0 8)) 2 true (useOf .sreg (.s 4)) ∧
    CtlReady sB xB (.brz (lb 134 32 8)) 2 true (useOf (.spair false) (.s 6)) ∧
    CtlReady sB xB (.call (lb 510 0 8)) 2 true (useOf (.dstS true false) (.s 382)) ∧
    CtlReady sB xB (.ret (lb 134 0 0)) 2 true (useOf (.spair false) (.s 6)) ∧ sval gB true 6 % 4 = 0 ∧
    CtlReady sB xB (.jmpi (lb 134 0 0)) 2 true (useOf (.spair false) (.s 6)) ∧
    CtlReady sB xB (.ret (lb 136 0 0)) 2 true (useOf (.spair false) (.s 8)) ∧ sval gB true 8 % 4 ≠ 0 ∧
    CtlReady sB xB (.jmpi (lb 136 0 0)) 2 true (useOf (.spair false) (.s 8)) ∧
    CtlReady sB xB (.yield (lb 0 0 0)) 2 false Use.none ∧
    CtlReady (stOf gT) (ctxOf gT fT) (.jmpShort { sp := none, cond := 0, off := 0xFFFF5 }) 1 true Use.none ∧
    CtlReady (stOf gT) (ctxOf gT fT) (.brsShort { sp := none, cond := 1, off := 2 }) 1 true Use.none ∧
    (stOf gT).issuer = some (ctxOf gT fT) :=
  ⟨ctlReady_of (by decide), ctlReady_of (by decide), ctlReady_of (by decide), ctlReady_of (by decide), ctlReady_of (by decide),
    ctlReady_of (by decide), by decide, ctlReady_of (by decide), ctlReady_of (by decide), by decide, ctlReady_of (by decide),
    ctlReady_of (by decide), ctlReady_of (by decide), ctlReady_of (by decide), by decide⟩

/-- SPLIT on S6:S7 (no lane, all lanes, lanes 0 to 5), at depth 63, the last that may divide, and at 64. -/
def splitState (mask : Nat) (depth : Nat) : Group :=
  grpOf { fB with depth := depth } [(6, BitVec.ofNat 32 mask), (7, BitVec.ofNat 32 (mask / 2 ^ 32))] []

def splitOk (mask depth : Nat) : Bool :=
  let g := splitState mask depth
  ctlPasses (stOf g) (ctxOf g { fB with depth := depth }) (.split (lb 134 0 0x00080010)) 2 true (useOf (.spair false) (.s 6))

theorem test_witness_SplitDivides :
    splitOk 0 0 = true ∧ splitOk (2 ^ 64 - 1) 0 = true ∧ splitOk 0x3F 63 = true ∧ splitOk 0x3F 64 = true ∧
    (let g := splitState 0x3F 63
     let f : Frag := { fB with depth := 63 }
     let taken := BitVec.ofNat 64 (sval g true 6) &&& f.exec
     taken ≠ 0 ∧ f.members &&& ~~~taken ≠ 0 ∧ f.depth + 1 ≤ 64 ∧ 3 ≤ freeEntries g ∧
       branchTarget (ctxOf g f) 16 ≠ branchTarget (ctxOf g f) 8 ∧ branchTarget (ctxOf g f) 16 ≠ f.fallThrough ∧
       (∀ id, g.region? id = none)) := by
  refine ⟨by decide, by decide, by decide, by decide, by decide, by decide, by decide, by decide, by decide, by decide, fun id => rfl⟩

/-- A fragment in region 3, whose members 0 to 7 are joined in it by others; it has lanes 0 and 1 active. -/
def fR : Frag := { fB with members := 0xFF, exec := 3, depth := 1, region := some 3 }
def rR : Region := { id := 3, rpc := 0x9000, expected := 0xFFFF, arrived := 0, depth := 1, outer := none }
def gR : Group := { grpOf fR [] [] with split := [(0, .frag fR), (1, .region rR)] }
def sR : State := stOf gR
def xR : Ctx := ctxOf gR fR

theorem test_witness_BreakLeaves :
    (CtlReady sR xR (.break (lb 128 0 8)) 2 true Use.none ∧ fR.depth < 2) ∧
    (CtlReady sR xR (.break (lb 64 0 8)) 2 true Use.none ∧ 1 ≤ fR.depth ∧ fR.exec ≠ 0 ∧ fR.members &&& ~~~fR.exec ≠ 0 ∧
      3 ≤ freeEntries gR ∧ gR.region? 3 = some (1, rR) ∧ Tab.get? gR.split 1 = some (.region rR) ∧ rR.rpc ≠ fR.fallThrough ∧
      rR.expected &&& ~~~fR.exec ≠ 0 ∧ rR.arrived ≠ rR.expected &&& ~~~fR.exec) ∧
    (let f : Frag := { fR with exec := 0 }
     let g : Group := { gR with split := [(0, .frag f), (1, .region rR)] }
     CtlReady (stOf g) (ctxOf g f) (.break (lb 64 0 8)) 2 true Use.none ∧ f.exec = 0 ∧ f.members ≠ 0) :=
  ⟨⟨ctlReady_of (by decide), by decide⟩, ⟨ctlReady_of (by decide), by decide⟩, ⟨ctlReady_of (by decide), by decide⟩⟩

theorem test_witness_ExitEnds :
    (CtlReady sB xB (.exit (lb 0 0 0)) 2 true Use.none ∧ fB.region = none ∧ (∀ e ∈ gB.frags, e.1 = xB.fi)) ∧
    (CtlReady sR xR (.exit (lb 0 0 0)) 2 true Use.none ∧ gR.region? 3 = some (1, rR) ∧ rR.expected &&& ~~~fR.members ≠ 0 ∧
      rR.arrived ≠ rR.expected &&& ~~~fR.members) :=
  ⟨⟨ctlReady_of (by decide), by decide⟩, ⟨ctlReady_of (by decide), by decide⟩⟩

/-- TRAP; a reserved MOD; an odd pair (ILLOPND), V16 with VCOUNT 16 (REGIDX), a stale latch; and without a handler. -/
theorem test_witness_TrapsTaken :
    Issues s0 x0 (.trap (lg 0 0 513 0 0)) (lgView (lg 0 0 513 0 0)) [(.b, .uni .n32)] ∧ x0.g.trapVa ≠ 0 ∧ x0.g.hmode = none ∧
    fieldsOk (.vadd (lg 5 0 1 0 1)) = false ∧ fieldsOk (.sadd (lg 133 132 513 0 1)) = false ∧ fieldsOk (.vadd (lg 5 0 1 0 16)) = true ∧
    operandGate s0 x0 (usesOf (lgView (lg 5 0 1 0 16)) (dab .i64 .i64 .i64)) = .trap 0x02 0 0 ∧
    operandGate s0 x0 (usesOf (lgView (lg 5 16 1 0 0)) (dab .i32 .i32 .i32)) = .trap 0x05 16 0 ∧
    operandGate s0 x0 (usesOf (lgView (lg 133 768 513 0 0)) [(.d, .dstU .i32 false), (.a, .uni .i32), (.b, .uni .i32)]) = .trap 0x06 0 0 :=
  ⟨issues_of_passes (by decide), by decide, by decide, by decide, by decide, by decide, by decide, by decide, by decide⟩

/-- Uses for each row of R60: none is asked twice. -/
theorem test_witness_OperandChecksInOrder :
    let u : Use := { Use.none with vs := [17, 16] }
    let l : Use := { Use.none with vs := [15], latches := [0] }
    let q : Use := { Use.none with qs := [4] }
    (u.bad = false ∧ u.lits < 2 ∧ 16 ∈ u.vs ∧ x0.g.vcount ≤ 16 ∧ ∀ k ∈ u.vs, x0.g.vcount ≤ k → 16 ≤ k) ∧
    ((∀ k ∈ l.vs, k < x0.g.vcount) ∧ ∃ n ∈ l.latches, latchOk x0.f n = false) ∧
    ((∀ n ∈ q.latches, latchOk x0.f n = true) ∧ ∃ n ∈ q.qs, queueReady x0.g n = false) := by decide

/-- A state where word 0 of V0 has an error. -/
def sBad (double : Bool) : State := { s0 with cores := [(0, { Core.empty with bad := [(badKey (rowOf x0 0) 0, double)] })] }

/-- A word read with two wrong bits, with one, and ranges that reach past VCOUNT and past S383. -/
theorem test_witness_OperandChecksInOrder_errors :
    let u : Use := { Use.none with rd := [0] }
    let v := lg 0 15 517 0 0
    let r := lg 0 508 517 0 0
    operandGate (sBad true) x0 u = .trap 0x11 0 0 ∧ (operandGate (sBad false) x0 u).reads = true ∧ operandGate s0 x0 u = .go ∧
    inMask x0.f.exec 0 = true ∧ Tab.get? x0.g.pend 0 = none ∧ Tab.get? x0.g.note 0 ≠ some .empty ∧
    s0.issuer = some x0 ∧ fieldsOk (.expect v) = true ∧ rangeBase (sel10 v.a) = some 15 ∧ x0.g.vcount < 15 + opVal s0 x0 (lgView v) (rangeOps []) .b 0 ∧
    operandGate s0 x0 (Use.and (baseUse (sel10 v.a)) (usesOf (lgView v) (rangeOps []))) = .go ∧
    fieldsOk (.expect r) = true ∧ rangeBase (sel10 r.a) = some 508 ∧ 512 < 508 + opVal s0 x0 (lgView r) (rangeOps []) .b 0 ∧
    operandGate s0 x0 (Use.and (baseUse (sel10 r.a)) (usesOf (lgView r) (rangeOps []))) = .go := by decide

/-- A handler whose record resumes at word 2 of 0x1000, and a TRET outside a handler. -/
def gH : Group := { grpOf f0 [(370, 0x1000), (372, 2), (374, 0xFF), (383, 3)] [] with hmode := some 0 }

theorem test_witness_TrapReturns :
    Issues (stOf gH) (ctxOf gH f0) (.tret (lg 0 0 0 0 0)) (lgView (lg 0 0 0 0 0)) [] ∧ gH.hmode = some 0 ∧
    (gH.spair 370).toNat % 4 = 0 ∧ (gH.sreg 372).toNat % 16 ≠ 0 ∧
    Issues s0 x0 (.tret (lg 0 0 0 0 0)) (lgView (lg 0 0 0 0 0)) [] ∧ x0.g.hmode ≠ some x0.fi :=
  ⟨issues_of_passes (by decide), by decide, by decide, by decide, issues_of_passes (by decide), by decide⟩

/-! ### Memory operations: hypotheses can be met -/

/-- A memory instruction passes its checks. -/
def memPasses (s : State) (x : Ctx) (i : MemIssue) (kind : AccKind) : Bool :=
  s.issuer == some x && (i.ok && (operandGate s x i.use == .go && ((!i.vector || x.f.exec != 0) &&
    ((match i.align with | some n => i.addrs.all fun a => a.2 % n == 0 | none => true) &&
      (objectWaits s x i kind == none && (objectHit s x i kind == none && (flagFull x.g i.flag == none && (allTranslated s x.g.uid &&
        ((!i.replay || decide (replayable s x.g.uid < 16)) &&
          linkCause s x.g.uid == none)))))))))

theorem memReady_of {s : State} {x : Ctx} {i : MemIssue} {kind : AccKind} (h : memPasses s x i kind = true) : MemReady s x i kind := by
  simp only [memPasses, Bool.and_eq_true, Bool.or_eq_true, Bool.not_eq_true', beq_iff_eq, bne_iff_ne, decide_eq_true_eq] at h
  obtain ⟨h1, h2, h3, h4, h5, h6, h7, h8, h9, h10, h11⟩ := h
  refine ⟨h1, h2, h3, fun hv => h4.resolve_left (by simp [hv]), fun n hn a ha => ?_, h6, h7, h8, h9, fun hr => h10.resolve_left (by simp [hr]),
    h11⟩
  rw [hn] at h5
  simpa using List.all_eq_true.1 h5 a ha

/-- LM fields: data register, address, OFF, SIZE, ORDER. Address S6:S7 (134) is uniform, V0:V1 (0) is a lane's. -/
def lmF (d addr off size order : Nat) : Lm :=
  { sp := none, nt := false, sx := false, size := BitVec.ofNat 3 size, fs := false, d := BitVec.ofNat 10 d, off := BitVec.ofNat 16 off
    scope := if order = 0 then 0 else 2, order := BitVec.ofNat 3 order, addr := BitVec.ofNat 10 addr, lit := none }

/-- LA fields: destination, ATOM operation, type, CMP, DATA, address, OFF. -/
def laF (d aop ty cmp data addr off : Nat) : La :=
  { sp := none, aop := BitVec.ofNat 5 aop, fs := false, d := BitVec.ofNat 10 d, ty := BitVec.ofNat 2 ty, cmp := BitVec.ofNat 10 cmp
    data := BitVec.ofNat 10 data, addr := BitVec.ofNat 10 addr, order := 0, scope := 0, off := BitVec.ofNat 16 off, lit := none }

/-- One active lane; V0:V1 holds 0x2_00000040 in it, S6:S7 holds 0x1_00000040. -/
def fM : Frag := { fragAt 7 1 with exec := 1 }
def gM : Group := grpOf fM [(4, 3), (6, 0x40), (7, 1), (8, 7)] [(0, [0x40]), (1, [2]), (2, [9])]
def sM : State := stOf gM
def xM : Ctx := ctxOf gM fM

theorem test_witness_GlobalAccessesIssue :
    MemReady sM xM (lmIssue 0x10 0 false false (lmF 8 0 0xFFF1 2 0) xM) .load ∧
    MemReady sM xM (lmIssue 0x10 2 true false (lmF 136 134 8 3 2) xM) .load ∧
    MemReady sM xM (lmIssue 0x10 1 false true (lmF 4 0 3 4 0) xM) .store ∧
    MemReady sM xM (lmIssue 0x10 3 true true (lmF 132 134 0 2 0) xM) .store ∧
    (let f := lmF 0 0 0x8000 0 0
     MemReady sM xM
       { ok := fieldsOk (.cpf f), use := useAddr false (sel10 f.addr), len := 2 + tailLen f.lit f.sp, sp := f.sp.isSome, flag := none
         vector := true, align := none, addrs := laneAddrs xM false (sel10 f.addr) (sgn 16 f.off.toNat) 1, writes := 0
         padWrites := [], replay := false } .load) :=
  ⟨memReady_of (by decide), memReady_of (by decide), memReady_of (by decide), memReady_of (by decide), memReady_of (by decide)⟩

theorem test_witness_GlobalAtomicsIssue :
    MemReady sM xM (laIssue 0 false true (laF 8 0 0 0 2 0 4) xM) .atomic ∧ MemReady sM xM (laIssue 0 false true (laF 8 8 0 2 2 0 0) xM) .atomic ∧
    MemReady sM xM (laIssue 3 true true (laF 136 0 2 0 136 134 8) xM) .atomic :=
  ⟨memReady_of (by decide), memReady_of (by decide), memReady_of (by decide)⟩

/-- A team of 16,384 bytes on core 0, with region 0 bound to its first 1,024 bytes. -/
def wB : Window := { Window.free with state := 1, bytes := 1024, rowlen := 1024, src := 0x1000 }
def tmT : Team :=
  { launch := 0, part := 0, core := 0, cohort := 0, member := 0, teams := 4, base := 0, size := 16384, pad := [], poison := []
    regions := [(0, wB)], alive := 1, arrivals := [] }
def sP : State := { sM with teams := [(0, tmT)] }

theorem test_witness_ScratchpadOperationsIssue :
    MemReady sP xM { lmIssue 0x11 0 false false (lmF 8 0 0 2 0) xM with padWrites := [] } .load ∧
    MemReady sP xM { lmIssue 0x11 1 false true (lmF 2 0 0 2 0) xM with
      padWrites := padSpans sP xM false 4 (lmIssue 0x11 1 false true (lmF 2 0 0 2 0) xM).addrs } .load ∧
    MemReady sP xM { lmIssue 0x11 3 false true (lmF 2 0 0 2 0) xM with
      padWrites := padSpans sP xM true 4 (lmIssue 0x11 3 false true (lmF 2 0 0 2 0) xM).addrs } .load ∧
    MemReady sP xM { laIssue 1 false false (laF 8 0 0 0 2 0 0) xM with
      padWrites := padSpans sP xM false 4 (laIssue 1 false false (laF 8 0 0 0 2 0 0) xM).addrs } .load :=
  ⟨memReady_of (by decide), memReady_of (by decide), memReady_of (by decide), memReady_of (by decide)⟩

/-- EXEC zero; a GATOM at address 0x2_00000041; flag 0 joined at 63; an operation of the group that is not translated. -/
def fZ : Frag := { fM with exec := 0 }
def gZ : Group := grpOf fZ [] []
def fJ : Frag := { fM with hdr := 0xA7800007 }
def gJ : Group := { grpOf fJ [] [(0, [0x41]), (1, [2])] with fcnt := [63] }
def gN : Group := { gJ with fcnt := [62] }
def sN : State := { stOf gN with ops := [(3, { blankOp (stOf gN) (ctxOf gN fJ) .store none with stage := .translate })] }

theorem test_witness_MemoryIssueStops :
    ((stOf gZ).issuer = some (ctxOf gZ fZ) ∧ fieldsOk (.gld (lmF 8 0 0 2 0)) = true ∧
      operandGate (stOf gZ) (ctxOf gZ fZ) (lmIssue 0x10 0 false false (lmF 8 0 0 2 0) (ctxOf gZ fZ)).use = .go) ∧
    ((stOf gJ).issuer = some (ctxOf gJ fJ) ∧ (laIssue 0 false true (laF 8 0 0 0 2 0 0) (ctxOf gJ fJ)).ok = true ∧
      operandGate (stOf gJ) (ctxOf gJ fJ) (laIssue 0 false true (laF 8 0 0 0 2 0 0) (ctxOf gJ fJ)).use = .go ∧
      (laIssue 0 false true (laF 8 0 0 0 2 0 0) (ctxOf gJ fJ)).addrs.find? (fun b => b.2 % 4 != 0) = some (0, 0x200000041) ∧
      (padAtomIssue (stOf gJ) 1 false (laF 8 0 0 0 2 0 0) (ctxOf gJ fJ)).addrs.find? (fun b => b.2 % 4 != 0) = some (0, 0x200000041) ∧
      allTranslated (stOf gJ) gJ.uid = true) ∧
    (operandGate (stOf gJ) (ctxOf gJ fJ) (lmIssue 0x10 0 false false (lmF 8 0 0 2 0) (ctxOf gJ fJ)).use = .go ∧
      joinFlag fJ false = some 0 ∧ 63 ≤ nth gJ.fcnt 0 0) ∧
    (sN.issuer = some (ctxOf gN fJ) ∧ operandGate sN (ctxOf gN fJ) (lmIssue 0x10 0 false false (lmF 8 0 0 2 0) (ctxOf gN fJ)).use = .go ∧
      nth gN.fcnt 0 0 = 62 ∧ allTranslated sN gN.uid = false) := by decide

/-- An earlier FENCE of the group is open, behind a load that is still outstanding. -/
def sFen : State :=
  { s0 with ops := [(3, { blankOp s0 x0 .load none with stage := .ready }),
                    (4, { blankOp s0 x0 .fence none with stage := .ready, order := 3, scope := 2, src := [0], dst := [0] })] }

/-- FENCE.acq.sys, FENCEX from path 0 to path 6, CINV, CWB. -/
theorem test_witness_FencesIssue :
    Issues s0 x0 (.fence (lg 0 0 0 0 0x20)) (lgView (lg 0 0 0 0 0x20)) [] ∧ allTranslated s0 x0.g.uid = true ∧
    flagFull x0.g (joinFlag x0.f false) = none ∧
    Issues s0 x0 (.fencex (lg 0 512 518 0 0x20)) (lgView (lg 0 512 518 0 0x20)) [] ∧ sel10 512 = .const 0 ∧ sel10 518 = .const 6 ∧
    Issues s0 x0 (.cinv (lg 0 0 0 0 0)) (lgView (lg 0 0 0 0 0)) [] ∧ fenceHolds s0 x0.g.uid s0.nextOp 0 = false ∧
    (Issues sFen x0 (.cinv (lg 0 0 0 0 0)) (lgView (lg 0 0 0 0 0)) [] ∧ allTranslated sFen x0.g.uid = true ∧
      fenceHolds sFen x0.g.uid sFen.nextOp 0 = true) ∧
    Issues s0 x0 (.cwb (lg 0 0 0 0 0)) (lgView (lg 0 0 0 0 0)) [] :=
  ⟨issues_of_passes (by decide), by decide, by decide, issues_of_passes (by decide), by decide, by decide, issues_of_passes (by decide),
    by decide, ⟨issues_of_passes (by decide), by decide, by decide⟩, issues_of_passes (by decide)⟩

/-- S10 to S15 describe 1,024 bytes in one row; S6:S7 selects chunks 0 and 6. -/
def gW : Group := grpOf fM [(4, 64), (5, 63), (6, 0x41), (11, 1024), (12, 0x1000), (15, 1024)] []
def xW : Ctx := ctxOf gW fM
def sW (w : Window) : State := { stOf gW with teams := [(0, { tmT with regions := [(0, w), (63, w)] })] }

theorem test_witness_WindowInstructions :
    (Tab.get? (sW wB).teams xW.g.team = some { tmT with regions := [(0, wB), (63, wB)] } ∧ wB.held = [] ∧ allTranslated (sW wB) xW.g.uid = true) ∧
    (Issues (sW wB) xW (.wwarm (lg 0 0 132 0 0)) (lgView (lg 0 0 132 0 0)) [(.b, .uni .n32)] ∧
      63 < opVal (sW wB) xW (lgView (lg 0 0 132 0 0)) [(.b, .uni .n32)] .b 0) ∧
    (Ready (sW wB) xW (fieldsOk (.wbind (lg 0 138 133 0 0)))
        (Use.and (descUse (sel10 (lg 0 138 133 0 0).a)) (usesOf (lgView (lg 0 138 133 0 0)) [(.b, .uni .n32)])) ∧
      descOk tmT.size (descWords xW (sel10 138)) = true ∧ copyRunning (sW wB) xW.g.team 63 = false) ∧
    Issues (sW wB) xW (.wunbind (lg 0 0 133 0 0)) (lgView (lg 0 0 133 0 0)) [(.b, .uni .n32)] ∧
    Issues (sW wB) xW (.wwarm (lg 0 0 133 0 0)) (lgView (lg 0 0 133 0 0)) [(.b, .uni .n32)] ∧
    Issues (sW wB) xW (.wtest (lg 136 134 133 512 0)) (lgView (lg 136 134 133 512 0))
      [(.d, .dstS true true), (.b, .uni .n32), (.a, .spair false), (.c, .uni .n32)] ∧
    (Issues (sW wB) xW (.wwait (lg 0 134 133 512 0)) (lgView (lg 0 134 133 512 0)) [(.b, .uni .n32), (.a, .spair false), (.c, .uni .n32)] ∧
      wB.chunkCount = 2 ∧ bitAt wB.chunks 0 = false ∧ (entriesAt (sW wB) xW).length < 4096) ∧
    ({ wB with chunks := 1 }.chunkCount = 2 ∧ bitAt { wB with chunks := 1 }.chunks 0 = true) ∧
    (Issues (sW wB) xW (.wslice (lg 0 0 133 516 0)) (lgView (lg 0 0 133 516 0)) [(.b, .uni .n32), (.c, .uni .n32)] ∧
      opVal (sW wB) xW (lgView (lg 0 0 133 516 0)) [(.b, .uni .n32), (.c, .uni .n32)] .c 0 = tmT.teams ∧
      xW.g.cohid ≠ BitVec.ofNat 32 0xFFFFFFFF ∧ tmT.member < 4 ∧ Tab.get? (sW wB).sliceSets (setKey tmT 63) = none) := by
  refine ⟨by decide, ⟨issues_of_passes (by decide), by decide⟩, ⟨⟨by decide, by decide, by decide⟩, by decide, by decide⟩,
    issues_of_passes (by decide), issues_of_passes (by decide), issues_of_passes (by decide),
    ⟨issues_of_passes (by decide), by decide, by decide, by decide⟩, by decide,
    issues_of_passes (by decide), by decide, by decide, by decide, by decide⟩

/-- Window instructions on region 64, with a first chunk of 1, a descriptor above the scratchpad, counts 0 and 5; an open set that agrees and one with
another count. -/
theorem test_witness_WindowInstructions_stops :
    let os : Opnds := [(.b, .uni .n32), (.c, .uni .n32)]
    let set (n : Nat) : SliceSet := { n := n, desc := wB.desc, teams := [1], members := [] }
    let key := setKey tmT 63
    (Issues (sW wB) xW (.wunbind (lg 0 0 132 0 0)) (lgView (lg 0 0 132 0 0)) [(.b, .uni .n32)] ∧
      Issues (sW wB) xW (.wslice (lg 0 0 132 516 0)) (lgView (lg 0 0 132 516 0)) os) ∧
    (Issues (sW wB) xW (.wwait (lg 0 134 133 513 0)) (lgView (lg 0 134 133 513 0)) [(.b, .uni .n32), (.a, .spair false), (.c, .uni .n32)] ∧
      opVal (sW wB) xW (lgView (lg 0 134 133 513 0)) os .c 0 % 64 ≠ 0) ∧
    descOk 512 (descWords xW (sel10 138)) = false ∧
    (Issues (sW wB) xW (.wslice (lg 0 0 133 512 0)) (lgView (lg 0 0 133 512 0)) os ∧ opVal (sW wB) xW (lgView (lg 0 0 133 512 0)) os .c 0 = 0) ∧
    (Issues (sW wB) xW (.wslice (lg 0 0 133 517 0)) (lgView (lg 0 0 133 517 0)) os ∧
      tmT.teams < opVal (sW wB) xW (lgView (lg 0 0 133 517 0)) os .c 0) ∧
    (let s := { sW wB with sliceSets := [(key, set 4)] }
     Issues s xW (.wslice (lg 0 0 133 516 0)) (lgView (lg 0 0 133 516 0)) os ∧ Tab.get? s.sliceSets key = some (set 4) ∧
       xW.g.team ∉ (set 4).teams ∧ wB.whole = false) ∧
    (let s := { sW wB with sliceSets := [(key, set 3)], teams := (sW wB).teams ++ [(1, { tmT with member := 1, regions := [(63, wB)] })] }
     Issues s xW (.wslice (lg 0 0 133 516 0)) (lgView (lg 0 0 133 516 0)) os ∧ (set 3).n ≠ 4 ∧ tmT.member < (set 3).n ∧
       (s.teams.find? fun e => e.1 == 1 && !(e.2.region 63).whole).isSome = true) := by
  refine ⟨⟨issues_of_passes (by decide), issues_of_passes (by decide)⟩, ⟨issues_of_passes (by decide), by decide⟩, by decide,
    ⟨issues_of_passes (by decide), by decide⟩, ⟨issues_of_passes (by decide), by decide⟩, ⟨issues_of_passes (by decide), by decide, by decide, by decide⟩,
    ⟨issues_of_passes (by decide), by decide, by decide, by decide⟩⟩

/-- Churn jobs of four words; CHRED of eight bytes of 64-bit elements. S8:S9 holds 0x400. -/
def gC : Group := grpOf fM [(6, 0x40), (8, 0x400)] []
def xC : Ctx := ctxOf gC fM

theorem test_witness_ChurnIssues :
    Issues (stOf gC) xC (.chfill (lg 0 134 513 520 0)) (lgView (lg 0 134 513 520 0)) (churnOps 0) ∧
    Issues (stOf gC) xC (.chcopy (lg 0 134 136 520 0)) (lgView (lg 0 134 136 520 0)) (churnOps 1) ∧
    Issues (stOf gC) xC (.chcmp (lg 0 134 136 520 0)) (lgView (lg 0 134 136 520 0)) (churnOps 2) ∧
    Issues (stOf gC) xC (.chred (lg 0 134 0 520 8)) (lgView (lg 0 134 0 520 8)) (churnOps 3) ∧
    opVal (stOf gC) xC (lgView (lg 0 134 136 520 0)) (churnOps 1) .a 0 = 0x40 ∧
    opVal (stOf gC) xC (lgView (lg 0 134 136 520 0)) (churnOps 1) .b 0 = 0x400 ∧
    opVal (stOf gC) xC (lgView (lg 0 134 0 520 8)) (churnOps 3) .c 0 = 8 ∧ flagFull xC.g none = none ∧ queueFree xC.g 4 ≠ 0 :=
  ⟨issues_of_passes (by decide), issues_of_passes (by decide), issues_of_passes (by decide), issues_of_passes (by decide), by decide,
    by decide, by decide, by decide, by decide⟩

/-- Misaligned: A, B, a count of 1, a count of 4 for 64-bit elements; and a count of 0. -/
theorem test_witness_ChurnIssues_stops :
    let s := stOf gC
    let v (f : Lg) (kind : Nat) (fld : Fld) : Nat := opVal s xC (lgView f) (churnOps kind) fld 0
    let g1 := grpOf fM [(6, 0x41), (8, 0x402), (4, 0x40)] []
    let s1 := stOf g1
    Issues s1 (ctxOf g1 fM) (.chcopy (lg 0 134 136 520 0)) (lgView (lg 0 134 136 520 0)) (churnOps 1) ∧
    opVal s1 (ctxOf g1 fM) (lgView (lg 0 134 136 520 0)) (churnOps 1) .a 0 % 4 ≠ 0 ∧
    opVal s1 (ctxOf g1 fM) (lgView (lg 0 132 136 520 0)) (churnOps 1) .a 0 % 4 = 0 ∧
    opVal s1 (ctxOf g1 fM) (lgView (lg 0 132 136 520 0)) (churnOps 1) .b 0 % 4 ≠ 0 ∧
    v (lg 0 134 513 513 0) 0 .c % 4 ≠ 0 ∧ v (lg 0 134 0 516 8) 3 .c % 8 ≠ 0 ∧
    Issues s xC (.chred (lg 0 134 0 512 17)) (lgView (lg 0 134 0 512 17)) (churnOps 3) ∧ v (lg 0 134 0 512 17) 3 .c = 0 ∧
    (groupBy s xC.g.uid).map (·.1) = some xC.gid ∧ jobProbed s s.nextOp = false := by
  refine ⟨issues_of_passes (by decide), by decide, by decide, by decide, by decide, by decide, issues_of_passes (by decide), by decide, by decide,
    by decide⟩

/-- LX fields: tile, shape, X, Y, Z. -/
def lx (tile shape x y z : Nat) : Lx :=
  { sp := none, tile := BitVec.ofNat 3 tile, shape := BitVec.ofNat 3 shape, fs := false, x := BitVec.ofNat 10 x, y := BitVec.ofNat 10 y
    z := BitVec.ofNat 10 z, lit := none }

/-- A group with tiles 2 and 5. FB in S16 to S23 names format F16 and strides of 64 bytes, in S24 a format that is not listed. -/
def gX : Group :=
  { grpOf fM [(4, 32), (6, 0x40), (8, 0x800), (17, 64), (18, 64), (24, 0xF)] [] with tiles := [2, 5] }
def xX : Ctx := ctxOf gX fM
def sX : State := { stOf gX with teams := [(0, { tmT with size := 131072 })] }

/-- MTRX checks as a Bool. -/
def mxPasses (s : State) (x : Ctx) (i : Instr) (f : Lx) (u : Use) (fl : Option Nat) : Bool :=
  s.issuer == some x && (fieldsOk i && (operandGate s x u == .go && (!u.bad && (decide (u.lits < 2) &&
    (decide (f.tile.toNat < x.g.tiles.length) && (flagFull x.g fl == none && decide (jobCount s x.g.uid < 16)))))))

theorem matrixReady_of {s : State} {x : Ctx} {i : Instr} {f : Lx} {u : Use} {fl : Option Nat} (h : mxPasses s x i f u fl = true) :
    MatrixReady s x i f u fl := by
  simp only [mxPasses, Bool.and_eq_true, Bool.not_eq_true', beq_iff_eq, decide_eq_true_eq] at h
  exact ⟨⟨h.1, h.2.1, h.2.2.1⟩, h.2.2.2⟩

def fbU (r : Nat) : Use := Use.and (fbUse (sel10 (BitVec.ofNat 10 r))) (Use.and (useOf (.spair false) (sel10 134)) (useOf (.spair false) (sel10 136)))

theorem test_witness_MatrixMultiplyIssues :
    let fb := (List.range 8).map fun k => (xX.g.sreg (16 + k)).toNat
    (MatrixReady sX xX (.mma (lx 1 0 144 134 136)) (lx 1 0 144 134 136) (fbU 144) none ∧ formatOf (nth fb 0 0) 0 = some
        { fmt := 0, ablk := 0, bblk := 0, tree := false, shape := 0 } ∧
      (tileOf sX (coreOf xX.gid) (physTile xX.g 1)).imode = 0 ∧
      (∀ v ∈ [sval xX.g true 6, sval xX.g true 8, nth fb 1 0, nth fb 2 0], v % 4 = 0) ∧
      (∀ sp ∈ mmaSpans { fmt := 0, ablk := 0, bblk := 0, tree := false, shape := 0 } fb (sval xX.g true 6) (sval xX.g true 8),
        padLinesOk (padSize sX xX.g.team) sp.1 32 sp.2.2 sp.2.1 = true) ∧ queueRoom sX (coreOf xX.gid) = true) ∧
    (MatrixReady sX xX (.mma (lx 1 0 152 134 136)) (lx 1 0 152 134 136) (fbU 152) none ∧ formatOf (xX.g.sreg 24).toNat 0 = none) ∧
    (MatrixReady sX xX (.mdrain (lx 1 5 132 134 0)) (lx 1 5 132 134 0) (Use.and (useOf .sreg (sel10 132)) (useOf (.spair false) (sel10 134))) none ∧
      sval xX.g true 6 % 4 = 0 ∧ (xX.g.sreg 4).toNat % 4 = 0 ∧
      padLinesOk (padSize sX xX.g.team) (sval xX.g true 6) 32 (32 * drainWidth 5) (sgn 32 32) = true) :=
  ⟨⟨matrixReady_of (by decide), by decide, by decide, by decide, by decide, by decide⟩, ⟨matrixReady_of (by decide), by decide⟩,
    matrixReady_of (by decide), by decide, by decide, by decide⟩

/-- Every tile of core 0 owned: none is spare. -/
def sFull : State := sX.modCore 0 fun c => { c with tiles := (List.range 32).map fun k => (k, { Tile.empty with owner := some 1 }) }

theorem test_witness_TileInstructionsIssue :
    let ldU := Use.and (useOf .sreg (sel10 132)) (useOf (.spair false) (sel10 134))
    (MatrixReady sX xX (.mzero (lx 1 0 0 0 0)) (lx 1 0 0 0 0) Use.none none ∧ spareTile sX (coreOf xX.gid) = some 0) ∧
    (MatrixReady sFull xX (.mzero (lx 0 0 0 0 0)) (lx 0 0 0 0 0) Use.none none ∧ spareTile sFull (coreOf xX.gid) = none ∧
      tileReturning sFull (coreOf xX.gid) = false) ∧
    (MatrixReady sX xX (.mldacc (lx 1 0 132 134 0)) (lx 1 0 132 134 0) ldU none ∧ sval xX.g true 6 % 4 = 0 ∧ (xX.g.sreg 4).toNat % 4 = 0 ∧
      padLinesOk (padSize sX xX.g.team) (sval xX.g true 6) 32 896 (sgn 32 (xX.g.sreg 4).toNat) = true) ∧
    (MatrixReady sX xX (.mdrainq (lx 1 4 0 803 0)) (lx 1 4 0 803 0) Use.none none ∧ 8 ≤ queueFree xX.g 3) ∧
    MatrixReady sX xX (.mstat (lx 1 0 138 0 0)) (lx 1 0 138 0 0) (useOf (.dstS true false) (.s 10)) none ∧
    MatrixReady sX xX (.mrprog (lx 1 0 138 0 0)) (lx 1 0 138 0 0) (useOf (.dstS false false) (.s 10)) none :=
  ⟨⟨matrixReady_of (by decide), by decide⟩, ⟨matrixReady_of (by decide), by decide, by decide⟩,
    ⟨matrixReady_of (by decide), by decide, by decide, by decide⟩, ⟨matrixReady_of (by decide), by decide⟩, matrixReady_of (by decide),
    matrixReady_of (by decide)⟩

/-! ### Notes, Attendance, launches: hypotheses can be met -/

/-- A pass to register V3 of core 5, ranges of 4 registers, both rights; its low word is in S8, its high word in S9. -/
def passLow : Nat := 2 ^ 19 + 2 ^ 20 + 3 * 2 ^ 21 + 3 * 2 ^ 28
def gP : Group :=
  grpOf fM [(4, 3), (5, 32), (6, 0x40), (7, 1), (8, BitVec.ofNat 32 passLow), (9, BitVec.ofNat 32 (5 * 2 ^ 24)), (10, 0x40), (11, 0x02000000)]
    [(1, [2])]
def xP : Ctx := ctxOf gP fM

/-- Partition 0 owns cores 0 to `hi` and 16 GiB of device memory. -/
def feOf (hi : Nat) : Fe := { Fe.empty with en := true, cores := hi * 256, pawin := 2 ^ 56 + 16 * 2 ^ 16 }
def sPass (hi : Nat) : State := { stOf gP with teams := [(0, tmT)], fes := [(0, feOf hi)] }

/-- Ranges: V15, the last V register; S376 to S383, the last S registers; NPOLL of 32 registers. -/
theorem test_witness_NoteInstructions_holder :
    RangeReady (sPass 7) xP (.capmint (lg 134 15 513 0 3)) (lg 134 15 513 0 3) [(.d, .dstS true false)] 128 15 1 ∧
    RangeReady (sPass 7) xP (.capmint (lg 134 504 520 0 2)) (lg 134 504 520 0 2) [(.d, .dstS true false)] 128 504 8 ∧
    Issues (sPass 7) xP (.caprev (lg 0 0 0 0 0)) (lgView (lg 0 0 0 0 0)) [] ∧
    RangeReady (sPass 7) xP (.expect (lg 0 15 513 0 0)) (lg 0 15 513 0 0) [] 128 15 1 ∧
    RangeReady (sPass 7) xP (.npoll (lg 1022 480 133 0 0)) (lg 1022 480 133 0 0) [(.d, .dstS false true)] 32 480 32 := by
  refine ⟨⟨⟨?_, ?_, ?_⟩, ?_, ?_, ?_, ?_, ?_⟩, ⟨⟨?_, ?_, ?_⟩, ?_, ?_, ?_, ?_, ?_⟩, issues_of_passes ?_, ⟨⟨?_, ?_, ?_⟩, ?_, ?_, ?_, ?_, ?_⟩,
    ⟨⟨?_, ?_, ?_⟩, ?_, ?_, ?_, ?_, ?_⟩⟩ <;> decide

/-- The last index that the pass allows, 3 (2 for a pair: V5 is odd, so index 1 is the pair V4:V5), and index 4. -/
theorem test_witness_NoteInstructions_sender :
    let os : Opnds := [(.a, .spair false), (.b, .uni .n32)]
    let ready := fun (s : State) (x : Ctx) (j : Instr) (f : Lg) (u w : Bool) =>
      Ready s x (fieldsOk j) (noteUse u w (!u && x.f.exec == 0) (lgView f))
    ready (sPass 7) xP (.note (lg 0 136 515 1 2)) (lg 0 136 515 1 2) false false ∧
    ready (sPass 7) xP (.noteu (lg 0 136 513 134 1)) (lg 0 136 513 134 1) true true ∧
    ready (stOf gZ) (ctxOf gZ fZ) (.note (lg 0 136 515 1 2)) (lg 0 136 515 1 2) false false ∧ fZ.exec = 0 ∧
    opVal (sPass 7) xP (lgView (lg 0 136 515 1 2)) os .b 0 = 3 ∧
    passRefuses (passOf (opVal (sPass 7) xP (lgView (lg 0 136 515 1 2)) os .a 0)) false false 3 = false ∧
    passRefuses (passOf (opVal (sPass 7) xP (lgView (lg 0 136 515 1 2)) os .a 0)) false false 4 = true ∧
    passRefuses (passOf (opVal (sPass 7) xP (lgView (lg 0 136 515 1 2)) os .a 0)) true true 1 = false ∧
    ((sPass 7).fe xP.g.part).owns (passOf (opVal (sPass 7) xP (lgView (lg 0 136 515 1 2)) os .a 0)).core = true ∧
    ((sPass 4).fe xP.g.part).owns (passOf (opVal (sPass 4) xP (lgView (lg 0 136 515 1 2)) os .a 0)).core = false ∧
    flagFull xP.g (joinFlag xP.f false) = none ∧ replayable (sPass 7) xP.g.uid < 16 := by
  refine ⟨⟨?_, ?_, ?_⟩, ⟨?_, ?_, ?_⟩, ⟨?_, ?_, ?_⟩, ?_⟩ <;> decide

/-- S10:S11 names a scratchpad object at 0x40; the scratchpad holds `pad` there. -/
def sAtt (pad : Memory) (att : Tab AttEnt) : State :=
  { sPass 7 with teams := [(0, { tmT with pad := pad })], chips := [(0, { Chip.empty with att := att })] }

/-- The group's declaration that it holds the object. -/
def heldEnt : AttEnt := { attBlank 0 0 gP 3 0 0x0200000000000040 with st := 3 }

/-- Whether an object instruction of these operands reaches its object. -/
def objPasses (s : State) (x : Ctx) (i : Instr) (f : Lg) (os : Opnds) (n : Nat) (kind : AccKind) (device release : Bool) : Bool :=
  passes s x i (lgView f) os &&
  (match resolveObj s x (opVal s x (lgView f) os .a 0) n (some (attScope f)) kind device with
   | .ok t team pa ord => team == some 0 && pa == 0x40 && ord == 0 && decide (t = s) &&
       (objWaits t x release kind.writes (objScope n f) team pa ord).isNone
   | .stop _ => false)

theorem objReady_of {s : State} {x : Ctx} {i : Instr} {f : Lg} {os : Opnds} {n : Nat} {kind : AccKind} {device release : Bool}
    (h : objPasses s x i f os n kind device release = true) :
    ObjReady s x i f os n kind device release s (some 0, 0x40, 0) := by
  simp only [objPasses, Bool.and_eq_true] at h
  obtain ⟨h1, h2⟩ := h
  refine ⟨issues_of_passes h1, ?_⟩
  split at h2
  · rename_i t team pa ord heq
    simp only [Bool.and_eq_true, beq_iff_eq, decide_eq_true_eq, Option.isNone_iff_eq_none] at h2
    obtain ⟨⟨⟨⟨ht, hp⟩, ho⟩, hs⟩, hw⟩ := h2
    subst ht hp ho hs
    exact ⟨heq, hw⟩
  · cases h2

/-- Objects are named as flags (kind 3); S4 holds 3, the compare value. The unit's table is empty, holds the declaration, or is full. -/
theorem test_witness_AttendanceEntries :
    let named := fun (s : State) (j : Instr) (f : Lg) (os : Opnds) => Issues s xP j (lgView f) os ∧
      namedObj (readSources s xP (lgView f) os) xP (opVal s xP (lgView f) objOps .a 0) (attKind f) = none
    named (sAtt [] []) (.wreg (lg 0 138 1022 0 3)) (lg 0 138 1022 0 3) objOps ∧
    named (sAtt [] []) (.whold (lg 0 138 0 0 3)) (lg 0 138 0 0 3) objOps ∧
    named (sAtt [] []) (.whold (lg 0 138 0 0 11)) (lg 0 138 0 0 11) objOps ∧
    declared (sAtt [] []) xP 0x0200000000000040 = false ∧ declared (sAtt [] [(0, heldEnt)]) xP 0x0200000000000040 = true ∧
    Issues (sAtt [] []) xP (.wdrop (lg 0 138 0 0 0)) (lgView (lg 0 138 0 0 0)) objOps ∧
    ObjReady (sAtt [] []) xP (.wait (lg 0 138 132 0 3)) (lg 0 138 132 0 3) objValOps 4 .load false false (sAtt [] []) (some 0, 0x40, 0) ∧
    waitWord (sAtt [] []) 0 0 (some 0) 0x40 0 ≠ opVal (sAtt [] []) xP (lgView (lg 0 138 132 0 3)) objValOps .b 0 ∧
    waitWord (sAtt [(0x40, 3)] []) 0 0 (some 0) 0x40 0 = opVal (sAtt [(0x40, 3)] []) xP (lgView (lg 0 138 132 0 3)) objValOps .b 0 ∧
    Issues (sAtt [] []) xP (.wstat (lg 134 0 0 0 0)) (lgView (lg 134 0 0 0 0)) [(.d, .dstS true false)] := by
  refine ⟨⟨issues_of_passes ?_, ?_⟩, ⟨issues_of_passes ?_, ?_⟩, ⟨issues_of_passes ?_, ?_⟩, ?_, ?_, issues_of_passes ?_, objReady_of ?_, ?_,
    ?_, issues_of_passes ?_⟩ <;> decide

/-- A table of 4,096 entries of another group. -/
def fullAtt : Tab AttEnt := (List.range 4096).map fun k => (k, { heldEnt with uid := 99 })

theorem entriesAt_sAtt (p : Memory) (t : Tab AttEnt) : entriesAt (sAtt p t) xP = t := rfl

theorem declared_sAtt (p : Memory) (t : Tab AttEnt) (obj : Nat) :
    declared (sAtt p t) xP obj = t.any fun e => e.2.uid == 7 && e.2.st == 3 && e.2.obj == obj := rfl

theorem test_witness_AttendanceEntries_full :
    (entriesAt (sAtt [] fullAtt) xP).length = 4096 ∧ declared (sAtt [] fullAtt) xP 0x0200000000000040 = false := by
  rw [entriesAt_sAtt, declared_sAtt]
  refine ⟨by simp [fullAtt], ?_⟩
  simp [fullAtt]

/-- The object's owner word: free, this group (GID 1), another group; a waiter for it. -/
def waiterEnt : AttEnt := { attBlank 5 0 gP 1 0 0x0200000000000040 with uid := 9, place := some (some 0, 0x40), stamp := 1 }

theorem test_witness_LocksPassOn :
    let f := lg 0 138 0 0 0
    (∀ s ∈ [sAtt [] [], sAtt [] [(0, heldEnt)], sAtt [(0x40, 1)] [], sAtt [(0x40, 2)] []],
      ObjReady s xP (.lock f) f objOps 16 .atomic true false s (some 0, 0x40, 0)) ∧
    (∀ s ∈ [sAtt [(0x40, 1)] [], sAtt [(0x40, 1)] [(0, waiterEnt)], sAtt [(0x40, 2)] []],
      ObjReady s xP (.unlock f) f objOps 16 .atomic true true s (some 0, 0x40, 0)) ∧
    ownerOf (objRead (sAtt [(0x40, 1)] []) (some 0) 0x40 16) = 1 ∧ ownerOf (objRead (sAtt [] []) (some 0) 0x40 16) = 0 ∧
    nextLocker (sAtt [(0x40, 1)] []) (some 0) 0x40 = none ∧
    nextLocker (sAtt [(0x40, 1)] [(0, waiterEnt)]) (some 0) 0x40 = some (0, waiterEnt) := by
  refine ⟨fun s hs => objReady_of ?_, fun s hs => objReady_of ?_, ?_, ?_, ?_, ?_⟩
  · simp only [List.mem_cons, List.not_mem_nil, or_false] at hs
    rcases hs with rfl | rfl | rfl | rfl <;> decide
  · simp only [List.mem_cons, List.not_mem_nil, or_false] at hs
    rcases hs with rfl | rfl | rfl <;> decide
  all_goals decide

/-- A clause of one BAR [S10:S11], issued by the only fragment, and the same group with a second fragment. -/
def fBar : Frag := { fM with hdr := plainHeader 4 2, words := encode (.bar (lg 0 138 0 0 0)) }
def gBar : Group := { gP with split := [(0, .frag fBar)] }
def xBar : Ctx := ctxOf gBar fBar
def sBar (g : Group) (pad : Memory) : State :=
  { stOf g with teams := [(0, { tmT with pad := pad })], fes := [(0, feOf 7)] }
def gTwo : Group := { gBar with split := [(0, .frag fBar), (1, .frag fM)] }
def xTwo : Ctx := ctxOf gTwo fBar

/-- A barrier of one group (COUNT 1) ends its phase at the first arrival; one of two does not. -/
theorem test_witness_BarriersCount :
    let b := lg 0 138 0 0 0
    let w := lg 0 138 512 0 0
    let w1 := lg 0 138 513 0 0
    ObjReady (sBar gBar []) xBar (.bara (lg 133 138 0 0 0)) (lg 133 138 0 0 0) [(.d, .dstS false true), (.a, .spair false)] 16 .atomic true
      true (sBar gBar []) (some 0, 0x40, 0) ∧
    ObjReady (sBar gBar []) xBar (.barw w) w objValOps 16 .load true false (sBar gBar []) (some 0, 0x40, 0) ∧
    ObjReady (sBar gBar []) xBar (.barw w1) w1 objValOps 16 .load true false (sBar gBar []) (some 0, 0x40, 0) ∧
    opVal (sBar gBar []) xBar (lgView w) objValOps .b 0 % 2 = phaseOf (objRead (sBar gBar []) (some 0) 0x40 16) ∧
    opVal (sBar gBar []) xBar (lgView w1) objValOps .b 0 % 2 ≠ phaseOf (objRead (sBar gBar []) (some 0) 0x40 16) ∧
    ObjReady (sBar gTwo []) xTwo (.bar b) b objOps 16 .atomic true true (sBar gTwo []) (some 0, 0x40, 0) ∧
    (1 ≠ xTwo.fi ∧ xTwo.g.frag? 1 = some fM ∧ fM.cond = .ready) ∧
    ObjReady (sBar gBar []) xBar (.bar b) b objOps 16 .atomic true true (sBar gBar []) (some 0, 0x40, 0) ∧
    (xBar.g.frags = [(xBar.fi, xBar.f)] ∧ xBar.g.killed = false ∧ instrAt xBar.f = .ok (.bar b) ∧
      lenHere xBar.f = ((lgView b).len, b.sp.isSome)) ∧
    phaseOf (arriveBytes (objRead (sBar gBar [(0x40, 1)]) (some 0) 0x40 16)) ≠ phaseOf (objRead (sBar gBar [(0x40, 1)]) (some 0) 0x40 16) ∧
    phaseOf (arriveBytes (objRead (sBar gBar [(0x40, 2)]) (some 0) 0x40 16)) = phaseOf (objRead (sBar gBar [(0x40, 2)]) (some 0) 0x40 16) := by
  refine ⟨objReady_of ?_, objReady_of ?_, objReady_of ?_, ?_, ?_, objReady_of ?_, ?_, objReady_of ?_, ?_, ?_, ?_⟩ <;> decide

/-- A launch block at 0x1000: code 0x2000, VREGS 16, TEAM 1, GRID 1. -/
def blockMem : Memory := [(0x1001, 0x20), (0x1018, 16), (0x1019, 1), (0x101C, 1)]

/-- The page of address 0, readable, mapped on itself in the core's TLB. -/
def leaf0 : Leaf := { part := 0, vbase := 0, bits := 16, raw := 0x603, lvl := 1, pte := 0x8000, merged := [] }
def allow0 : Allow := { base := 0x2000, lim := 0x1000 + 15 * 2 ^ 32 + 3 * 2 ^ 36 + 2 ^ 38 + 100 * 2 ^ 40, grant := 0 }

/-- The child with JSEQ 9 of the group's launch 0: ended with code 1 after a trap, or running. -/
def child (state fin : Nat) : JEntry :=
  { jseq := 9, state := state, replay := false, origin := true, code := 5, fin := fin, ver := 1, subseq := 0, parent := 0, block := 0
    tstart := 0, tend := 0, runs := 1, blk := [], grant := 0 }
def gL : Group := grpOf fM [(6, 0x1000), (8, 9), (10, 0x1004), (12, 0x2000)] []
def xL : Ctx := ctxOf gL fM
def sL (f : Fe) : State :=
  { stOf gL with mem := blockMem, fes := [(0, f)], cores := [(0, { Core.empty with tlb := [leaf0] })] }
def feL : Fe := { feOf 7 with allow := [(0, allow0)] }

theorem test_witness_LaunchAndJoin :
    (queueFree xL.g 6 ≠ 0 ∧ flagFull xL.g (joinFlag xL.f false) = none ∧ launchWork (sL feL) xL.g.uid xL.f.id = none) ∧
    Issues (sL feL) xL (.launch (lg 0 134 0 0 0)) (lgView (lg 0 134 0 0 0)) handleOps ∧
    Issues (sL feL) xL (.launch (lg 0 134 0 0 1)) (lgView (lg 0 134 0 0 1)) handleOps ∧
    (Issues (sL feL) xL (.launch (lg 0 138 0 0 0)) (lgView (lg 0 138 0 0 0)) handleOps ∧
      opVal (sL feL) xL (lgView (lg 0 138 0 0 0)) handleOps .a 0 % 64 ≠ 0) ∧
    opVal (sL feL) xL (lgView (lg 0 134 0 0 0)) handleOps .a 0 = 0x1000 ∧
    (blockOf (Memory.readN blockMem 0x1000 64)).valid feL = true ∧ (blockOf (Memory.readN blockMem 0x1000 64)).valid (feOf 7) = false ∧
    takesLaunch feL = true ∧ takesLaunch { feL with rst := true } = false ∧
    Issues (sL feL) xL (.join (lg 0 136 0 0 0)) (lgView (lg 0 136 0 0 0)) handleOps ∧
    childEntry (sL feL) 0 0 9 = none ∧ childEntry (sL { feL with jnl := [(9, child 2 0)] }) 0 0 9 = some (child 2 0) ∧
    childEnded (sL { feL with jnl := [(9, child 2 0)] }) 0 9 = none ∧
    childEnded (sL { feL with jnl := [(9, child 3 2)] }) 0 9 = some (child 3 2) := by
  refine ⟨?_, issues_of_passes ?_, issues_of_passes ?_, ⟨issues_of_passes ?_, ?_⟩, ?_, ?_, ?_, ?_, ?_, issues_of_passes ?_, ?_, ?_, ?_, ?_⟩
    <;> decide +kernel

theorem test_witness_LaunchAndJoin_block : (readBlock (sL feL) 0 0 gL 0x1000).2 = some (Memory.readN blockMem 0x1000 64) := by
  decide +kernel

/-- The group's launch, with a child launch 9 below it; S8 to S15 give COLL's fields: communicator 3 in word 6. -/
def launch0 : Launch :=
  { part := 0, jseq := 0, parent := 0, ancestors := [], code := 0x2000, params := 0, trap := 0, vregs := 16, team := 1, tiles := 0, prio := 0
    cls := 0, replay := false, cohort := 0, grid := 1, scratch := 0, dbgen := false, fsvc := false, next := 1, live := 1, started := true
    fin := 0, fcode := 0, moved := 0, savedFor := 0 }
def gY : Group := grpOf fM [(4, 3), (6, 0x2000), (16, 9), (14, 3)] []
def xY : Ctx := ctxOf gY fM
def sY : State :=
  { stOf gY with launches := [(0, launch0), (9 * 32, { launch0 with jseq := 9, ancestors := [0] })], fes := [(0, feOf 7)]
                 ed := { State.reset.ed with comms := [(3, { Comm.empty with cfg := 1 })] } }

theorem test_witness_WorkInstructions_spawn :
    let f := lg 133 134 136 0 0
    Ready sY xY (fieldsOk (.spawn f)) (Use.and (usesOf (lgView f) [(.d, .dstS false true), (.a, .spair false)]) (eightUse (sel10 f.b))) ∧
    (spawnGroup sY xY 0x2000 (eightWords xY (sel10 f.b))).map Prod.snd = some 1 ∧
    (spawnGroup { sY with launches := [(0, { launch0 with tiles := 33 })] } xY 0x2000 (eightWords xY (sel10 f.b))).isNone = true := by
  refine ⟨⟨?_, ?_, ?_⟩, ?_, ?_⟩ <;> decide

theorem test_witness_WorkInstructions :
    (Issues sY xY (.kill (lg 0 144 0 0 0)) (lgView (lg 0 144 0 0 0)) handleOps ∧ descends sY 0 9 0 = true ∧ descends sY 0 0x2000 0 = false ∧
      Issues sY xY (.kill (lg 0 134 0 0 0)) (lgView (lg 0 134 0 0 0)) handleOps) ∧
    Issues sY xY (.quota (lg 133 0 0 0 0)) (lgView (lg 133 0 0 0 0)) [(.d, .dstS false false)] ∧
    Issues sY xY (.ctopv (lg 1022 132 0 0 0)) (lgView (lg 1022 132 0 0 0)) [(.d, .dstS false true), (.a, .uni .n32)] ∧
    (Ready sY xY (fieldsOk (.coll (lg 0 136 0 0 2))) (eightUse (sel10 (lg 0 136 0 0 2).a)) ∧
      collOk 2 (eightWords xY (sel10 136)) = true ∧ collOk 2 [0, 0, 0, 0, 0, 4, 0, 0] = false ∧
      bitsAt (nth (eightWords xY (sel10 136)) 6 0).toNat 0 16 = 3 ∧ commUsable sY 0 3 = true ∧ commUsable sY 0 1023 = false ∧
      flagFull xY.g (joinFlag xY.f false) = none ∧ queueFree xY.g 5 ≠ 0) := by
  refine ⟨⟨issues_of_passes ?_, ?_, ?_, issues_of_passes ?_⟩, issues_of_passes ?_, issues_of_passes ?_, ⟨?_, ?_, ?_⟩, ?_⟩ <;> decide

/-- System register numbers 0, 8 and 9; the BPRIO write. -/
theorem test_witness_SystemRegisters :
    (∀ n ∈ [512, 520, 521], Issues s0 x0 (.sgetsr (lg 133 n 0 0 0)) (lgView (lg 133 n 0 0 0)) [(.d, .dstS false false), (.a, .uni .n32)] ∧
      opVal s0 x0 (lgView (lg 133 n 0 0 0)) [(.d, .dstS false false), (.a, .uni .n32)] .a 0 = n - 512) ∧
    (∀ n ∈ [514, 515], Issues s0 x0 (.ssetsr (lg 0 n 132 0 0)) (lgView (lg 0 n 132 0 0)) [(.a, .uni .n32), (.b, .uni .n32)] ∧
      opVal s0 x0 (lgView (lg 0 n 132 0 0)) [(.a, .uni .n32), (.b, .uni .n32)] .a 0 = n - 512) := by
  refine ⟨fun n hn => ?_, fun n hn => ?_⟩ <;> simp only [List.mem_cons, List.not_mem_nil, or_false] at hn
  · rcases hn with rfl | rfl | rfl <;> exact ⟨issues_of_passes (by decide), by decide⟩
  · rcases hn with rfl | rfl <;> exact ⟨issues_of_passes (by decide), by decide⟩

/-- Fault entry 5 of partition 0, of an event with entries 4 and 5; the group may resume it. -/
def gFs : Group := { grpOf fM [(6, 5), (8, 9)] [] with fsvc := true }
def xFs : Ctx := ctxOf gFs fM
def sFs : State :=
  { stOf gFs with fes := [(0, { feOf 7 with faultSeq := 5 })]
                  events := [(2, { part := 0, agent := .launchBlock 3 0, seqs := [(4, false), (5, false)] })] }
def gDb (trap : Nat) : Group := { grpOf f0 [(4, 3)] [] with dbgen := true, trapVa := trap }

theorem test_witness_SystemControl :
    let osB : Opnds := [(.b, .uni .n32)]
    let osF : Opnds := [(.d, .dstS false true), (.a, .spair false)]
    (∀ b ∈ [512, 132], Issues s0 x0 (.sleep (lg 0 0 b 0 0)) (lgView (lg 0 0 b 0 0)) osB) ∧
    Issues s0 x0 (.pmark (lg 0 0 132 0 0)) (lgView (lg 0 0 132 0 0)) osB ∧
    Issues s0 x0 (.dbrk (lg 0 0 132 0 0)) (lgView (lg 0 0 132 0 0)) osB ∧ x0.g.dbgen = false ∧
    (∀ t ∈ [0, 0x2000], Issues (stOf (gDb t)) (ctxOf (gDb t) f0) (.dbrk (lg 0 0 132 0 0)) (lgView (lg 0 0 132 0 0)) osB) ∧
    (Issues s0 x0 (.fresume (lg 133 134 0 0 0)) (lgView (lg 133 134 0 0 0)) osF ∧ x0.g.hmode ≠ some x0.fi ∧ x0.g.fsvc = false) ∧
    (Issues sFs xFs (.fresume (lg 1022 134 0 0 0)) (lgView (lg 1022 134 0 0 0)) osF ∧ resumeResult sFs 0 5 = 0 ∧
      sFs.events.find? (fun e => e.2.part == 0 && (Tab.get? e.2.seqs 5).isSome) =
        some (2, { part := 0, agent := .launchBlock 3 0, seqs := [(4, false), (5, false)] }) ∧
      Tab.get? [(4, false), (5, false)] 4 = some false) ∧
    (Issues sFs xFs (.fresume (lg 133 136 0 0 0)) (lgView (lg 133 136 0 0 0)) osF ∧ resumeResult sFs 0 9 ≠ 0) := by
  refine ⟨fun b hb => ?_, issues_of_passes ?_, issues_of_passes ?_, ?_, fun t ht => ?_, ⟨issues_of_passes ?_, ?_⟩,
    ⟨issues_of_passes ?_, ?_⟩, ⟨issues_of_passes ?_, ?_⟩⟩
  · simp only [List.mem_cons, List.not_mem_nil, or_false] at hb
    rcases hb with rfl | rfl <;> exact issues_of_passes (by decide)
  all_goals try (decide)
  simp only [List.mem_cons, List.not_mem_nil, or_false] at ht
  rcases ht with rfl | rfl <;> exact issues_of_passes (by decide)

/-! ### The Proctor and the events: hypotheses can be met -/

/-- A Proctor program of partition 0 on port 3, at word 0, with a copy area, a ring of 4 KiB and a scratch of 16 words. -/
def attOf (leaving : Bool) : PrAtt :=
  { part := 0, slot := 1, src := 0, armed := true, count := 1, samp := 0, seeds := [3, 5, 7, 9], code := [], size := 16
    scratch := [(0, 0xFFFFFFFF)], snapBusy := false, skip := 0, leaving := leaving }
def runOf : PrRun := { att := 1, pc := 0, w := [(1, 4), (2, 4)], ev := { src := 0, part := some 0, e := [1, 2] }, round := 0 }
def sPr (f : Fe) (leaving : Bool) : State :=
  { State.reset with
    curPr := some 3, fes := [(0, f)]
    proctors := [(3, { Proctor.empty with atts := [(1, attOf leaving)], cur := some (runOf.ev, []), run := some runOf })] }
def xPr : PrCtx := { port := 3, run := runOf, att := attOf false }
def fePr : Fe := { Fe.empty with prout := 0x10000, prsnap := 0x20000 }
def pr (d a b imm : Nat) : Pr := { d := BitVec.ofNat 4 d, a := BitVec.ofNat 4 a, b := BitVec.ofNat 4 b, imm := BitVec.ofNat 14 imm }

theorem test_witness_ProctorComputation : (sPr fePr false).prIssuer = some xPr ∧ (pr 12 1 2 5).d.toNat ≤ 12 := by decide

/-- EMIT and SNAP with a place and without one, with the ring full; BFW whose condition holds and one whose does not; a leaving program. -/
theorem test_witness_ProctorActions :
    (sPr fePr false).prIssuer = some xPr ∧ (sPr Fe.empty false).prIssuer = some xPr ∧
    bitsAt fePr.prout 12 40 * 2 ^ 12 = 0x10000 ∧ bitsAt fePr.prsnap 16 36 * 2 ^ 16 = 0x20000 ∧ bitsAt Fe.empty.prout 12 40 = 0 ∧
    bitsAt Fe.empty.prsnap 16 36 = 0 ∧ (sPr fePr false).proctor 3 = { Proctor.empty with
      atts := [(1, attOf false)], cur := some (runOf.ev, []), run := some runOf } ∧
    (fePr.prouttail + 2 ^ 32 - fePr.prouthead) % 2 ^ 32 ≠ 2 ^ (12 + fePr.prout % 16) / 32 ∧
    (let e : Fe := { fePr with prouttail := 128 }
     (e.prouttail + 2 ^ 32 - e.prouthead) % 2 ^ 32 = 2 ^ (12 + e.prout % 16) / 32) ∧
    xPr.w 1 = xPr.w 2 ∧ xPr.w 1 ≠ xPr.w 0 ∧ (sPr fePr true).prIssuer = some { xPr with att := attOf true } := by
  refine ⟨?_, ?_, ?_, ?_, ?_, ?_, ?_, ?_, ?_, ?_, ?_, ?_⟩ <;> decide

/-- A fragment at a clause entry at 0x1000, the page mapped and executable, with a header of one word there. -/
def fE : Frag := { fM with hdr := 0, idx := 0, words := [] }
def gE (w : Nat) : Group := { grpOf fE [] [] with fcnt := [w] }
def leafX : Leaf := { leaf0 with raw := 0x60B }
def sE (hdr : List Byte) (w : Nat) : State :=
  { stOf (gE w) with mem := (Memory.writeN [] 0x1000 (hdr ++ toBytes 4 0x3F000000)), fes := [(0, feOf 7)]
                     cores := [(0, { Core.empty with tlb := [leafX], bad := [(badKey 0 63, false), (badKey 1 0, true)] })] }

theorem test_witness_FragmentEvents_entry :
    let good := toBytes 4 0xA7F80081
    Tab.get? (sE good 0).groups 0 = some (gE 0) ∧ (gE 0).frag? 0 = some fE ∧ (gE 0).live = true ∧ fE.idx = 0 ∧ fE.hdr = 0 ∧ fE.resume = none ∧
    (fetchWords (sE good 0) 0 0 (gE 0) 0x1000 1).2 = some [0xA7F80081] ∧ headerOk 0xA7F80081 = true ∧
    (fetchWords (sE [] 0) 0 0 (gE 0) 0x1000 1).2 = some [0x3F000000] ∧ headerOk 0x3F000000 = false ∧
    (fetchWords (fetchWords (sE good 0) 0 0 (gE 0) 0x1000 1).1 0 0 (gE 0) 0x1004 1).2 = some [0x3F000000] ∧
    flagsSet (gE 0) (waitmOf 0xA7F80081) = [] ∧ flagFailure (gE 0) (waitmOf 0xA7F80081) = none ∧
    flagsSet (gE 1) (waitmOf 0xA7F80081) ≠ [] ∧ bitsAt 0xA7F80081 0 4 = 1 := by
  refine ⟨?_, ?_, ?_, ?_, ?_, ?_, ?_, ?_, ?_, ?_, ?_, ?_, ?_, ?_, ?_⟩ <;> decide +kernel

/-- Parked for a flag that has cleared; asleep; ready in the spill area with a free entry; waiting for a word that differs. -/
def fPark : Frag := { fE with cond := .parked (.flags 1) false 0 }
def fNap : Frag := { fE with cond := .sleeping 5 }
def fWait : Frag := { fM with cond := .parked .att false 0 }
def gOne (f : Frag) (k : Nat) : Group := { grpOf f [] [] with split := [(k, .frag f)] }
def waitEnt : AttEnt := { attBlank 0 0 gP 3 0 0x0200000000000040 with place := some (some 0, 0x40), cmp := 3 }

theorem test_witness_FragmentEvents :
    let sW : State := { stOf (gOne fWait 0) with teams := [(0, tmT)], chips := [(0, { Chip.empty with att := [(0, waitEnt)] })] }
    awaitMet (stOf (gOne fPark 0)) 0 (gOne fPark 0) (.flags 1) = true ∧ (gOne fPark 0).live = true ∧
    (5 ≤ { stOf (gOne fNap 0) with clock := 5 }.clock ∧ { stOf (gOne fNap 0) with clock := 4 }.clock < 5) ∧
    ((gOne fE 128).frag? 128 = some fE ∧ fE.cond = .ready ∧ Tab.get? (gOne fE 128).split fE.home = none ∧ fE.home < 8 ∧
      freeEntries (gOne fE 128) ≠ 0) ∧
    (Tab.get? (sW.chip 0).att 0 = some waitEnt ∧ entryMet sW waitEnt = true ∧ groupBy sW 7 = some (0, gOne fWait 0) ∧
      (gOne fWait 0).namedFrag 0 = some (0, fWait)) ∧
    (readGate sW 0x100 4 = none ∧ entryMet (soObject sW 7 none 0x100 0) { waitEnt with place := some (none, 0x100) } = true) ∧
    (Tab.get? ((sE [] 0).core 0).bad (badKey 0 63) = some false ∧ Tab.get? ((sE [] 0).core 0).bad (badKey 1 0) = some true) ∧
    (s0.issuer = some x0 ∧ ∃ e, decode none [0x7F000000] = .error e) := by
  refine ⟨?_, ?_, ?_, ?_, ?_, ?_, ?_, ?_, ⟨_, rfl⟩⟩ <;> decide

/-- Groups 0 and 1 wait for locks that the other holds; their entries, and a report of the set confirmed. -/
def gDl (k : Nat) : Group := { gOne fWait 0 with uid := 7 + k, launch := 0 }
def lockEnt (k other : Nat) : AttEnt :=
  { attBlank k 0 (gDl k) 1 0 (0x0200000000000040 + 16 * k) with hk := true, holder := other + 1, stamp := 5 + k }
def sDl (scan : Option Scan) (att : Tab AttEnt) : State :=
  { stOf (gDl 0) with groups := [(0, gDl 0), (1, gDl 1)], fes := [(0, feOf 7)], chips := [(0, { Chip.empty with att := att, scan := scan })] }
def cycleAtt : Tab AttEnt := [(0, lockEnt 0 1), (1, lockEnt 1 0)]
def scanOf (confirmed : Bool) : Scan := { stamps := [5, 6], victim := 5, edges := 2, confirmed := confirmed, seq := 0, va := 0, job := 9 }

theorem test_witness_DeadlocksReported :
    foundSet (sDl none []) 0 = none ∧
    (foundSet (sDl none cycleAtt) 0).map (fun d => (d.2, stampsOf (sDl none cycleAtt) d.1)) = some (lockEnt 0 1, [5, 6]) ∧
    (foundSet (sDl (some (scanOf false)) cycleAtt) 0).map (fun d => stampsOf (sDl none cycleAtt) d.1) = some (scanOf false).stamps ∧
    reportPending (sDl (some (scanOf false)) cycleAtt) 0 = false ∧
    (writeReport { sDl (some (scanOf false)) cycleAtt with nextOp := 11 } 0 0 0 10 0 []).2.isSome = true ∧
    cycleAtt.find? (fun e => e.2.stamp == (scanOf true).victim && e.2.st == 1) = some (0, lockEnt 0 1) ∧
    groupBy (sDl (some (scanOf true)) cycleAtt) 7 = some (0, gDl 0) ∧ (gDl 0).namedFrag 0 = some (0, fWait) ∧ (gDl 0).trapVa ≠ 0 ∧
    (gDl 0).hmode = none ∧ (lockEnt 0 1).kind ≠ 6 ∧ jobProbed (sDl (some (scanOf true)) cycleAtt) 9 = false := by
  refine ⟨?_, ?_, ?_, ?_, ?_, ?_, ?_, ?_, ?_, ?_, ?_, ?_⟩ <;> decide +kernel

/-- Line 2 (address 0x100, home chiplet 1), its state at the home and the messages that chiplet 0 has sent it. -/
def sH (h : HomeLine) (msgs : List Msg) (ops : Tab Op) : State :=
  { sM with
    hlines := [(2, h)], ops := ops, fes := [(0, feOf 7)]
    pairs := [(pairKey (portCC 0) (portMC 1), { Pair.empty with inbox := msgs.map fun m => (0, m) })] }
def accM : Acc := { lane := 0, va := 0x104, n := 4, off := 0, pa := 0x104, ord := 0, team := none, data := [], sent := true, done := false }
def atomM : Op := { blankOp sM xM .atomic none with stage := .active, acc := [accM], data := [(0, 5)] }
def linePost : Tab Byte := [(4, 1), (5, 2)]

theorem test_witness_HomesServe :
    let e := HomeLine.empty
    let m0 : Msg := .loadReq 2 1 none false 0 1
    homeMc (2 * 128) = 1 ∧ budgetOk (sH e [m0] []) (globalSlice 256) 0 1 = true ∧ budgetOk (sH e [] []) (memPort 1) 0 1 = true ∧
    (∀ m ∈ [m0, .posting 8 2 linePost none false 0 1, .atomReq 3 2 [0] none 0 1],
      outranked (sH e [m] [(3, atomM)]) 1 0 m = false ∧ dramOutranked (sH e [m] [(3, atomM)]) 1 2 m = false) ∧ e.poison = none ∧ probesOut (sH e [] []) 2 = 0 ∧ homeGate (sH e [m0] []) 2 1 0 = .go ∧
    ((sH e [m0] []).pair (portCC 0) (portMC 1)).inbox = [(0, m0)] ∧ ((sH e [m0] []).hline 2).held = [] ∧
    ((sH { e with cached := some 0 } [m0] []).hline 2).cached.isSome = true ∧ ((sH e [m0] []).hline 2).cached = none ∧
    ((sH { e with dram := true, held := [(0, m0)] } [] []).hline 2).held = [(0, m0)] ∧
    (seqRoom (sH e [] []) 2 1 = true ∧ homeGate (sH e [] []) 2 (maskHalves (maskOfBytes linePost)) 0 = .go ∧ (linePost.map (·.1)).Nodup ∧
      e.holders = 0 ∧ holderList { e with holders := 0x8001 }.holders ≠ []) ∧
    (Tab.get? (sH e [] [(3, atomM)]).ops 3 = some atomM ∧ atomM.acc[0]? = some accM ∧ lineOf accM.pa = 2 ∧
      homeGate (sH e [] [(3, atomM)]) 2 (maskHalves (byteMask (accM.pa % 128) accM.n)) 0 = .go ∧
      atomWaits (sH e [] [(3, atomM)]) 0 (.atomReq 3 2 [0] none 0 1) = false) ∧
    (let w : HomeWait := { line := 2, seq := 4, left := 1, reply := some (0, .postAck 8 4 5 0), job := none }
     [w].find? (fun w => w.line == 2 && w.seq == 4) = some w ∧ [w].filter (fun y => y.line == 2) = [w] ∧ e.held = [] ∧ w.left ≤ 1 ∧ 1 < { w with left := 2 }.left) := by
  refine ⟨?_, ?_, ?_, ?_, ?_, ?_, ?_, ?_, ?_, ?_, ?_, ?_, ?_, ?_, ?_⟩ <;> decide

/-- Chiplet 0 waits for line 2 with load 3; a store in the combine buffer of core 0; a scratchpad store; a walk at level 1. -/
def loadM : Op := { blankOp sM xM .load (some 0) with stage := .active, acc := [accM], dest := some 8, size := 2, pages := [0] }
def cbM : CbEnt :=
  { line := 2, so := none, uo := false, bytes := linePost, ops := [3], gids := [7], part := 0, cls := 1, pts := 0, first := 1, want := false }
def padM : Op := { blankOp sM xM .sstore none with
  stage := .ready, acc := [{ accM with pa := 0x800, team := some 0, data := [1, 2, 3, 4], sent := false }] }
/-- Page 0 is mapped and written; a GATOM at address 0x41, or 0x40 where an object has a waiter. -/
def gAl (a : Nat) : Group := grpOf fM [] [(0, [BitVec.ofNat 32 a]), (1, [0]), (2, [9])]
def sAl (a : Nat) : State :=
  { stOf (gAl a) with
    fes := [(0, feOf 7)], cores := [(0, { Core.empty with tlb := [{ leaf0 with raw := 0x607 }] })]
    chips := [(0, { Chip.empty with att := [(0, { attBlank 5 0 gP 1 0 0x40 with uid := 9, place := some (none, 0x40), stamp := 1 })] })] }

theorem test_witness_MemoryIssueStops_translated :
    let x := fun a => ctxOf (gAl a) fM
    let q := laF 8 0 0 0 2 0 0
    let i := fun a => laIssue 0 false true q (x a)
    let tr := fun (s : State) (x : Ctx) (i : MemIssue) =>
      (translatePages s (opXer (alignOp s x i .atomic 4)) .atomic false (pagesOf (alignOp s x i .atomic 4))).2.2
    ((sAl 0x41).issuer = some (x 0x41) ∧ (i 0x41).ok = true ∧ operandGate (sAl 0x41) (x 0x41) (i 0x41).use = .go ∧
      (i 0x41).addrs.find? (fun b => b.2 % 4 != 0) = some (0, 0x41) ∧ tr (sAl 0x41) (x 0x41) (i 0x41) = []) ∧
    faultsOf (tr (stOf (gAl 0x41)) (x 0x41) (i 0x41)) ≠ [] ∧
    ((sAl 0x40).issuer = some (x 0x40) ∧ operandGate (sAl 0x40) (x 0x40) (i 0x40).use = .go ∧ (∀ a ∈ (i 0x40).addrs, a.2 % 4 = 0) ∧
      objectWaits (sAl 0x40) (x 0x40) (i 0x40) .atomic = none ∧ objectHit (sAl 0x40) (x 0x40) (i 0x40) .atomic = some 0x40) := by
  refine ⟨?_, ?_, ?_⟩ <;> decide +kernel

def walkM : Walk := { va := 0, table := 0x8000, lvl := 1, g64 := false }
def leafEntry (e : Nat) : Memory := Memory.writeN [] 0x8000 (toBytes 8 e)

theorem test_witness_MemoryRepliesComplete :
    let inb (m : Msg) : State := { sM with pairs := [(pairKey (portMC 1) (portCC 0), { Pair.empty with inbox := [(0, m)] })] }
    let gr : Msg := .grant 2 (List.replicate 128 7) 4 0 0 none false true false
    let r : NearReq := { ops := [3], late := [], again := [], probes := [], uo := false }
    (r.closed = false ∧ nearBusy sM 0 2 = false ∧ nearCount (sM.chip 0) < 393216 ∧ scHeld sM loadM 2 = false ∧ 3 ∈ { r with asked := [3] }.asked ∧
      loadM.isFaulted = false ∧ cbM.so = none) ∧
    inboxHead (inb gr) (portMC 1) (portCC 0) = some gr ∧ (List.replicate 128 (7 : Byte)).length = 128 ∧ isDevice (2 * 128) = true ∧ unitOf accM.pa = 2 ∧
    (∀ a ∈ loadM.acc, a.ord ≠ 1) ∧ newer 5 4 = true ∧ newer 4 5 = false ∧
    (cbM.first + 512 ≤ { sM with clock := 513 }.clock ∧ { sM with clock := 512 }.clock < cbM.first + 512 ∧ cbM.want = false) ∧
    (groupBy sP 7 = some (0, gM) ∧ Tab.get? sP.groups 0 = some gM) ∧
    (padClear { sP with ops := [(3, padM)] } 3 padM = true ∧ opHeld { sP with ops := [(3, padM)] } padM = false) ∧
    (∀ e ∈ [0x603, 0x2001, 0],
      opHeld { sP with mem := leafEntry e, fes := [(0, feOf 7)], ops := [(3, { loadM with stage := .translate, walk := some walkM })] }
        { loadM with stage := .translate, walk := some walkM } = false ∧
      (walkOnce { sP with mem := leafEntry e, fes := [(0, feOf 7)], ops := [(3, { loadM with stage := .translate, walk := some walkM })] }
        (opXer loadM) walkM).2 = some (walkEntry (feOf 7) 0 walkM e)) ∧
    (∃ l, walkEntry (feOf 7) 0 walkM 0x603 = .leaf l) ∧ (∃ f, walkEntry (feOf 7) 0 walkM 0 = .fail f) ∧
    (∃ w, walkEntry (feOf 7) 0 { walkM with lvl := 2 } 0x2001 = .more w) := by
  refine ⟨?_, ?_, ?_, ?_, ?_, ?_, ?_, ?_, ?_, ?_, ?_, ?_, ⟨_, rfl⟩, ⟨_, rfl⟩, ⟨_, rfl⟩⟩ <;> decide +kernel

/-- A scratchpad load and an atomic of two lanes on one word. -/
theorem test_witness_MemoryRepliesComplete_pads :
    let a : Acc := { accM with team := some 0, pa := 0x40, n := 4, lane := 0, done := false }
    let ops (o : Op) : State := { sP with ops := [(3, o)] }
    let ld : Op := { padM with kind := .sload, acc := [a], dest := some 5 }
    let at2 : Op := { padM with kind := .satomic, acc := [a, { a with lane := 1 }], dest := some 5, data := [(0, 2), (1, 3)] }
    (ld.stage = .ready ∧ padClear (ops ld) 3 ld = true ∧ opHeld (ops ld) ld = false ∧ padPoisoned (ops ld) 3 ld = none) ∧
    (at2.stage = .ready ∧ padClear (ops at2) 3 at2 = true ∧ opHeld (ops at2) at2 = false ∧ padPoisoned (ops at2) 3 at2 = none) ∧
    groupBy (ops ld) 7 = some (0, gM) ∧ (Tab.get? sP.teams 0).isSome = true := by decide +kernel

/-! ### The host, the fabric and the engines: hypotheses can be met -/

/-- Partition 0 with a fault queue that holds five entries, a Proctor ring with three records, a Journal with two. -/
def feH : Fe :=
  { feL with fqtail := 5, prouttail := 3, jnlhead := 1, jnltail := 3, faultSeq := 5, tlbinvBusy := true, tlbinvOps := [4]
             jnl := [(1, child 3 1), (2, child 2 0)], notDurable := [2] }
def sHost : State :=
  { State.reset with
    fes := [(0, feH)], clock := 512, slices := [(80, { Slice.empty with nextMasks := [(0, 0xFF)], cleaning := [0] })]
    vfs := [(0, { Vf.empty with map := 256, fifo := [9] })] }

theorem test_witness_HostRegisters :
    ((feH.fqtail + 8192 - feH.fqhead) % 8192 < (6 % 8192 + 8192 - feH.fqhead) % 8192 ∧
      (5 % 8192 + 8192 - feH.fqhead) % 8192 ≤ (feH.fqtail + 8192 - feH.fqhead) % 8192 ∧ feH.fqWaiting = []) ∧
    (resumeResult sHost 0 9 ≠ 0 ∧ (0 % 4 = 0 ∧ 1 % 4 ≠ 3 ∧ 2 % 4 = 2 ∧ 3 % 4 = 3 ∧ Fe.empty.tlbinvBusy = false ∧ feH.tlbinvBusy = true ∧
      invDone sHost feH.tlbinvOps = true ∧ invDone { sHost with ops := [(4, loadM)] } feH.tlbinvOps = false)) ∧
    (feH.wayidx < 1280 ∧ Tab.get? (sHost.slice 80).nextMasks 0 = some 0xFF ∧ 0 ∈ (sHost.slice 80).cleaning ∧ 0xFFFF &&& 0xFF ≠ 0xFFFF ∧
      9 ∉ waysOf 0xFF ∧ 9 ∈ waysOf 0xFFFF) ∧
    (lowestOpen feH = some 2 ∧ feH.jnlhead ≤ 2 ∧ lowestOpen { feH with jnl := [] } = none ∧ feH.jnlhead < 3) ∧
    ((3 % 2 ^ 32 + 2 ^ 32 - feH.prouthead) % 2 ^ 32 ≤ (feH.prouttail + 2 ^ 32 - feH.prouthead) % 2 ^ 32 ∧
      (feH.prouttail + 2 ^ 32 - feH.prouthead) % 2 ^ 32 < (4 % 2 ^ 32 + 2 ^ 32 - feH.prouthead) % 2 ^ 32) ∧
    (bitAt (sHost.vf 0).map 8 = true ∧ (sHost.vf 0).fifo = [9] ∧ bitAt (sHost.vf 1).map 8 = false ∧ (sHost.vf 1).fifo = []) ∧
    (((0, feH) ∈ sHost.fes ∧ feH.en = true ∧ ownsSlot sHost.tt.slots 0 = false) ∧ ownsSlot [(63, 0)] 0 = true) ∧
    (¬ (sHost.tt.slot = 63 ∧ slotEnd sHost ≤ sHost.clock) ∧ sHost.tt.slot < 63 ∧ (sHost.tt.round * 64 + sHost.tt.slot + 1) * 512 ≤ sHost.clock ∧
      { sHost.tt with slot := 63 }.slot = 63 ∧ (sHost.tt.round * 64 + 64) * 512 ≤ 64 * 512) ∧ Fe.empty.en = false := by
  refine ⟨?_, ?_, ?_, ?_, ?_, ?_, ?_, ?_, ?_⟩ <;> decide

/-- A group asked to save at cycle 10, a saved one with a tile kept, and one with a slice of 100 cycles; a team that no core has
the tiles for waits. -/
def gSv : Group := { gM with saveReq := some 10 }
def gSaved : Group := { gM with state := .saved, kept := [Tile.empty], savedFrom := .running }
def feS : Fe := { feOf 7 with slice := 100, saveOrder := [0] }
def sSv (g : Group) (clock : Nat) : State := { stOf g with clock := clock, fes := [(0, feS)], launches := [(0, { launch0 with grid := 2, tiles := 33 })] }

theorem test_witness_SavesAndRestores :
    (preemptOk (sSv gM 0) 0 0 = true ∧ 0 ∈ preemptNames (sSv gM 0) 0 0 ∧ gM.live = true ∧ gM.saveReq = none ∧ bitAt 0 16 = false) ∧
    (preemptOk (sSv gM 0) 0 8 = false ∧ bitAt 8 16 = false) ∧
    (bitAt 0x10000 16 = true ∧ preemptOk (sSv gSaved 0) 0 0x10000 = true ∧ 0 ∈ preemptNames (sSv gSaved 0) 0 0x10000) ∧
    (((sSv gM 100).fe 0).slice % 2 ^ 32 = 100 ∧ gM.placedAt + 100 ≤ (sSv gM 100).clock ∧ workWaits (sSv gM 100) 0 0 = true ∧
      (sSv gM 99).clock < gM.placedAt + 100) ∧
    (gSv.saveReq = some 10 ∧ gSv.grace = none ∧ 10 + 4096 ≤ (sSv gSv 4106).clock ∧ (sSv gSv 4105).clock < 10 + 4096) ∧
    ({ gSv with grace := some 1 }.grace = some 1 ∧ { gSv with grace := some 1 }.live = true ∧ gSv.killed = false ∧
      imageHeld writeGate (sSv { gSv with grace := some 1 } 0) 0 { gSv with grace := some 1 } = none) ∧
    (mayRestore (sSv gSaved 0) 0 gSaved = true ∧ gSaved.kept.length ≤ (freeTiles (sSv gSaved 0) 0).length ∧
      (rowPlacesC (sSv gSaved 0) 0 1 (rowsOf gSaved.vcount)).2.isSome = true ∧
      imageHeld readGate (sSv gSaved 0) 0 gSaved = none ∧ headerHeld (sSv gSaved 0) 0 gSaved = none ∧ mayRestore (sSv gM 0) 0 gM = false) := by
  refine ⟨?_, ?_, ?_, ?_, ?_, ?_, ?_⟩ <;> decide +kernel

/-- A launch of teams, and one of cohorts of two, on an empty partition of eight cores; a submission at 0x1000. -/
def sPl (l : Launch) : State := { State.reset with fes := [(0, feOf 7)], launches := [(0, l)] }
def lTeam : Launch := { launch0 with next := 0, live := 0, started := false, grid := 2 }
def lCoh : Launch := { lTeam with cohort := 2 }
def feSub : Fe := { feL with submitLo := 0x1000 }
def sSub (f : Fe) : State := { State.reset with mem := blockMem, fes := [(0, f)], mg := { Mgmt.empty with trained := true, bootstat := 1 } }

theorem test_witness_LaunchesPlaced :
    (nextLaunch (sPl lTeam) 0 = some (0, lTeam) ∧ (feOf 7).places = true ∧ fromPointer (feOf 7) = [] ++ 0 :: [1, 2, 3, 4, 5, 6, 7] ∧
      ((roomFor (sPl lTeam) 0 lTeam).2.map fun r => r.2) = some 0) ∧
    (nextLaunch (sPl lCoh) 0 = some (0, lCoh) ∧ chipsFrom (feOf 7) = [0] ∧ 2 ≤ (cohortCores (sPl lCoh) (feOf 7) 0 lCoh).2.length) ∧
    ((roomFor (sPl { lTeam with tiles := 33 }) 0 { lTeam with tiles := 33 }).2 = none) ∧
    (Fe.empty.en = false ∧ feSub.en = true ∧ feSub.last + 1 = 1 ∧ feSub.submitLo % 64 = 0 ∧ { feSub with submitLo := 8 }.submitLo % 64 ≠ 0 ∧
      feSub.submits = [] ∧ feSub.rst = false ∧ feSub.jnlRoom = true ∧ { feSub with jnltail := 65537 }.jnlRoom = false) := by
  refine ⟨?_, ?_, ?_, ?_⟩ <;> decide +kernel

/-- The front end reads its block through its partition's tables: a 2 MiB page at 0, found by a walk of four tables. -/
def tables : Memory :=
  Memory.writeN (Memory.writeN (Memory.writeN (Memory.writeN blockMem 0x10000 (toBytes 8 0x11001)) 0x11000 (toBytes 8 0x12001)) 0x12000
    (toBytes 8 0x13001)) 0x13000 (toBytes 8 0x603)

theorem test_witness_LaunchesPlaced_block :
    (match (vaRead ({ sSub feSub with mem := tables }.modFe 0 fun f => { f with ptroot := 0x10001, submits := [(0x1000, 1)] }) (feXer 0)
        .load false 0x1000 64).2 with
      | .ok bs => bs == Memory.readN blockMem 0x1000 64
      | .error _ => false) = true ∧
    (match (vaRead (sSub feSub) (feXer 0) .load false 0x1000 64).2 with
      | .error (_ :: _) => true
      | _ => false) = true := by decide +kernel

/-- An entry STARTED, with and without REPLAY, one whose eighth run has begun, one ACCEPTED. -/
def entryOf (state runs : Nat) (replay : Bool) : JEntry := { child state 0 with jseq := 1, runs := runs, replay := replay }
def feR (e : JEntry) : Fe := { feL with jnltail := 2, jnl := [(1, e)], notDurable := [1] }
def sR2 (f : Fe) (l : Launch) (clock : Nat) : State :=
  { State.reset with
    fes := [(0, f)], launches := [(32, l)], clock := clock, mg := { Mgmt.empty with trained := true, bootstat := 1 }
    tt := { State.reset.tt with slots := [(0, 0)], runSlots := [(0, 0)] } }

theorem test_witness_PartitionResets :
    (1 ∈ (feR (entryOf 2 1 true)).notDurable ∧ Tab.get? (feR (entryOf 2 1 true)).jnl 1 = some (entryOf 2 1 true)) ∧
    (enableFails (sR2 { feL with en := false } launch0 0) 0 = false ∧
      enableFails (sR2 { feL with en := false, cores := 7 } launch0 0) 0 = true ∧ feL.recover = false) ∧
    (feL.rst = false ∧ feL.en = true ∧ feL.wdctl = true ∧ bitAt 1 0 = true ∧ launchKey 0 1 = 32 ∧ launch0.started = true ∧
      launch0.moved + launch0.savedFor + 2 ^ 28 ≤ (sR2 feL launch0 (2 ^ 28)).clock ∧
      (sR2 feL launch0 (2 ^ 28 - 1)).clock < launch0.moved + launch0.savedFor + 2 ^ 28) ∧
    (0 ∈ feL.coreList ∧ chipOfCore 0 = 0 ∧ (0, feL) ∈ (sR2 feL launch0 0).fes) ∧
    ((feR (entryOf 2 8 true)).jnl = [(1, entryOf 2 8 true)] ∧ (entryOf 2 8 true).jseq = 1 ∧ (entryOf 2 8 true).runs = 8 ∧
      (entryOf 1 0 false).state = 1) := by
  refine ⟨?_, ?_, ?_, ?_, ?_⟩ <;> decide +kernel

/-- Line 2 cached and dirty; a dirty host sector and a combine-buffer entry on chiplet 0, core 0; a team's scratchpad. -/
def hostLine : Nat := hostBase / 128
def sectorM : Sector := { st := 3, data := List.replicate 64 5, notice := false, want := 0, ops := [], posts := [] }
def sDev : State :=
  { State.reset with
    hlines := [(2, { HomeLine.empty with cached := some 0, dirty := true })], teams := [(0, tmT)]
    cores := [(0, { Core.empty with cb := [cbM] })], chips := [(0, { Chip.empty with host := [(2 * hostLine, sectorM)] })] }

theorem test_witness_DeviceManaged :
    (s0.mg.attBusy = false ∧ { s0.mg with attBusy := true }.attBusy = true ∧ bitAt s0.mg.bootstat 0 = false ∧ bitAt 1 0 = true) ∧
    (coolLong { s0 with clock := 2100000 } = true ∧ coolLong { s0 with clock := 2099999 } = false) ∧
    (Tab.get? sDev.teams 0 = some tmT ∧ (∃ e ∈ (sDev.core 0).cb, e.line = 2) ∧ isDevice (2 * 128) = true ∧
      isHost (hostLine * 128) = true ∧ isHost (2 * 128) = false ∧ Tab.get? (sDev.chip 0).host (2 * hostLine + 0) = some sectorM ∧
      (sDev.hline 2).cached.isSome = true ∧ globalSlice (2 * 128) = 80 ∧ homeMc (2 * 128) = 1) ∧
    ((∀ e ∈ State.reset.groups, chipOfCore (coreOf e.1) = 0 → e.2.state = .saved ∨ e.2.state = .retired) ∧
      (let s : State := { sDev with cores := [] }
       chipQuiet (postChip s 0) 0 = true ∧ Tab.keys ((postChip s 0).chip 0).host = [2 * hostLine] ∧ sectorM.data.length = 64)) ∧
    ((stOf { g0 with state := .running }).groups = [(0, { g0 with state := .running })] ∧ chipOfCore (coreOf 0) = 0) := by
  refine ⟨?_, ?_, ⟨?_, ⟨cbM, ?_, ?_⟩, ?_⟩, ?_, ?_⟩ <;> decide +kernel

/-- Line 2 of page 0 in device bias, and in host bias with copies at the host; a flip under way; a request held. -/
def sAcc (h : HomeLine) (bias : List Nat) (hp : HostPort) : State :=
  { State.reset with hlines := [(2, h)], bias := bias, hp := hp, mem := [(0x100, 7)] }
def flip0 (toHost : Bool) (l : List Nat) : Flip := { page := 0, toHost := toHost, done := l, inv := l }
def every : List Nat := (List.range 256)
def flushed : State :=
  { State.reset with
    hlines := (List.range 32).map fun l => (l, { HomeLine.empty with flip := 1 })
    hp := { HostPort.empty with flip := some { page := 0, toHost := true, done := every, inv := every.filter (· != 17) } }
    pairs := [(pairKey (portCC 1) (portMC 1), { Pair.empty with inbox := [(0, .flushInv 0)] })] }

theorem test_witness_HostAccesses :
    let e := HomeLine.empty
    let w : Tab Byte := [(64, 9)]
    let heldBy := fun (m : Msg) => sAcc { e with held := [(hostChip, m)] } [] HostPort.empty
    let stands := fun (s : State) (r : HostReq) => (s.hline 2).held.any fun e => standsBefore s e.2 (.host r)
    (halfBytes 0x140 [some 9] = w ∧ halfBytes 0x100 (List.replicate 63 none ++ [some 9]) = [(63, 9)] ∧
      stands (sAcc e [] HostPort.empty) (.read 0x140 64) = false ∧ stands (heldBy (.host (.write 2 w))) (.read 0x140 64) = true ∧
      stands (heldBy (.host (.write 2 w))) (.write 2 w) = true ∧ stands (heldBy (.host (.write 2 w))) (.copy 2 1 true) = true ∧
      stands (heldBy (.host (.read 0x140 1))) (.write 2 w) = false ∧ { e with flip := 1 }.flip = 1 ∧
      seqRoom (sAcc { e with seq := 5 } [] HostPort.empty) 2 1 = true) ∧
    (let b : HomeLine := { e with snoop := 3, snpData := 1, host0 := 2, host1 := 1 }
     bitAt b.snoop 0 = true ∧ bitAt b.snpData 0 = true ∧ bitAt b.snpData 1 = false ∧ b.flip ≠ 3 ∧ b.held = [] ∧ b.passed < 4 ∧
      HostPort.empty.flip = none ∧ bitAt e.snoop 0 = false ∧ [(0 : Byte)] ≠ [] ∧ [(0 : Byte)].length ≠ 64) ∧
    (isDevice 0x100 = true ∧ 0x13F % 64 + 1 ≤ 64 ∧ hostSo (sAcc e [] HostPort.empty) 0x100 = false ∧
      hostSo (sAcc e [] { HostPort.empty with sobase := 1, solim := 0 }) 0x100 = true ∧ { e with flip := 3 }.flip = 3) ∧
    (seqRoom (sAcc e [] HostPort.empty) 2 1 = true ∧ waitedObject (sAcc e [] HostPort.empty) none 0x100 1 = none) ∧
    (lineHostBias (sAcc e [0] HostPort.empty) 2 = true ∧ lineHostBias (sAcc e [] HostPort.empty) 2 = false) ∧
    (flipCheck (sAcc e [] HostPort.empty) true = none ∧ flipCheck (sAcc e [0] HostPort.empty) true = some 1 ∧
      flipCheck (sAcc e [0] HostPort.empty) false = none ∧ flipCheck (sAcc e [] { HostPort.empty with biaspa := 2 ^ 40 }) true = some 3) ∧
    (hostHalves { e with host1 := 2 } ≠ 0 ∧ 2 / 32 = 0 ∧ bitAt { e with snoop := 2 }.snoop 1 = true ∧ bitAt e.snoop 1 = false) ∧
    (inboxHead flushed (portCC 1) (portMC 1) = some (.flushInv 0) ∧
      ∀ c ∈ List.range 16, ∀ m ∈ List.range 16, c * 16 + m ∈ every ∧ (c * 16 + m ∈ every.filter (· != 17) ∨ (c = 1 ∧ m = 1))) ∧
    (∀ l ∈ List.range 32, (flushed.hline l).flip = 1 ∧ (flushed.hline l).held = []) ∧ (∀ c ∈ coresOfChip 1, (flushed.core c).cb = []) ∧
    inboxHead { State.reset with pairs := [(pairKey (portMC 1) (portCC 1), { Pair.empty with inbox := [(0, .flush 0)] })] }
      (portMC 1) (portCC 1) = some (.flush 0) := by
  refine ⟨?_, ?_, ?_, ?_, ?_, ?_, ?_, ?_, ?_, ?_, ?_⟩ <;> decide +kernel

/-- A sector asked for and granted; one in state A with its upgrade notice due; one in state M at chiplet 0; one lost. -/
def secKey : Nat := 2 * hostLine
def sSec (y : Sector) (lost : List Nat) : State :=
  { State.reset with
    chips := [(0, { Chip.empty with host := [(secKey, y)] })], postings := [(6, { core := 0, ent := cbM })]
    hp := { HostPort.empty with lost := lost } }
def secNew (want : Nat) (posts : List Nat) : Sector := { st := 0, data := [], notice := false, want := want, ops := [], posts := posts }

theorem test_witness_HostSectors :
    (Tab.get? ((sSec (secNew 2 [6]) []).chip 0).host secKey = some (secNew 2 [6]) ∧ isHost (secKey * 64) = true ∧
      sectorM.data.length = 64 ∧ (secNew 2 [6]).want = 2 ∧ (secNew 1 []).want = 1 ∧ nearCount ((sSec (secNew 2 [6]) []).chip 0) < 393216 ∧ sectorOwner (sSec (secNew 2 [6]) []) 0 secKey = none ∧
      sectorOwner (sSec sectorM []) 1 secKey = some 0) ∧
    (Tab.get? (sSec { sectorM with st := 2, notice := true, posts := [6] } []).postings 6 = some { core := 0, ent := cbM }) ∧
    (sectorHolder (sSec sectorM []) secKey = some (0, sectorM) ∧ sectorHolder State.reset secKey = none ∧
      secKey ∉ (sSec sectorM []).hp.lost ∧ secKey ∈ (sSec sectorM [secKey]).hp.lost) := by
  refine ⟨?_, ?_, ?_⟩ <;> decide +kernel

/-- The pair from port 0 to port 16: flits on their way, delivered, held; one relayed to port 20 over it; a colour lost; a switch-over. -/
def flit (n hop got : Nat) : Flit := { seq := n, msg := .probeAck n 0, hop := hop, got := got }
def sPair (p : Pair) : State := { State.reset with pairs := [(pairKey 0 16, p)] }
def wireP (k : Nat) (second : Bool) : List (FlitRef × Bool) := [(⟨0, k, 2⟩, second)]

theorem test_witness_SeparatorCarries :
    (let p : Pair := { Pair.empty with wire := wireP 16 false, sent := [flit 1 2 2, flit 2 1 0, flit 3 1 0] }
     p.wire = (⟨0, 16, (flit 2 1 0).seq⟩, false) :: [] ∧ p.sent = [flit 1 2 2] ++ flit 2 1 0 :: [flit 3 1 0] ∧
      (∀ y ∈ [flit 1 2 2] ++ [flit 3 1 0], y.seq ≠ (flit 2 1 0).seq) ∧ p.lost false = false ∧ (∀ y ∈ [flit 1 2 2], y.got = 2) ∧
      (∀ y ∈ [flit 3 1 0], y.got = 0) ∧ (∀ y ∈ [flit 1 1 0], y.got = 0 ∨ y.got = 2) ∧ (∃ y ∈ [flit 1 1 0], y.got = 0) ∧
      (flit 2 1 2).got ≠ 0 ∧ { p with lostp := true }.lost false = true ∧ p.switching = false ∧ (flit 1 2 2).hop = 2 ∧ (flit 2 1 0).got ≠ 2 ∧
      p.drained = false) ∧
    ((sPair { Pair.empty with wire := wireP 20 false }).pair 0 16).wire = (⟨0, 20, 2⟩, false) :: [] ∧
    (let p : Pair := { Pair.empty with owed := 1, credits := 0, part := some (0, .probeAck 1 0, 1), sent := [flit 1 2 2] }
     0 < p.owed ∧ p.out = [] ∧ (∀ k ∈ Tab.keys (sPair p).pairs, k = pairKey 0 16) ∧ p.mode ≤ 1 ∧ p.sent.length < 256 ∧ ∀ f ∈ p.sent, f.hop ≠ 0) ∧
    (ofPair 0 16 (primaryColour 0 16) = true ∧ Pair.empty.isLost 0 16 (primaryColour 0 16) = false ∧ Pair.empty.preset ≠ 2 ∧
      ofPair 0 16 (primaryColour 0 16 + 2) = false) ∧
    (isPair 0 16 = true ∧ isPair 16 16 = false ∧ hostMode 0 16 Pair.empty 1 0 = some (1, 0, false) ∧ hostMode 0 16 Pair.empty 3 0 = none ∧
      Pair.empty.isRoute (1, 0, false) = false ∧ Pair.empty.isRoute (0, 0, false) = true) ∧
    (let p : Pair := { Pair.empty with switching := true, target := some (1, 0, false), sent := [flit 1 2 2, flit 2 0 0] }
     p.since + 4200 ≤ { sPair p with clock := 4200 }.clock ∧ { sPair p with clock := 4199 }.clock < p.since + 4200) ∧
    ((sPair Pair.empty).pair 16 0).mode ≠ 3 ∧ ({ sPair Pair.empty with pairs := [(pairKey 16 0, { Pair.empty with mode := 3 })] }.pair 16 0).mode = 3 ∧
    (0 < { Pair.empty with owed := 1 }.owed ∧ 7 ∈ { Pair.empty with lossRep := [7], retest := [7] }.retest) := by
  refine ⟨?_, ?_, ?_, ?_, ?_, ?_, ?_, ?_, ?_⟩ <;> decide +kernel

/-- Port 3 with a packet for this device (number 2) or another; a collective of two ranks of 32-bit sums, whose contributions are in. -/
def packet (topv dest : Nat) : Packet :=
  { typ := 0, lseq := 0, vc := 0, topv := topv, dest := dest, src := 9, comm := 3, seq := 0, rank := 1, kind := 0, count := 1, ty := 0, op := 0
    last := true, data := [1, 0, 0, 0] }
def collM : Coll :=
  { kind := 0, gid := 0, uid := 7, part := 0, cls := 0, launch := 0, hmode := false, src := 0, dst := 0x100, count := 1, ty := 0
    op := 0, comm := 3, seq := 0, topv := 1, sent := true, got := [(0, [5, 0, 0, 0]), (1, [1, 0, 0, 0])], status := none, event := none }
def slot5 (op : Nat) : QSlot := { op := op, flag := none, res := none, val := none }
def gQ5 : Group := { gM with queues := gM.queues.set 5 [slot5 2, slot5 4] }
def sEd (pkt : Packet) (c : Coll) : State :=
  { stOf gQ5 with
    fes := [(0, feOf 7)], etlbs := [(1057, [{ leaf0 with raw := 0x607 }])], topv := 1, colls := [(4, c)]
    ed := { Ednan.empty with devid := 2, ports := [(3, { EdPort.empty with st := 3, inq := [pkt] })], active := [(5, 0x1A)]
                             comms := [(3, { Comm.empty with cfg := 1 + 2 ^ 6 })] } }

theorem test_witness_EdnanCarries :
    ((sEd (packet 1 2) collM).edPort 3).inq = [packet 1 2] ∧ ((sEd (packet 1 2) collM).edPort 3).st = 3 ∧
    (sEd (packet 1 2) collM).edPort 4 = EdPort.empty ∧
    (edRoute (sEd (packet 1 5) collM) 5 = some 10 ∧ edRoute (sEd (packet 1 6) collM) 6 = none ∧ (packet 2 2).topv ≠ (sEd (packet 2 2) collM).topv) ∧
    (findColl (sEd (packet 1 2) collM) 3 0 = some (4, collM) ∧ Tab.get? (sEd (packet 1 2) collM).colls 4 = some collM ∧ collM.sent = true ∧
      collM.told = false ∧ collM.differs (packet 1 2) = false ∧ collM.differs { packet 1 2 with count := 2 } = true ∧
      { collM with told := true }.agreed ((sEd (packet 1 2) collM).comm 3) = false ∧
      { collM with oks := [1] }.agreed ((sEd (packet 1 2) collM).comm 3) = true) ∧
    ((sEd (packet 1 2) collM).ed.topvStage ≠ (sEd (packet 1 2) collM).topv ∧
      { (sEd (packet 1 2) collM).ed with topvStage := 1 }.topvStage = (sEd (packet 1 2) collM).topv) ∧
    (commBusy (sEd (packet 1 2) collM) 3 = true ∧ commBusy (sEd (packet 1 2) collM) 0 = false) ∧
    (groupBy (sEd (packet 1 2) collM) 7 = some (0, gQ5) ∧ nth gQ5.queues 5 [] = [slot5 2] ++ slot5 4 :: [] ∧
      collProbed (sEd (packet 1 2) collM) 4 = false ∧ fenceHolds (sEd (packet 1 2) collM) 7 4 4 = false ∧
      collTurn (sEd (packet 1 2) collM) 4 collM = true ∧ { collM with sent := false, topv := 0 }.topv ≠ 1) ∧
    (0 < 2 ∧ 0 < collM.count) := by
  refine ⟨?_, ?_, ?_, ?_, ?_, ?_, ?_, ?_, ?_⟩ <;> decide +kernel

theorem test_witness_EdnanCarries_result :
    ((sEd (packet 1 2) collM).comm 3).ranksN = 2 ∧ collM.full 2 = true ∧
    (writeColl (sEd (packet 1 2) collM) 4 collM (collM.result 2 ((sEd (packet 1 2) collM).comm 3).own)).2.isNone = true := by
  refine ⟨?_, ?_, ?_⟩ <;> decide +kernel

/-- A note to V3 of group 0, sent by group 8 of core 1; its tag is what the machine computes. -/
def passHigh : Nat := 3 + 3 * 4 + 3 * 2 ^ 9
def gNote (st : Option NoteSt) : Group := { gM with note := match st with | some n => [(3, n)] | none => [], fcnt := [1] }
def sNote (st : Option NoteSt) : State :=
  { stOf (gNote st) with
    groups := [(0, gNote st), (128 * 8, { gM with uid := 8 })], fes := [(0, feOf 15)]
    pairs := [(pairKey 1 0, { Pair.empty with inbox := [(0, .note 4)] }), (pairKey 0 1, { Pair.empty with inbox := [(0, .noteAck 4 2)] })] }
def noteOf (tag : Nat) : Note :=
  { gid := 128 * 8, uid := 8, part := 0, flag := some 0, pass := BitVec.ofNat 64 (passHigh * 2 ^ 19 + tag), index := 0, w64 := false
    rel := false, uniform := false, lanes := 5, vals := List.replicate 64 9, stage := 1, pc := 0, iw := [] }

/-- A halted group's load is held for its packet: what has not arrived is asked for by nobody any more (R307, R308). -/
theorem test_halt_holds_load :
    let s := holdSaves { stOf { gM with grace := some 1 } with ops := [(3, { loadM with uid := gM.uid })] }
    (match Tab.get? s.ops 3 with
      | some o => o.stage == .translate && o.acc.all fun a => a.sent == false
      | none => false) = true ∧ opHeld s { loadM with uid := gM.uid } = true := by decide +kernel

/-- The tag that lets the note pass. -/
theorem test_witness_NotesAndProctors_pass (st : Option NoteSt) :
    passCheck (sNote st) (noteOf (tagFor (sNote st) 0 0 passHigh)) = 0 ∧
    noteWaits (sNote st) 4 (noteOf (tagFor (sNote st) 0 0 passHigh)) = false := by
  have ht : tagFor (sNote st) 0 0 passHigh < 2 ^ 19 := Nat.mod_lt _ (by decide)
  generalize hT : tagFor (sNote st) 0 0 passHigh = t at ht
  have hn : (noteOf t).pass.toNat = passHigh * 2 ^ 19 + t := by
    simp only [noteOf, BitVec.toNat_ofNat]
    exact Nat.mod_eq_of_lt (by simp only [passHigh]; omega)
  have hd : (noteOf t).pass.toNat / 524288 = passHigh := by omega
  have hc : (passOf (noteOf t).pass.toNat).core * 128 + (passOf (noteOf t).pass.toNat).slot = 0 := by
    rw [hn]; simp only [passOf, bitsAt, passHigh]; omega
  have hg : (passOf (noteOf t).pass.toNat).gen = 0 := by rw [hn]; simp only [passOf, bitsAt, passHigh]; omega
  have htag : (passOf (noteOf t).pass.toNat).tag = t := by rw [hn]; simp only [passOf, bitsAt]; omega
  have hgr : Tab.get? (sNote st).groups 0 = some (gNote st) := by cases st <;> rfl
  have hgen : genOf (sNote st) 0 = 0 := rfl
  have hs : (gNote st).saving = false := by cases st <;> rfl
  have hw : (sNote st).notes = [] := rfl
  refine ⟨?_, by simp [noteWaits, hc, hgr, hs, hw]⟩
  simp [passCheck, hc, hgr, hgen, hg, htag, hd, hT, gNote, gM, grpOf, Group.blank]

theorem test_witness_NotesAndProctors :
    noteState (gNote (some .empty)) [3] = 0 ∧ noteState (gNote (some .full)) [3] = 3 ∧ noteState (gNote none) [3] = 2 ∧
    (let n := noteOf (5 * 2 ^ 49)
     let s : State := { sNote none with notes := [(4, n)] }
     passCheck s n = 4 ∧ noteAt s 0 = some (1, 4, n) ∧ noteWaits s 4 n = false ∧
      [(4, { n with stage := 3 })].filter (fun e : Nat × Note => e.2.stage == 3 && e.2.core == 0) = [(4, { n with stage := 3 })] ∧
      noteWaits { s with notes := [(3, { n with stage := 3 }), (4, n)] } 4 n = true ∧
      ([(3, { n with stage := 3 }), (4, n)].any fun e : Nat × Note => e.1 < 4 && e.2.uid == n.uid && e.2.core == n.core && e.2.stage == 3) = true ∧
      Tab.get? s.notes 4 = some n ∧ (gNote none).nrec = [] ∧
      inboxHead s 0 1 = some (.noteAck 4 2) ∧ groupBy s 8 = some (128 * 8, { gM with uid := 8 })) := by
  refine ⟨?_, ?_, ?_, ?_⟩ <;> decide +kernel

/-- Port 3 with one program: an event that it counts, its first invocation due; a command that attaches a program on port 3. -/
def evPr : PrEvent := { src := 0, part := some 0, e := [] }
def sInv (a : PrAtt) : State :=
  { sPr { fePr with prround := 4 } false with
    proctors := [(3, { Proctor.empty with atts := [(1, a)], fifo := [evPr] })] }

theorem test_witness_NotesAndProctors_proctor :
    (couldMatch evPr (attOf false) = true ∧ (attOf false).armed = true ∧ (attOf false).skip = 0 ∧
      Tab.getD ((sInv (attOf false)).proctor 3).used 0 0 + (attOf false).code.length ≤ ((sInv (attOf false)).fe 0).prround) ∧
    ((sInv (attOf false)).proctor 3).run = none ∧ ((sInv (attOf false)).proctor 3).fifo = [evPr] ∧
    bitAt (fePr).prstat 0 = false ∧ cmdPorts (2 ^ 19 + 1) = [3] ∧ bitAt (2 ^ 19 + 1) 10 = false ∧ bitAt (2 ^ 19 + 2 ^ 10 + 1) 10 = true ∧
    Tab.get? ((sInv (attOf false)).proctor 3).atts (0 * 16 + 1) = some (attOf false) ∧ (attOf false).leaving = false ∧
    (prCheck (sInv (attOf false)) 0 (2 ^ 19 + 2)).1 ≠ 0 := by
  refine ⟨?_, ?_, ?_, ?_, ?_, ?_, ?_, ?_, ?_, ?_⟩ <;> decide +kernel

/-- A job of each kind at the front of tile 3 of core 0, its operands in the scratchpad, which holds no poison. -/
def jobM (kind shape : Nat) (fb : List Nat) : MJob :=
  { kind := kind, gid := 0, uid := 7, part := 0, cls := 0, launch := 0, team := 0, hmode := false, name := 0, tile := some 3, shape := shape
    queue := 2, half := false, dest := keyS 10, flag := none, fb := fb, a := 2 * 2 ^ 56, b := 2 * 2 ^ 56 + 4096, row := 0, begun := false
    kept := [], keptMode := 0, event := none }
def gJob : Group := { gM with queues := gM.queues.set 2 (List.replicate 8 (slot5 4)), pend := [(keyS 10, 4), (keyS 11, 4)] }
def sJob (j : MJob) : State :=
  { stOf gJob with
    teams := [(0, { tmT with size := 131072, regions := [] })], mjobs := [(4, j)]
    cores := [(0, { Core.empty with tiles := [(3, { Tile.empty with owner := some 7, turns := [4] })] })] }
def fbM : List Nat := [0, 64, 64, 0, 0, 0, 0, 0]

/-- The last row of an MMA and of an MLDACC. -/
theorem test_witness_JobsRun_rows :
    let j := { jobM 1 0 fbM with row := 31, begun := true, cols := some [] }
    let k := { jobM 2 0 [896] with row := 31, begun := true }
    frontJob (sJob j) 0 3 1 = some (4, j) ∧ frontJob (sJob k) 0 3 2 = some (4, k) ∧
    jobWaits (sJob k) 4 k [(k.a, strideOf 896, 896)] = false ∧
    jobWaits (sJob j) 4 j (mmaSpans { fmt := 0, ablk := 0, bblk := 0, tree := false, shape := 0 } fbM j.a j.b) = false := by
  refine ⟨?_, ?_, ?_, ?_⟩ <;> decide +kernel

theorem test_witness_JobsRun :
    (frontJob (sJob (jobM 1 0 fbM)) 0 3 1 = some (4, jobM 1 0 fbM) ∧ (tileOf (sJob (jobM 1 0 fbM)) 0 3).owner.isSome = true ∧
      formatOf (nth fbM 0 0) 0 = some { fmt := 0, ablk := 0, bblk := 0, tree := false, shape := 0 } ∧
      jobWaits (sJob (jobM 1 0 fbM)) 4 (jobM 1 0 fbM)
        (mmaSpans { fmt := 0, ablk := 0, bblk := 0, tree := false, shape := 0 } fbM (jobM 1 0 fbM).a (jobM 1 0 fbM).b) = false) ∧
    (frontJob (sJob (jobM 2 0 [896])) 0 3 2 = some (4, jobM 2 0 [896]) ∧
      jobWaits (sJob (jobM 2 0 [896])) 4 (jobM 2 0 [896]) [((jobM 2 0 [896]).a, strideOf 896, 896)] = false) ∧
    frontJob (sJob (jobM 7 0 [])) 0 3 7 = some (4, jobM 7 0 []) ∧
    (frontJob (sJob (jobM 4 0 [128])) 0 3 4 = some (4, jobM 4 0 [128]) ∧ begunDrain (sJob (jobM 4 0 [128])) 0 3 = none ∧
      padForm (jobM 4 0 [128]).a = true ∧ ((32 * drainWidth 0 : Nat) : Int) ≤ strideOf 128) ∧
    (frontJob (sJob (jobM 3 0 [])) 0 3 3 = some (4, jobM 3 0 []) ∧ groupBy (sJob (jobM 3 0 [])) 7 = some (0, gJob) ∧
      nth gJob.queues 2 [] = [] ++ List.replicate 8 (slot5 4) ++ []) ∧
    (statusJob (sJob (jobM 5 0 [])) 0 3 = some (4, jobM 5 0 []) ∧ statusJob (sJob (jobM 6 0 [])) 0 3 = some (4, jobM 6 0 []) ∧ 10 + 1 < 384) := by
  refine ⟨?_, ?_, ?_, ?_, ?_, ?_⟩ <;> decide +kernel

/-- Every byte of a scratchpad operand lies in the scratchpad and none is poisoned; no object has waiters. -/
theorem test_witness_JobsRun_clean (j : MJob) (b i n : Nat) (st : Int) (hb : padForm b = true) :
    (∀ p ∈ lineBytesAt b st i n, p.1 = true ∧ padPoison (sJob j) 0 p.2 1 = false) ∧ ∀ a, waitedObject (sJob j) (some 0) a 1 = none := by
  refine ⟨fun p hp => ?_, fun a => rfl⟩
  simp only [lineBytesAt, List.mem_map] at hp
  obtain ⟨k, -, rfl⟩ := hp
  refine ⟨by simp [lineByte, hb], ?_⟩
  simp [padPoison, sJob, stOf, tmT, Tab.get?]

/-- Region 0 of a team, copying from page 0, which is mapped, or from a page that is not; a fill of two granules. -/
def wCopy (src : Nat) : Window := { wB with state := 2, src := src, uid := 7, job := 2 }
def tmC (src : Nat) : Team := { tmT with regions := [(0, wCopy src)] }
def sCopy (src : Nat) : State :=
  { stOf gM with teams := [(0, tmC src)], fes := [(0, feOf 7)], cores := [(0, { Core.empty with tlb := [leaf0] })] }
def churnM : Churn :=
  { kind := 0, gid := 0, uid := 7, part := 0, cls := 0, launch := 0, hmode := false, a := 0x1C0, b := 0, count := 128, word := 0x04030201
    ty := 0, op := 0, done := [], asked := [], got := [], diff := none, vals := [], pts := 0, event := none }
def sChurn : State :=
  { stOf gM with churns := [(4, churnM)], fes := [(0, feOf 7)], etlbs := (List.range 16).map fun m => (1040 + m, [{ leaf0 with raw := 0x607 }]) }

theorem test_witness_JobsRun_engines :
    (Tab.get? (sCopy 0).teams 0 = some (tmC 0) ∧ (wCopy 0).noChunk 1 = false ∧ copyHeld (sCopy 0) (wCopy 0) = false ∧
      (wCopy 0).state = 2 ∧ Tab.get? (sCopy 0).sliceSets (setKey (tmC 0) 0) = none) ∧
    (churnM.granules = 2 ∧ fenceHolds sChurn 7 4 3 = false ∧ granuleMsgs sChurn 4 = none ∧ churnM.piece 1 = (64, 64) ∧
      (match (translate sChurn (churnXer churnM (granuleMc sChurn churnM 0x200 .store)) 0 .store).2 with
        | .ok r => r == (0, 0)
        | .error _ => false) = true ∧
      writeWaits (translate sChurn (churnXer churnM (granuleMc sChurn churnM 0x200 .store)) 0 .store).1 0 (some 0)
        ((List.range 64).map (0x200 + ·)) = none) := by
  refine ⟨?_, ?_⟩ <;> decide +kernel

/-- No object of the scratchpad or of memory has waiters. -/
theorem test_witness_JobsRun_noWaiters :
    (∀ a n, waitedObject (sCopy 0) (some 0) a n = none) ∧ ∀ a, waitedObject sChurn none a 1 = none := ⟨fun _ _ => rfl, fun _ => rfl⟩

/-- The first chunk's bytes are read, or a source at 0x10000 faults. -/
theorem test_witness_JobsRun_chunk :
    let x : Xer := { part := 0, core := some 0, chip := some 0, eng := none, hmode := false, uid := some 7
                     cls := (Tab.get? (sCopy 0).launches 0).map (·.cls) }
    (match (vaGather (sCopy 0) x .load false (chunkVas (wCopy 0) 0)).2 with | .ok bs => bs.length == 512 | .error _ => false) = true ∧
    (match (vaGather (sCopy 0x10000) x .load false (chunkVas (wCopy 0x10000) 0)).2 with | .error (_ :: _) => true | _ => false) =
      true := by
  decide +kernel

/-! ### Encodings -/

/-- Words put together from the fields of R66 to R73, R136, R139, R161, R194, R200, R207 and R212, one for each long major that the manual's worked
words leave out. -/
theorem test_majors_decode :
    let g (d a b c : BitVec 10) (mod : BitVec 5 := 0) (fs : Bool := false) : Lg :=
      { sp := none, mod := mod, fs := fs, d := d, a := a, b := b, c := c, hold := 0, lit := none }
    decode none [0x42020100, 0x01400000] = .ok (.vsqrt (g 4 5 0 0), 2) ∧
    decode none [0x4307228A, 0x00803000] = .ok (.vcmp (g 138 2 3 0 10), 2) ∧
    decode none [0x44000040, 0x00803000] = .ok (.vshfl (g 1 2 3 0), 2) ∧
    decode none [0x48002100, 0x21486000] = .ok (.sadd (g 132 133 134 0), 2) ∧
    decode none [0x510100C8, 0x01400010] =
      .ok (.sst { sp := none, nt := false, sx := false, size := 2, fs := false, d := 3, off := 16, scope := 0, order := 0, addr := 5, lit := none }, 2) ∧
    decode none [0x52000200, 0x25002000, 0x00001019] =
      .ok (.gatom { sp := none, aop := 0, fs := false, d := 8, ty := 0, cmp := 0, data := 2, addr := 148, order := 1, scope := 3, off := 0x40
                    lit := none }, 3) ∧
    decode none [0x530A0020, 0x25085218] = .ok (.chfill (g 0 148 133 134 0 true), 2) ∧
    decode none [0x58002000, 0x22094258] =
      .ok (.mma { sp := none, tile := 1, shape := 0, fs := false, x := 136, y := 148, z := 150, lit := none }, 2) ∧
    decode none [0x60052240, 0x01202000] = .ok (.npoll (g 137 4 514 0), 2) ∧
    decode none [0x61010000, 0x25000000] = .ok (.wdrop (g 0 148 0 0), 2) ∧
    decode none [0x62062240, 0x81400000] = .ok (.ctopv (g 137 517 0 0), 2) ∧
    decode none [0x63040000, 0x00207000] = .ok (.sleep (g 0 0 519 0), 2) := by decide +kernel

/-- Well-formedness refuses a field out of its bounds, a literal that no selector names, and a unit that does not exist. -/
theorem test_ill_formed_refused :
    let l : Lg := { sp := none, mod := 0, fs := false, d := 1, a := 2, b := 3, c := 0, hold := 0, lit := none }
    let k : Packet := { typ := 0, lseq := 0, vc := 0, topv := 0, dest := 0, src := 0, comm := 0, seq := 0, rank := 0, kind := 0, count := 0, ty := 0
                        op := 0, last := true, data := [] }
    (∀ i ∈ [Instr.vadd { l with c := 1 }, .vadd { l with fs := true }, .vadd { l with lit := some 0 }, .vadd { l with a := 1023 }, .vadd { l with mod := 1 },
        .wdrop { l with hold := 1 }, .vsqrt { l with mod := 16 }, .vcmp { l with mod := 7 }, .sadd { l with mod := 1 },
        .vmovShort { sp := none, d := 1, a := 2, b := 3 }, .jmpShort { sp := none, cond := 1, off := 0 },
        .exit { sp := none, sel := 1, lo := 0, w1 := 0, lit := none },
        .gld { sp := none, nt := false, sx := false, size := 5, fs := false, d := 8, off := 0, scope := 0, order := 0, addr := 148, lit := none },
        .gatom { sp := none, aop := 14, fs := false, d := 8, ty := 0, cmp := 0, data := 2, addr := 148, order := 1, scope := 3, off := 0, lit := none },
        .mzero { sp := none, tile := 1, shape := 3, fs := false, x := 136, y := 148, z := 150, lit := none },
        .prHinc { d := 15, a := 0, b := 1, imm := 0 }, .prTrigIrq { d := 0, a := 0, b := 0, imm := 1 },
        .enterClause 128 0 0, .homeLoadRequest 16 0, .flitReceive 34 0 true, .lossOfLight 16, .mmaJob 0 32, .wayMaskApply 0 1280,
        .ednanFlitReceive 0 true { k with lseq := 4096 }, .ednanFlitReceive 0 true { k with data := List.replicate 209 0 }], i.wf = false) ∧
    (Instr.ednanFlitReceive 15 true k).wf = true ∧ (Instr.vadd l).wf = true := by decide +kernel

/-! ### Whole-machine statements: hypotheses can be met -/

/-- The agenda names the fragment, a Proctor or an event; with none, clock 1 becomes 2 and the fragment's turn has come. -/
def fRun : Frag := { fM with words := [0x000985C3], hdr := 0xA7F80001, idx := 1 }
def gRun (f : Frag) : Group := { gM with split := [(0, .frag f)], state := .running }

theorem test_witness_StepRunsDecoded :
    let t := tick (stOf (gRun fRun)) 1
    duePlan (stOf (gRun fRun)) = none ∧ selected t 0 (gRun fRun) = some (0, 0) ∧ mayIssue t 0 (gRun fRun) = true ∧ frag_ready (gRun fRun) 0 fRun = true ∧ datapathBusy t 0 (gRun fRun) fRun = false ∧
    (decode (some (bitsAt fRun.hdr.toNat 4 3)) (fRun.words.drop (fRun.idx - 1)) = .ok (.vaddShort { sp := none, d := 9, a := 133, b := 195 }, 1)) ∧
    (frag_ready (gRun fE) 0 fE = true ∧ fE.idx = 0) ∧
    ((tick { stOf (gRun fRun) with clock := 1 } 1).clock % 2 = 0 ∧ bestFrag (tick { stOf (gRun fRun) with clock := 1 } 1) = some (0, 0)) ∧
    ({ tick { sPr fePr false with agenda := [] } 1 with curPr := some 3 }.prIssuer.isSome = true ∧ decodePr 0x38C8C000 ≠ none) ∧
    eventOk (.lossOfLight 3) = true := by
  refine ⟨?_, ?_, ?_, ?_, ?_, ?_, ?_, ?_, ?_, ?_⟩ <;> decide +kernel

theorem test_witness_DecodeEncodeAgree :
    (Instr.exit (lb 0 0 0)).enc = some (.lb 0x09 0x08 (lb 0 0 0)) ∧ (Enc.lb 0x09 0x08 (lb 0 0 0)).wf = true ∧
    decode none [0x49080000, 0] = .ok (.exit (lb 0 0 0), 2) ∧ (Instr.prHinc (pr 3 2 3 0)).wf = true ∧
    decodePr 0x38C8C000 = some (.prHinc (pr 3 2 3 0)) := by decide

theorem test_witness_GroupFormKept : GroupForm sM ∧ sM.groups ≠ [] ∧ (∃ e ∈ sM.groups, ∃ y ∈ e.2.split, ∃ f, y.2 = .frag f) := by
  refine ⟨?_, by decide, ?_⟩
  · intro e he
    obtain rfl := List.mem_singleton.mp he
    refine ⟨by decide, fun y hy f hf => ?_⟩
    obtain rfl := List.mem_singleton.mp hy
    obtain rfl := SplitEntry.frag.inj hf
    decide
  · exact ⟨_, List.mem_singleton.mpr rfl, _, List.mem_singleton.mpr rfl, _, rfl⟩

theorem test_witness_MemoryFormKept : MemoryForm sM ∧ ∃ t, step sM = .next t := by
  refine ⟨⟨by decide, by decide⟩, ?_⟩
  have h : (match step sM with | .next _ => true | _ => false) = true := by decide +kernel
  cases e : step sM with
  | next t => exact ⟨t, rfl⟩
  | fault f => rw [e] at h; cases h
  | refused f => rw [e] at h; cases h

end Sys2Proof.Tests
end

section

namespace Sys2Proof.Machine

/-! ### Reading a changed table -/

/-- A map over the values of a table. -/
theorem Tab.get?_mapVal {α β : Type} (F : α → β) (t : Tab α) (k : Nat) :
    Tab.get? (t.map fun e => (e.1, F e.2)) k = (Tab.get? t k).map F := by
  induction t with
  | nil => rfl
  | cons e r ih =>
    simp only [List.map_cons, Tab.get?]
    split
    · rfl
    · exact ih

/-- The entries whose keys pass a test. -/
theorem Tab.get?_filterKey {α : Type} (p : Nat → Bool) (t : Tab α) (k : Nat) :
    Tab.get? (t.filter fun e => p e.1) k = if p k then Tab.get? t k else none := by
  induction t with
  | nil => simp
  | cons e r ih =>
    obtain ⟨j, v⟩ := e
    by_cases hj : p j = true
    · rw [List.filter_cons_of_pos (by simpa using hj)]
      simp only [Tab.get?]
      split
      · next h => subst h; simp [hj]
      · exact ih
    · rw [List.filter_cons_of_neg (by simpa using hj), ih]
      simp only [Tab.get?]
      by_cases h : j = k
      · subst h; simp [hj]
      · rw [if_neg h]

/-- A table set key by key from a range of keys. -/
theorem Tab.getD_foldl_set_range {α : Type} (f : Nat → α) (n : Nat) (t : Tab α) (k : Nat) (d : α) :
    Tab.getD ((List.range n).foldl (fun t i => Tab.set t i (f i)) t) k d = if k < n then f k else Tab.getD t k d := by
  induction n with
  | zero => simp
  | succ n ih =>
    rw [List.range_succ, List.foldl_append, List.foldl_cons, List.foldl_nil]
    by_cases hk : k = n
    · subst hk; simp
    · rw [Tab.getD_set_ne _ _ _ hk, ih]
      simp only [show (k < n + 1) = (k < n) by simp; omega]

theorem Tab.mem_keys_of_get? {α : Type} {t : Tab α} {k : Nat} {v : α} (h : Tab.get? t k = some v) : k ∈ Tab.keys t := by
  induction t with
  | nil => cases h
  | cons e r ih =>
    obtain ⟨j, w⟩ := e
    simp only [Tab.get?] at h
    split at h
    · next hj => subst hj; exact List.mem_cons_self
    · exact List.mem_cons_of_mem _ (ih h)

theorem Tab.get?_of_mem_keys {α : Type} {t : Tab α} {k : Nat} (h : k ∈ Tab.keys t) : ∃ v, Tab.get? t k = some v := by
  induction t with
  | nil => cases h
  | cons e r ih =>
    obtain ⟨j, w⟩ := e
    simp only [Tab.get?]
    split
    · exact ⟨w, rfl⟩
    · next hj =>
      rcases List.mem_cons.mp h with e | h
      · exact absurd e.symm hj
      · exact ih h

/-! ### Reading a changed part of the state -/

@[simp] theorem State.core_modCore_self (s : State) (c : Nat) (f : Core → Core) : (s.modCore c f).core c = f (s.core c) := by
  simp [State.core, State.modCore]

@[simp] theorem State.chip_modChip_self (s : State) (c : Nat) (f : Chip → Chip) : (s.modChip c f).chip c = f (s.chip c) := by
  simp [State.chip, State.modChip]

theorem State.chip_modChip_ne (s : State) {c k : Nat} (f : Chip → Chip) (h : k ≠ c) : (s.modChip c f).chip k = s.chip k :=
  Tab.getD_set_ne _ _ _ h

@[simp] theorem State.hline_modHline_self (s : State) (l : Nat) (f : HomeLine → HomeLine) :
    (s.modHline l f).hline l = f (s.hline l) := by
  simp [State.hline, State.modHline]

theorem State.hline_modHline_ne (s : State) {l k : Nat} (f : HomeLine → HomeLine) (h : k ≠ l) :
    (s.modHline l f).hline k = s.hline k :=
  Tab.getD_set_ne _ _ _ h

theorem State.pair_modPair (s : State) (i j a b : Nat) (f : Pair → Pair) :
    (s.modPair i j f).pair a b = if pairKey a b = pairKey i j then f (s.pair i j) else s.pair a b := by
  unfold State.pair State.modPair
  split
  · next h => rw [h, Tab.getD_set_self]; rfl
  · next h => exact Tab.getD_set_ne _ _ _ h

/-! ### Reading bytes that have been written -/

theorem Memory.readN_writeN_same (m : Memory) (a : Nat) (bs : List Byte) :
    Memory.readN (Memory.writeN m a bs) a bs.length = bs := by
  apply List.ext_getElem (by simp [Memory.readN])
  intro k _ hk
  simp [Memory.readN, Memory.read_writeN_inside _ _ _ _ hk]

theorem Memory.readN_writeN_apart (m : Memory) (a c n : Nat) (bs : List Byte) (h : c + n ≤ a ∨ a + bs.length ≤ c) :
    Memory.readN (Memory.writeN m a bs) c n = Memory.readN m c n := by
  refine List.map_congr_left fun i hi => Memory.read_writeN_outside _ _ _ _ ?_
  have := List.mem_range.mp hi
  omega

theorem Memory.read_filterKey (p : Nat → Bool) (m : Memory) (a : Nat) :
    Memory.read (m.filter fun c => p c.1) a = if p a then Memory.read m a else unlistedByte := by
  unfold Memory.read Tab.getD
  rw [Tab.get?_filterKey]
  split <;> rfl

end Sys2Proof.Machine

end

section

namespace Sys2Proof.Machine

open Sys2Proof

/-! ### Device resets (R24, R25, R364, R372, R373) -/

/-- What every device reset leaves: nothing of the work under way, of partition `n` its Journal's place alone, and no byte that does
not survive. -/
def Wiped (s t : State) (n : Nat) : Prop :=
  t.groups = [] ∧ t.launches = [] ∧ t.teams = [] ∧ t.ops = [] ∧ t.chips = [] ∧ t.pairs = [] ∧ t.cores = [] ∧ t.events = [] ∧
    (t.fe n).en = false ∧ (t.fe n).last = (s.fe n).last ∧ (t.fe n).jnlhead = (s.fe n).jnlhead ∧
    (t.fe n).jnltail = (s.fe n).jnltail ∧ ∀ pa, survives pa = false → Memory.read t.mem pa = 0

theorem fe_mapVal (s : State) (F : Fe → Fe) (n : Nat) :
    ({ s with fes := s.fes.map fun (f : Nat × Fe) => (f.1, F f.2) }).fe n = if (Tab.get? s.fes n).isSome then F (s.fe n) else Fe.empty := by
  unfold State.fe Tab.getD
  rw [Tab.get?_mapVal]
  cases Tab.get? s.fes n <;> rfl

/-- A front end after a reset: of what it had, the place of its Journal. -/
theorem keepJournal_place (f : Fe) :
    (keepJournal f).en = false ∧ (keepJournal f).last = f.last ∧ (keepJournal f).jnlhead = f.jnlhead ∧
      (keepJournal f).jnltail = f.jnltail := ⟨rfl, rfl, rfl, rfl⟩

theorem fe_absent {s : State} {n : Nat} (h : (Tab.get? s.fes n).isSome = false) : s.fe n = Fe.empty := by
  unfold State.fe Tab.getD
  cases e : Tab.get? s.fes n with
  | none => rfl
  | some v => rw [e] at h; cases h

theorem afterReset_fe (s : State) (m : Memory) (lost : List Nat) (n : Nat) :
    ((afterReset s m lost).fe n).en = false ∧ ((afterReset s m lost).fe n).last = (s.fe n).last ∧
      ((afterReset s m lost).fe n).jnlhead = (s.fe n).jnlhead ∧ ((afterReset s m lost).fe n).jnltail = (s.fe n).jnltail := by
  have h : (afterReset s m lost).fe n = if (Tab.get? s.fes n).isSome then keepJournal (s.fe n) else Fe.empty := fe_mapVal s keepJournal n
  rw [h]
  split
  · exact keepJournal_place _
  · next hn => rw [fe_absent (by simpa using hn)]; exact ⟨rfl, rfl, rfl, rfl⟩

theorem afterReset_read (s : State) (m : Memory) (lost : List Nat) (pa : Nat) :
    Memory.read (afterReset s m lost).mem pa = if survives pa then Memory.read m pa else unlistedByte :=
  Memory.read_filterKey survives m pa

theorem wiped_afterReset (s : State) (m : Memory) (lost : List Nat) (n : Nat) : Wiped s (afterReset s m lost) n := by
  obtain ⟨hen, hlast, hhead, htail⟩ := afterReset_fe s m lost n
  exact ⟨rfl, rfl, rfl, rfl, rfl, rfl, rfl, rfl, hen, hlast, hhead, htail, fun pa h => by rw [afterReset_read, h]; rfl⟩

/-- Only the places of the Journals count of the state before. -/
theorem Wiped.of_places {s u t : State} {n : Nat} (h : Wiped u t n)
    (e : (u.fe n).last = (s.fe n).last ∧ (u.fe n).jnlhead = (s.fe n).jnlhead ∧ (u.fe n).jnltail = (s.fe n).jnltail) : Wiped s t n := by
  obtain ⟨e1, e2, e3⟩ := e
  unfold Wiped at h ⊢
  rwa [e1, e2, e3] at h

theorem fes_foldl_loseChip (l : List Nat) (s : State) : (l.foldl loseChip s).fes = s.fes := by
  induction l generalizing s with
  | nil => rfl
  | cons c r ih => exact ih (loseChip s c)

theorem mem_foldl_loseChip (l : List Nat) (s : State) : (l.foldl loseChip s).mem = s.mem := by
  induction l generalizing s with
  | nil => rfl
  | cons c r ih => exact ih (loseChip s c)

/-- The state in which the chiplets have stopped, before the reset itself (R373). -/
def stopped (s : State) : State :=
  (List.range 16).foldl loseChip
    { s with freeCtr := s.freeCtr + 1, fes := s.fes.map fun (f : Nat × Fe) => (f.1, tearCopies s.freeCtr f.2) }

theorem stopped_places (s : State) (n : Nat) :
    ((stopped s).fe n).last = (s.fe n).last ∧ ((stopped s).fe n).jnlhead = (s.fe n).jnlhead ∧
      ((stopped s).fe n).jnltail = (s.fe n).jnltail := by
  have h : (stopped s).fe n = if (Tab.get? s.fes n).isSome then tearCopies s.freeCtr (s.fe n) else Fe.empty := by
    rw [← fe_mapVal]
    unfold State.fe stopped
    rw [fes_foldl_loseChip]
  rw [h]
  split
  · exact ⟨rfl, rfl, rfl⟩
  · next hn => rw [fe_absent (by simpa using hn)]; exact ⟨rfl, rfl, rfl⟩

theorem Wiped.withMg {s u : State} {n : Nat} (h : Wiped s u n) (m : Mgmt) : Wiped s { u with mg := m } n := h

theorem wiped_abruptReset (s : State) (cause n : Nat) : Wiped s (abruptReset s cause) n := by
  obtain ⟨m, h⟩ : ∃ m, abruptReset s cause = { afterReset (stopped s) (stopped s).mem (stopped s).hp.lost with mg := m } := ⟨_, rfl⟩
  rw [h]
  exact ((wiped_afterReset _ _ _ n).of_places (stopped_places s n)).withMg m

theorem bitsAt_errlog (a b c : Nat) :
    bitsAt (a % 256 + b % 256 * 2 ^ 8 + c * 2 ^ 16) 0 8 = a % 256 ∧ bitsAt (a % 256 + b % 256 * 2 ^ 8 + c * 2 ^ 16) 8 8 = b % 256 := by
  unfold bitsAt
  constructor <;> omega

theorem bitsAt_lt (x lo n : Nat) : bitsAt x lo n < 2 ^ n := Nat.mod_lt _ (Nat.two_pow_pos n)

theorem errlog_abruptReset (s : State) (cause : Nat) :
    bitsAt (abruptReset s cause).mg.errlog 0 8 = cause % 256 ∧
      bitsAt (abruptReset s cause).mg.errlog 8 8 = (bitsAt s.mg.errlog 8 8 + 1) % 256 := by
  let s1 : State := { s with freeCtr := s.freeCtr + 1, fes := s.fes.map fun (f : Nat × Fe) => (f.1, tearCopies s.freeCtr f.2) }
  have h : (abruptReset s cause).mg.errlog =
      cause % 256 + (bitsAt (errlogValue s1) 8 8 + 1) % 256 * 2 ^ 8 + bitsAt (errlogValue s1) 16 48 * 2 ^ 16 := rfl
  have hv : bitsAt (errlogValue s1) 8 8 = bitsAt s.mg.errlog 8 8 := by
    show bitsAt (bitsAt s.mg.errlog 0 16 + correctedCount s1 * 2 ^ 16) 8 8 = _
    unfold bitsAt; omega
  rw [h, ← hv]
  exact bitsAt_errlog _ _ _

/-! ### Firmware (R372) -/

theorem bitsAt_bootstatOf (img cause : Nat) (h : cause % 8 ≠ 0) :
    bitsAt (bootstatOf img cause) 9 3 = cause % 8 ∧ bitsAt (bootstatOf img cause) 1 8 = img % 256 ∧
      bitAt (bootstatOf img cause) 0 = false := by
  unfold bootstatOf
  rw [if_neg h]
  refine ⟨?_, ?_, ?_⟩
  · unfold bitsAt; omega
  · unfold bitsAt; omega
  · simp only [bitAt, beq_eq_false_iff_ne]; omega

theorem fuse_raised (m : Mgmt) (n i : Nat) :
    Tab.getD (raisedFuses m n) i 0 =
      if i < Config.fwImages then Tab.getD m.fuses i 0 + min (Config.fwAbove n i) (Config.fuseRaise n i) else Tab.getD m.fuses i 0 := by
  unfold raisedFuses
  exact Tab.getD_foldl_set_range _ _ _ _ _

/-- A verified image is at or above the fuse that it raises, and no fuse goes down. -/
theorem fuse_le_image (m : Mgmt) (n i : Nat) :
    Tab.getD m.fuses i 0 ≤ Tab.getD (raisedFuses m n) i 0 ∧
      (i < Config.fwImages → ∃ y, (verifiedImages m n)[i]? = some y ∧ Tab.getD (raisedFuses m n) i 0 ≤ y.version) := by
  rw [fuse_raised]
  constructor
  · split <;> omega
  · intro hi
    refine ⟨{ digest := Config.fwDigest n i, version := Tab.getD m.fuses i 0 + Config.fwAbove n i }, ?_, ?_⟩
    · simp [verifiedImages, hi]
    · rw [if_pos hi]
      show _ ≤ Tab.getD m.fuses i 0 + Config.fwAbove n i
      omega

theorem mg_verified_pass (s : State) (img : Nat) {cause : Nat} (h : cause % 8 = 0) :
    (verifyFirmware s img cause).mg =
      { s.mg with bootstat := 1, images := verifiedImages s.mg s.freeCtr, fuses := raisedFuses s.mg s.freeCtr } := by
  simp [verifyFirmware, bootstatOf, h]

theorem mg_verified_fail (s : State) (img : Nat) {cause : Nat} (h : cause % 8 ≠ 0) :
    (verifyFirmware s img cause).mg = { s.mg with bootstat := bootstatOf img cause } := by
  simp [verifyFirmware, h]

theorem wiped_verified {s u : State} {n : Nat} (img cause : Nat) (h : Wiped s u n) : Wiped s (verifyFirmware u img cause) n := h

/-- MG_RESET with 0xD0: a reset in good order, then the firmware is verified. -/
theorem mgReset_resets (s : State) (img cause n : Nat) :
    let t := verifyFirmware (orderlyReset s) img cause
    Wiped s t n ∧ t.mg.trained = false ∧
      (cause % 8 = 0 → t.mg.bootstat = 1 ∧ t.mg.images.length = Config.fwImages ∧
        ∀ i, Tab.getD s.mg.fuses i 0 ≤ Tab.getD t.mg.fuses i 0 ∧
          (i < Config.fwImages → ∃ y, t.mg.images[i]? = some y ∧ Tab.getD t.mg.fuses i 0 ≤ y.version)) ∧
      (cause % 8 ≠ 0 → t.mg.images = [] ∧ t.mg.fuses = s.mg.fuses) ∧
      (cause % 8 ≠ 0 → bitsAt t.mg.bootstat 9 3 = cause % 8 ∧ bitsAt t.mg.bootstat 1 8 = img % 256 ∧ bitAt t.mg.bootstat 0 = false) ∧
      ∀ pa, survives pa = true → Memory.read t.mem pa = Memory.read (writeBackAll s) pa := by
  intro t
  refine ⟨wiped_verified img cause (wiped_afterReset s _ _ n), ?_, ?_, ?_, ?_, ?_⟩
  · by_cases h : cause % 8 = 0
    · rw [show t.mg = _ from mg_verified_pass _ img h]; rfl
    · rw [show t.mg = _ from mg_verified_fail _ img h]; rfl
  · intro h
    rw [show t.mg = _ from mg_verified_pass _ img h]
    exact ⟨rfl, by simp [verifiedImages], fun i => fuse_le_image (orderlyReset s).mg _ i⟩
  · intro h
    rw [show t.mg = _ from mg_verified_fail _ img h]
    exact ⟨rfl, rfl⟩
  · intro h
    rw [show t.mg = _ from mg_verified_fail _ img h]
    exact bitsAt_bootstatOf img cause h
  · intro pa h
    exact (afterReset_read s (writeBackAll s) s.hp.lost pa).trans (if_pos h)

/-! ### Attestation, power (R374, R375) -/

theorem attestation_length (s : State) : (attReport s ++ attSignature (attReport s)).length = 1024 := by
  simp [attReport, attSignature]

theorem nonce_reported (s : State) : s.mg.nonceNow ∈ reportContents s := by simp [reportContents]

/-- The fields of MG_POWER. -/
theorem bitsAt_powerWord (w mhz t : Nat) :
    bitsAt (powerWord w mhz t) 0 12 = w % 2 ^ 12 ∧ bitsAt (powerWord w mhz t) 16 12 = mhz % 2 ^ 12 ∧
      bitsAt (powerWord w mhz t) 32 8 = t % 2 ^ 8 := by
  unfold bitsAt powerWord
  refine ⟨?_, ?_, ?_⟩ <;> omega

theorem clockMhz_lt (s : State) : clockMhz s < 4096 := by
  have := bitsAt_lt s.mg.power 16 12
  unfold clockMhz
  split <;> omega

/-- The clock that a measurement shows. -/
theorem clockMhz_powerWord {s : State} {w mhz t : Nat} (h : s.mg.power = powerWord w mhz t) (h0 : 0 < mhz) (h1 : mhz < 4096) :
    clockMhz s = mhz := by
  unfold clockMhz
  rw [h, (bitsAt_powerWord w mhz t).2.1, show mhz % 2 ^ 12 = mhz from Nat.mod_eq_of_lt h1, if_neg (by omega)]

theorem powerLimit_reached (s : State) :
    ∃ t, exec .powerLimitReached s = .next t ∧ t = { s with mg := t.mg, freeCtr := s.freeCtr + 1 } ∧
      t.mg = { s.mg with power := t.mg.power, limitAt := s.clock } ∧ clockMhz t = max 1000 (clockMhz s - 100) ∧
      (s.mg.pwrcap < 4096 → Config.junctionLimit < 256 →
        s.mg.pwrcap ≤ bitsAt t.mg.power 0 12 ∨ Config.junctionLimit ≤ bitsAt t.mg.power 32 8) := by
  have hc := clockMhz_lt s
  refine ⟨_, rfl, rfl, rfl, clockMhz_powerWord rfl (by omega) (by omega), fun hw ht => ?_⟩
  simp only [bitsAt_powerWord]
  cases bitAt (Config.freeWord s.freeCtr) 0
  · left; simp only [Bool.false_eq_true, if_false]; omega
  · right; simp only [if_true]; omega

theorem clock_raised (s : State) (h : s.mg.limitAt + 1000 * clockMhz s ≤ s.clock) :
    ∃ t, exec .clockRaise s = .next t ∧ t = { s with mg := t.mg, freeCtr := s.freeCtr + 1 } ∧
      t.mg = { s.mg with power := t.mg.power } ∧ clockMhz t = min 2100 (clockMhz s + 100) ∧
      (0 < s.mg.pwrcap → bitsAt t.mg.power 0 12 < s.mg.pwrcap) := by
  have hx : exec .clockRaise s = .next { s with
      freeCtr := s.freeCtr + 1
      mg := { s.mg with power := powerWord (Config.freeWord s.freeCtr % max 1 s.mg.pwrcap) (min 2100 (clockMhz s + 100))
                                  (Config.freeWord s.freeCtr / 2 ^ 12 % max 1 Config.junctionLimit) } } :=
    congrArg Host.Outcome.next (if_pos (decide_eq_true h))
  refine ⟨_, hx, rfl, rfl, clockMhz_powerWord rfl (by omega) (by omega), fun hw => ?_⟩
  have := Nat.mod_lt (Config.freeWord s.freeCtr) (show 0 < max 1 s.mg.pwrcap by omega)
  simp only [bitsAt_powerWord]
  omega

theorem clock_stays (s : State) (h : s.clock < s.mg.limitAt + 1000 * clockMhz s) :
    ∃ t, exec .clockRaise s = .next t ∧ t = s :=
  ⟨_, congrArg Host.Outcome.next (if_neg (by simp only [coolLong, decide_eq_true_eq]; omega)), rfl⟩

end Sys2Proof.Machine

end

section

namespace Sys2Proof.Machine

open Sys2Proof

/-! ### Scrubbing (R62, R327, R370, R371) -/

theorem correctedCount_countCorrected (s : State) : correctedCount (countCorrected s) = (correctedCount s + 1) % 2 ^ 48 := by
  have h : bitsAt (countCorrected s).mg.errlog 16 48 = (bitsAt s.mg.errlog 16 48 + 1) % 2 ^ 48 := by
    show bitsAt (bitsAt s.mg.errlog 0 16 + (bitsAt s.mg.errlog 16 48 + 1) % 2 ^ 48 * 2 ^ 16) 16 48 = _
    have := bitsAt_lt s.mg.errlog 0 16
    generalize bitsAt s.mg.errlog 0 16 = a at *
    generalize bitsAt s.mg.errlog 16 48 = b
    unfold bitsAt; omega
  unfold correctedCount
  rw [h, show (countCorrected s).cores = s.cores from rfl]
  omega

theorem errlog_countCorrected (s : State) : bitsAt (countCorrected s).mg.errlog 0 16 = bitsAt s.mg.errlog 0 16 := by
  show bitsAt (bitsAt s.mg.errlog 0 16 + (bitsAt s.mg.errlog 16 48 + 1) % 2 ^ 48 * 2 ^ 16) 0 16 = _
  have := bitsAt_lt s.mg.errlog 0 16
  generalize bitsAt s.mg.errlog 0 16 = a at *
  unfold bitsAt; omega

theorem error_corrected (s : State) (place line kind : Nat) :
    ∃ t, exec (.storageScrub kind place line false) s = .next t ∧ t = { s with mg := { s.mg with errlog := t.mg.errlog } } ∧
      correctedCount t = (correctedCount s + 1) % 2 ^ 48 ∧ bitsAt t.mg.errlog 0 16 = bitsAt s.mg.errlog 0 16 :=
  ⟨countCorrected s, rfl, rfl, correctedCount_countCorrected s, errlog_countCorrected s⟩

theorem pad_poisoned {s : State} {place : Nat} (line : Nat) {d : Team} (h : Tab.get? s.teams place = some d) :
    ∃ t y, exec (.storageScrub 0 place line true) s = .next t ∧ t = { s with teams := t.teams } ∧ Tab.get? t.teams place = some y ∧
      y = { d with poison := y.poison } ∧ line ∈ y.poison := by
  refine ⟨_, { d with poison := if d.poison.contains line then d.poison else d.poison ++ [line] }, rfl, rfl, ?_, rfl, ?_⟩
  · simp [State.modTeam, h]
  · show line ∈ if d.poison.contains line then d.poison else d.poison ++ [line]
    split
    · next hc => exact List.contains_iff_mem.mp hc
    · simp

theorem l1_line_dropped (s : State) (place line : Nat) :
    ∃ t, exec (.storageScrub 1 place line true) s = .next t ∧ t = { s with cores := t.cores } ∧ Tab.get? (t.core place).l1 line = none ∧
      ∀ k, k ≠ line → Tab.get? (t.core place).l1 k = Tab.get? (s.core place).l1 k := by
  refine ⟨_, rfl, rfl, ?_, fun k hk => ?_⟩
  · simp
  · simp [Tab.get?_del_ne _ hk]

/-- The combine buffer of a core once the bytes of a line in it are lost. -/
def cbEmptied (s : State) (core line : Nat) : State :=
  s.modCore core fun c => { c with cb := c.cb.map fun e => if e.line = line then { e with bytes := [] } else e }

theorem cb_cbEmptied (s : State) (core line : Nat) : ∀ e ∈ ((cbEmptied s core line).core core).cb, e.line = line → e.bytes = [] := by
  simp only [cbEmptied, State.core_modCore_self, List.mem_map]
  rintro e ⟨d, -, rfl⟩ he
  split at he
  · next hd => rw [if_pos hd]
  · next hd => exact absurd he hd

theorem loseCb_of_find {s : State} {core line : Nat} {e : CbEnt} (h : (s.core core).cb.find? (fun e => e.line == line) = some e) :
    loseCb s core line =
      if isHost (line * 128) then loseHost (cbEmptied s core line) line (Tab.keys e.bytes) else poisonLine (cbEmptied s core line) line := by
  simp only [loseCb, h]
  rfl

theorem isHost_eq_false_of_isDevice {pa : Nat} (h : isDevice pa = true) : isHost pa = false := by
  have h1 : pa < 2 ^ 40 := of_decide_eq_true h
  have h2 : ¬ hostBase ≤ pa := by unfold hostBase; omega
  simp [isHost, h2]

theorem poisonLine_of_isDevice {line : Nat} (h : isDevice (line * 128) = true) (s : State) :
    poisonLine s line = s.modHline line fun h => { h with poison := some 0 } := if_pos h

theorem cb_error_device {s : State} {place line : Nat} (hd : isDevice (line * 128) = true) (hm : ∃ e ∈ (s.core place).cb, e.line = line) :
    ∃ t, exec (.storageScrub 2 place line true) s = .next t ∧ (t.hline line).poison = some 0 ∧ t.mem = s.mem ∧
      ∀ e ∈ (t.core place).cb, e.line = line → e.bytes = [] := by
  obtain ⟨d, hd1, hd2⟩ := hm
  obtain ⟨e, he⟩ : ∃ e, (s.core place).cb.find? (fun e => e.line == line) = some e :=
    Option.isSome_iff_exists.mp (List.find?_isSome.mpr ⟨d, hd1, by simpa using hd2⟩)
  have hx : loseCb s place line = (cbEmptied s place line).modHline line fun h => { h with poison := some 0 } := by
    rw [loseCb_of_find he, isHost_eq_false_of_isDevice hd, poisonLine_of_isDevice hd]; rfl
  exact ⟨_, congrArg Host.Outcome.next hx, by simp, rfl, cb_cbEmptied s place line⟩

theorem cb_error_host {s : State} {place line half o : Nat} {b : Byte} {e : CbEnt} (hh : isHost (line * 128) = true)
    (hc : (s.core place).cb = [e]) (hl : e.line = line) (hb : (o, b) ∈ e.bytes) (ho : o / 64 = half) :
    ∃ t, exec (.storageScrub 2 place line true) s = .next t ∧ (2 * line + half) ∈ t.hp.lost ∧ t.mem = s.mem := by
  have hf : (s.core place).cb.find? (fun e => e.line == line) = some e := by simp [hc, hl]
  have hx : loseCb s place line = loseHost (cbEmptied s place line) line (Tab.keys e.bytes) := by
    rw [loseCb_of_find hf, if_pos hh]
  refine ⟨_, congrArg Host.Outcome.next hx, ?_, rfl⟩
  simp only [loseHost, List.mem_append, List.mem_eraseDups, List.mem_map, Tab.keys]
  exact .inr ⟨o, ⟨_, hb, rfl⟩, by rw [ho]⟩

theorem near_line_dropped {s : State} {place line : Nat} (h : isHost (line * 128) = false) :
    ∃ t, exec (.storageScrub 3 place line true) s = .next t ∧ t = { s with chips := t.chips } ∧
      Tab.get? (t.chip place).near line = none := by
  have hx : exec (.storageScrub 3 place line true) s = .next (s.modChip place fun c => { c with near := Tab.del c.near line }) :=
    congrArg Host.Outcome.next (if_neg (Bool.not_eq_true _ ▸ h))
  exact ⟨_, hx, rfl, by simp⟩

/-- What the loss of a sector leaves of its chiplet's sectors. -/
theorem host_loseSector (s : State) (chip key k : Nat) :
    Tab.get? ((loseSector s chip key).chip chip).host k =
      if k = key then (Tab.get? (s.chip chip).host key).map fun y => { y with st := 0, data := [] } else Tab.get? (s.chip chip).host k := by
  have h : (loseSector s chip key).chip chip =
      (s.modChip chip fun c => { c with host := Tab.upd c.host key fun y => { y with st := 0, data := [] } }).chip chip := by
    unfold loseSector
    dsimp only
    split <;> rfl
  rw [h, State.chip_modChip_self]
  split
  · next e => subst e; exact Tab.get?_upd_self _ _ _
  · next e => exact Tab.get?_upd_ne _ _ e

theorem mem_loseSector (s : State) (chip key : Nat) : (loseSector s chip key).mem = s.mem := by
  unfold loseSector
  dsimp only
  split <;> rfl

theorem lost_loseSector {s : State} {chip key : Nat} {y : Sector} (h : Tab.get? (s.chip chip).host key = some y) (hm : y.st = 3) :
    key ∈ (loseSector s chip key).hp.lost := by
  have hg : (Tab.getD (s.chip chip).host key Sector.empty).st = 3 := by simp [Tab.getD, h, hm]
  unfold loseSector
  simp [hg, dropFilter]

theorem lost_loseSector_of_lost {s : State} {k : Nat} (chip key : Nat) (h : k ∈ s.hp.lost) : k ∈ (loseSector s chip key).hp.lost := by
  unfold loseSector
  dsimp only
  split
  · by_cases e : k = key
    · simp [dropFilter, e]
    · simp [dropFilter, State.modChip, h, e]
  · exact h

theorem sectors_lost {s : State} {place line half : Nat} {y : Sector} (hh : isHost (line * 128) = true) (h2 : half < 2)
    (hy : Tab.get? (s.chip place).host (2 * line + half) = some y) :
    ∃ t z, exec (.storageScrub 3 place line true) s = .next t ∧ Tab.get? (t.chip place).host (2 * line + half) = some z ∧ z.st = 0 ∧
      t.mem = s.mem ∧ (y.st = 3 → (2 * line + half) ∈ t.hp.lost) := by
  have hx : exec (.storageScrub 3 place line true) s = .next (loseSector (loseSector s place (2 * line)) place (2 * line + 1)) :=
    congrArg Host.Outcome.next (if_pos hh)
  refine ⟨_, { y with st := 0, data := [] }, hx, ?_, rfl, by rw [mem_loseSector, mem_loseSector], fun hm => ?_⟩
  · rw [host_loseSector, host_loseSector, host_loseSector]
    obtain rfl | rfl : half = 0 ∨ half = 1 := by omega
    · simp only [Nat.add_zero] at hy ⊢
      simp [hy]
    · simp [hy]
  · obtain rfl | rfl : half = 0 ∨ half = 1 := by omega
    · exact lost_loseSector_of_lost _ _ (lost_loseSector hy hm)
    · exact lost_loseSector (by rw [host_loseSector, if_neg (by omega)]; exact hy) hm

/-- What eviction leaves of the line's record at its home. -/
theorem hline_evictLine (s : State) (slice line : Nat) :
    (evictLine s slice line).hline line = { s.hline line with cached := none, dirty := false } := by
  unfold evictLine
  exact State.hline_modHline_self _ _ _

theorem slice_error {s : State} {place line : Nat} (hc : (s.hline line).cached.isSome = true) (hs : globalSlice (line * 128) = place)
    (hd : isDevice (line * 128) = true) :
    ∃ t, exec (.storageScrub 4 place line true) s = .next t ∧ (t.hline line).cached = none ∧
      (t.hline line).poison = (if (s.hline line).dirty then some 0 else (s.hline line).poison) ∧ t.mem = s.mem := by
  have hx : exec (.storageScrub 4 place line true) s =
      .next (if (s.hline line).dirty then poisonLine (evictLine s place line) line else evictLine s place line) :=
by
    show execStorageScrub 4 place line true s = _
    simp [execStorageScrub, hs, Option.isNone_eq_false_iff.mpr hc]
  refine ⟨_, hx, ?_⟩
  cases (s.hline line).dirty
  · exact ⟨by simp [hline_evictLine], by simp [hline_evictLine], rfl⟩
  · simp only [if_true, poisonLine_of_isDevice hd]
    exact ⟨by simp [hline_evictLine], by simp, rfl⟩

theorem tlb_entry_dropped {s : State} {place : Nat} (line : Nat) (h : place < 16) :
    ∃ t, exec (.storageScrub 6 place line true) s = .next t ∧ t = { s with chips := t.chips } ∧
      (t.chip place).tlb = (s.chip place).tlb.eraseIdx line :=
  ⟨_, congrArg Host.Outcome.next (if_pos h), rfl, by simp⟩

theorem dram_line_poisoned {s : State} {mc line : Nat} (hm : homeMc (line * 128) = mc) (hd : isDevice (line * 128) = true) :
    ∃ t, exec (.dramPatrol mc line true) s = .next t ∧ t = { s with hlines := t.hlines } ∧
      t.hline line = { s.hline line with poison := some 0 } ∧ ∀ k, k ≠ line → t.hline k = s.hline k := by
  have hx : exec (.dramPatrol mc line true) s = .next (s.modHline line fun h => { h with poison := some 0 }) :=
    congrArg Host.Outcome.next ((if_neg (not_not_intro hm)).trans (if_pos hd))
  exact ⟨_, hx, rfl, by simp, fun k hk => State.hline_modHline_ne _ _ hk⟩

theorem dram_error_corrected {s : State} {mc line : Nat} (hm : homeMc (line * 128) = mc) :
    ∃ t, exec (.dramPatrol mc line false) s = .next t ∧ t = { s with mg := { s.mg with errlog := t.mg.errlog } } ∧
      correctedCount t = (correctedCount s + 1) % 2 ^ 48 :=
  ⟨countCorrected s, congrArg Host.Outcome.next (if_neg (not_not_intro hm)), rfl, correctedCount_countCorrected s⟩

/-! ### Power gating (R327) -/

theorem get?_modSector (s : State) (chip key k : Nat) (f : Sector → Sector) :
    Tab.get? ((modSector s chip key f).chip chip).host k =
      if k = key then some (f (sectorOf s chip key)) else Tab.get? (s.chip chip).host k := by
  unfold modSector
  rw [State.chip_modChip_self]
  split
  · next e => subst e; exact Tab.get?_set_self _ _ _
  · next e => exact Tab.get?_set_ne _ _ e

/-- Operations that are asked to try again change nothing but operations. -/
theorem foldl_markSent (l : List Nat) (u : Nat) (b : Bool) (s : State) :
    l.foldl (fun t id => markSent t id u b) s = { s with ops := (l.foldl (fun t id => markSent t id u b) s).ops } := by
  induction l generalizing s with
  | nil => rfl
  | cons i r ih => rw [List.foldl_cons, ih]; rfl

/-- A released sector, whose operations wait no more. -/
def released (s : State) (chip key : Nat) : State := modSector s chip key fun y => { y with ops := [], old := [], engs := [] }

theorem releaseOps_rest (s : State) (chip key : Nat) :
    releaseOps s chip key = { released s chip key with ops := (releaseOps s chip key).ops } :=
  foldl_markSent _ _ _ _

theorem mem_releaseOps (s : State) (chip key : Nat) : (releaseOps s chip key).mem = s.mem := by rw [releaseOps_rest]; rfl

theorem chip_releaseOps (s : State) (chip key c : Nat) : (releaseOps s chip key).chip c = (released s chip key).chip c := by
  rw [releaseOps_rest]; rfl

theorem evictSector_absent {s : State} {chip key : Nat} (h : (sectorOf s chip key).st = 0) : evictSector s chip key = s := by
  simp [evictSector, h]

theorem mem_evictSector (s : State) (chip key : Nat) :
    (evictSector s chip key).mem =
      if (sectorOf s chip key).st = 3 then Memory.writeN s.mem (key * 64) (sectorOf s chip key).data else s.mem := by
  by_cases h0 : (sectorOf s chip key).st = 0
  · rw [evictSector_absent h0, if_neg (by omega)]
  · unfold evictSector
    dsimp only
    rw [if_neg h0, mem_releaseOps]
    split <;> rfl

theorem host_evictSector (s : State) (chip key k : Nat) (h : (sectorOf s chip key).st ≠ 0) :
    ∃ z, z.st = 0 ∧ Tab.get? ((evictSector s chip key).chip chip).host k =
      if k = key then some z else Tab.get? (s.chip chip).host k := by
  unfold evictSector
  dsimp only
  rw [if_neg h]
  generalize hs : (if (sectorOf s chip key).st = 3 then
    { s with mem := Memory.writeN s.mem (key * 64) (sectorOf s chip key).data } else s) = s1
  have hc : s1.chip chip = s.chip chip := by subst hs; split <;> rfl
  generalize hu : modSector s1 chip key (fun y => { y with
    st := 0, data := [], notice := false, poison := false, want := if y.posts.isEmpty then 0 else 2 }) = u
  have hh : sectorOf u chip key = { sectorOf s1 chip key with
      st := 0, data := [], notice := false, poison := false, want := if (sectorOf s1 chip key).posts.isEmpty then 0 else 2 } := by
    subst hu
    simp only [sectorOf, Tab.getD, get?_modSector, if_true, Option.getD_some]
  refine ⟨{ sectorOf u chip key with ops := [], old := [], engs := [] }, by rw [hh], ?_⟩
  rw [chip_releaseOps, released, get?_modSector]
  split
  · rfl
  · next hk => subst hu; rw [get?_modSector, if_neg hk, hc]

theorem sectorOf_of_get? {s : State} {chip key : Nat} {y : Sector} (h : Tab.get? (s.chip chip).host key = some y) :
    sectorOf s chip key = y := by
  simp [sectorOf, Tab.getD, h]

/-- Every modified sector of a chiplet has its 64 bytes. -/
def FullSectors (s : State) (chip : Nat) : Prop :=
  ∀ k y, Tab.get? (s.chip chip).host k = some y → y.st = 3 → y.data.length = 64

/-- A sector that held `y` has been given up, its bytes in memory if it was modified. -/
def SectorGiven (t : State) (chip k : Nat) (y : Sector) : Prop :=
  (∃ z, Tab.get? (t.chip chip).host k = some z ∧ z.st = 0) ∧ (y.st = 3 → Memory.readN t.mem (k * 64) 64 = y.data)

theorem host_evictSector_ne (s : State) (chip : Nat) {key k : Nat} (h : k ≠ key) :
    Tab.get? ((evictSector s chip key).chip chip).host k = Tab.get? (s.chip chip).host k := by
  by_cases h0 : (sectorOf s chip key).st = 0
  · rw [evictSector_absent h0]
  · obtain ⟨z, -, hz⟩ := host_evictSector s chip key k h0
    rw [hz, if_neg h]

theorem FullSectors.evict {s : State} {chip : Nat} (h : FullSectors s chip) (key : Nat) : FullSectors (evictSector s chip key) chip := by
  by_cases h0 : (sectorOf s chip key).st = 0
  · rwa [evictSector_absent h0]
  · intro k y hy hm
    obtain ⟨z, hz, hk⟩ := host_evictSector s chip key k h0
    rw [hk] at hy
    split at hy
    · cases hy; omega
    · exact h k y hy hm

theorem sectorGiven_evictSector {s : State} {chip k : Nat} {y : Sector} (hf : FullSectors s chip)
    (hy : Tab.get? (s.chip chip).host k = some y) : SectorGiven (evictSector s chip k) chip k y := by
  have hs := sectorOf_of_get? hy
  constructor
  · by_cases h0 : y.st = 0
    · rw [evictSector_absent (by rw [hs]; exact h0)]; exact ⟨y, hy, h0⟩
    · obtain ⟨z, hz, hk⟩ := host_evictSector s chip k k (by rw [hs]; exact h0)
      exact ⟨z, by rw [hk, if_pos rfl], hz⟩
  · intro hm
    rw [mem_evictSector, hs, if_pos hm]
    have := Memory.readN_writeN_same s.mem (k * 64) y.data
    rwa [hf k y hy hm] at this

theorem SectorGiven.evict {t : State} {chip k : Nat} {y : Sector} (h : SectorGiven t chip k y) (hf : FullSectors t chip) (key : Nat) :
    SectorGiven (evictSector t chip key) chip k y := by
  obtain ⟨⟨z, hz, h0⟩, hm⟩ := h
  by_cases e : k = key
  · subst e
    rw [evictSector_absent (by rw [sectorOf_of_get? hz]; exact h0)]
    exact ⟨⟨z, hz, h0⟩, hm⟩
  · refine ⟨⟨z, by rw [host_evictSector_ne t chip e, hz], h0⟩, fun h3 => ?_⟩
    rw [← hm h3, mem_evictSector]
    split
    · next hx =>
      have hlen : (sectorOf t chip key).data.length = 64 := by
        cases hg : Tab.get? (t.chip chip).host key with
        | none => simp [sectorOf, Tab.getD, hg, Sector.empty] at hx
        | some x => rw [sectorOf_of_get? hg] at hx ⊢; exact hf key x hg hx
      exact Memory.readN_writeN_apart _ _ _ _ _ (by rw [hlen]; omega)
    · rfl

theorem SectorGiven.foldl {chip k : Nat} {y : Sector} (ks : List Nat) {t : State} (h : SectorGiven t chip k y) (hf : FullSectors t chip) :
    SectorGiven (ks.foldl (fun t k => evictSector t chip k) t) chip k y := by
  induction ks generalizing t with
  | nil => exact h
  | cons key r ih => exact ih (h.evict hf key) (hf.evict key)

theorem sectorGiven_foldl {chip k : Nat} {y : Sector} (ks : List Nat) {t : State} (hk : k ∈ ks)
    (hy : Tab.get? (t.chip chip).host k = some y) (hf : FullSectors t chip) :
    SectorGiven (ks.foldl (fun t k => evictSector t chip k) t) chip k y := by
  induction ks generalizing t with
  | nil => cases hk
  | cons key r ih =>
    by_cases e : k = key
    · subst e; exact (sectorGiven_evictSector hf hy).foldl r (hf.evict k)
    · have hr := (List.mem_cons.mp hk).resolve_left e
      exact ih hr (by rw [host_evictSector_ne t chip e, hy]) (hf.evict key)

theorem sectorGiven_giveSectors {s : State} {chip k : Nat} {y : Sector} (hy : Tab.get? (s.chip chip).host k = some y)
    (hf : FullSectors s chip) : SectorGiven (giveSectors s chip) chip k y := by
  have h := sectorGiven_foldl (Tab.keys (s.chip chip).host) (Tab.mem_keys_of_get? hy) hy hf
  unfold giveSectors
  generalize (Tab.keys (s.chip chip).host).foldl (fun t k => evictSector t chip k) s = t at h ⊢
  exact h

theorem SectorGiven.gate {t : State} {chip k : Nat} {y : Sector} (h : SectorGiven t chip k y) :
    SectorGiven (t.modChip chip fun c => { c with near := [], gated := true }) chip k y := by
  unfold SectorGiven
  rwa [State.chip_modChip_self]

theorem chiplet_gated {s : State} {place : Nat}
    (hg : ∀ e ∈ s.groups, chipOfCore (coreOf e.1) = place → e.2.state = .saved ∨ e.2.state = .retired)
    (hq : chipQuiet (postChip s place) place = true) (hf : FullSectors (postChip s place) place) :
    ∃ t, exec (.chipletPowerGating place) s = .next t ∧ (t.chip place).gated = true ∧ (t.chip place).near = [] ∧
      ∀ k y, Tab.get? ((postChip s place).chip place).host k = some y →
        (∃ z, Tab.get? (t.chip place).host k = some z ∧ z.st = 0) ∧ (y.st = 3 → Memory.readN t.mem (k * 64) 64 = y.data) := by
  have hidle : (s.groups.any fun g =>
      execChipletPowerGating.attChipOf g.1 == place && g.2.state != .saved && g.2.state != .retired) = false := by
    simp only [List.any_eq_false, Bool.and_eq_true, beq_iff_eq, bne_iff_ne, not_and, not_not, execChipletPowerGating.attChipOf]
    intro e he hc
    exact (hg e he hc.1).resolve_left hc.2
  have hx : exec (.chipletPowerGating place) s =
      .next ((giveSectors (postChip s place) place).modChip place fun c => { c with near := [], gated := true }) := by
    show execChipletPowerGating place s = _
    simp only [execChipletPowerGating, hidle, hq, Bool.false_eq_true, if_false, Bool.not_true]
  exact ⟨_, hx, by simp, by simp, fun k y hy => (sectorGiven_giveSectors hy hf).gate⟩

theorem chiplet_in_use {s : State} {place : Nat} (h : ∃ e ∈ s.groups, chipOfCore (coreOf e.1) = place ∧ e.2.state = .running) :
    ∃ t, exec (.chipletPowerGating place) s = .next t ∧ t = s := by
  obtain ⟨e, he, hc, hr⟩ := h
  have hb : (s.groups.any fun g =>
      execChipletPowerGating.attChipOf g.1 == place && g.2.state != .saved && g.2.state != .retired) = true :=
    List.any_eq_true.mpr ⟨e, he, by simp [execChipletPowerGating.attChipOf, hc, hr]⟩
  exact ⟨_, congrArg Host.Outcome.next (if_pos hb), rfl⟩

end Sys2Proof.Machine

namespace Sys2Proof

open Sys2Proof.Machine

/-- Settles O49: a lemma for each step of the management controller, for each kind of storage, and for gating. -/
theorem deviceManaged : Obligations.DeviceManaged := by
  unfold Obligations.DeviceManaged
  intro s v n place line
  refine ⟨fun img cause => ⟨fun h => ?_, fun h => ?_⟩, fun cause => ?_, ⟨fun h => ?_, fun h => ?_⟩, ⟨fun h hb => ?_, fun h => ?_⟩,
    ⟨fun h => ?_, fun h => ?_⟩, powerLimit_reached s, clock_raised s, clock_stays s, error_corrected s place line, fun d => pad_poisoned line,
    l1_line_dropped s place line, cb_error_device, fun hh e half hc hl h2 ⟨o, b, hb, ho⟩ => cb_error_host hh hc hl hb ho,
    near_line_dropped, fun hh half y h2 hy => sectors_lost hh h2 hy, slice_error, ?_, tlb_entry_dropped line, ⟨s, rfl, rfl⟩,
    fun mc => ⟨dram_line_poisoned, dram_error_corrected⟩, chiplet_gated, chiplet_in_use⟩
  · exact ⟨_, congrArg Host.Outcome.next (if_pos h), mgReset_resets s img cause n⟩
  · exact ⟨_, congrArg Host.Outcome.next (if_neg h), rfl⟩
  · obtain ⟨hl, hn⟩ := errlog_abruptReset s cause
    exact ⟨_, rfl, wiped_abruptReset s cause n, hl, hn, rfl⟩
  · exact ⟨_, congrArg Host.Outcome.next (if_pos h), rfl⟩
  · exact ⟨_, congrArg Host.Outcome.next (if_neg (by simp [booted, h])), rfl⟩
  · exact ⟨_, congrArg Host.Outcome.next (if_pos (by simp [h, hb])), rfl⟩
  · exact ⟨_, congrArg Host.Outcome.next (if_neg (by rcases h with h | h <;> simp [h])), rfl⟩
  · exact ⟨_, congrArg Host.Outcome.next (if_pos h), rfl, attestation_length s, nonce_reported s⟩
  · exact ⟨_, congrArg Host.Outcome.next (if_neg (by simp [h])), rfl⟩
  · exact ⟨_, rfl, wiped_abruptReset { s with freeCtr := s.freeCtr + 1 } _ n⟩

end Sys2Proof

end

section

namespace Sys2Proof

open Sys2Proof.Machine

/-- A load of page 0 whose group has gone, at the last table of its walk: the table lies at address 0, where no entry is valid. -/
def orphanWalk : Walk := { va := 0, table := 0, lvl := 1, g64 := false }

def orphanLoad : Op :=
  { kind := .load, gid := 0, uid := 7, frag := 0, part := 0, cls := 0, hmode := false, flag := none, dest := none, lanes := 1, uni := false
    size := 2, sx := false, nt := false, order := 0, scope := 0, uo := false, src := [], dst := [], acc := [], aop := 0, ty := 0, data := []
    cmp := [], tags := [], stage := .translate, pages := [0], walk := some orphanWalk, found := [], bad := [], waits := 0, born := 0, pc := 0
    iw := [], launch := 0, pts := 0 }

def orphanState : State := { State.reset with ops := [(3, orphanLoad)] }

/-- The walk ends at an entry that is not valid (R294). -/
theorem orphan_walk_fails : (walkOnce orphanState (opXer orphanLoad) orphanWalk).2 = some (.fail ⟨0x20, 1, 0⟩) := by decide

/-- The operation ends with its entry, since its group has gone (R303). -/
theorem orphan_ends_at_fault :
    ∀ t, exec (.tableWalkStep 3) orphanState = .next t → Tab.get? t.ops 3 = none := by
  intro t h
  obtain rfl := Host.Outcome.next.inj h
  decide

/-- Refutes O44: a walk that ends in a fault need not leave its operation stopped at a fault event. Of an operation whose group has gone
(log 30) nothing is left, since it ends with its fault entry (R303), and the clause on walks does not ask for the group. -/
theorem not_memoryRepliesComplete : ¬ Obligations.MemoryRepliesComplete := by
  unfold Obligations.MemoryRepliesComplete
  intro h
  obtain ⟨-, -, -, -, -, hwalk⟩ := h orphanState 0 0 0
  obtain ⟨-, hfail, -⟩ := hwalk 3 orphanLoad orphanWalk 0 _ _ (by decide) (by decide) (by decide) rfl rfl
    (Prod.ext rfl orphan_walk_fails)
  obtain ⟨t, y, e, ht, hy, -⟩ := hfail ⟨0x20, 1, 0⟩ rfl (by decide)
  rw [orphan_ends_at_fault t ht] at hy
  cases hy

end Sys2Proof

end

section

namespace Sys2Proof.Machine

open Sys2Proof

/-! ### What moving messages on a link leaves (R347, R352) -/

/-- From `s` to `t` flits have moved on links: no receive buffer and no message of a pair that waits or is on its way has changed, and
nothing but pairs and class budgets. -/
structure Flows (s t : State) : Prop where
  rest : t = { s with pairs := t.pairs, slices := t.slices }
  inbox : ∀ a b, (t.pair a b).inbox = (s.pair a b).inbox
  msgs : ∀ a b, (msgsOf (t.pair a b)).Perm (msgsOf (s.pair a b))

theorem Flows.refl (s : State) : Flows s s := ⟨rfl, fun _ _ => rfl, fun _ _ => .refl _⟩

theorem Flows.trans {s t u : State} (h : Flows s t) (k : Flows t u) : Flows s u where
  rest := by rw [k.rest, h.rest]
  inbox a b := (k.inbox a b).trans (h.inbox a b)
  msgs a b := (k.msgs a b).trans (h.msgs a b)

theorem flows_modPair {s : State} {i j : Nat} {f : Pair → Pair} (hi : (f (s.pair i j)).inbox = (s.pair i j).inbox)
    (hm : (msgsOf (f (s.pair i j))).Perm (msgsOf (s.pair i j))) : Flows s (s.modPair i j f) where
  rest := rfl
  inbox a b := by
    rw [State.pair_modPair]
    split
    · next e => rw [hi, State.pair, State.pair, e]
    · rfl
  msgs a b := by
    rw [State.pair_modPair]
    split
    · next e => rw [show s.pair a b = s.pair i j by rw [State.pair, State.pair, e]]; exact hm
    · exact .refl _

theorem flows_budgetUse (s : State) (slice part cls n : Nat) : Flows s (budgetUse s slice part cls n) := by
  unfold budgetUse
  split
  · exact .refl s
  · exact ⟨rfl, fun _ _ => rfl, fun _ _ => .refl _⟩

theorem leastBy_mem {α : Type} {key : α → Nat × Nat} {l : List α} {x : α} (h : leastBy key l = some x) : x ∈ l := by
  have go (l : List α) (b : Option α) : ∀ x, l.foldl (fun b e => match b with
      | none => some e
      | some d => if (key e).1 < (key d).1 || ((key e).1 == (key d).1 && (key e).2 < (key d).2) then some e else some d) b = some x →
      x ∈ l ∨ b = some x := by
    induction l generalizing b with
    | nil => exact fun x h => .inr h
    | cons e r ih =>
      intro x h
      rcases ih _ x h with hr | hb
      · exact .inl (List.mem_cons_of_mem _ hr)
      · cases b with
        | none => cases hb; exact .inl List.mem_cons_self
        | some d =>
          dsimp only at hb
          split at hb
          · cases hb; exact .inl List.mem_cons_self
          · exact .inr hb
  rcases go l none x h with hm | hn
  · exact hm
  · cases hn

/-- An open message stands at its place of the buffer. -/
theorem openMsgs_place {box : List (Nat × Msg)} {e : Nat × Nat × Msg} (h : e ∈ openMsgs box) : box[e.1]? = some e.2 := by
  unfold openMsgs at h
  obtain ⟨y, hy, rfl⟩ := List.mem_map.mp h
  exact List.mem_zipIdx_iff_getElem?.mp (List.mem_filter.mp hy).1

theorem openMsgs_cons (e : Nat × Msg) (r : List (Nat × Msg)) : ∃ l, openMsgs (e :: r) = (0, e) :: l := by
  unfold openMsgs
  rw [List.zipIdx_cons, List.filter_cons_of_pos (by simp), List.map_cons]
  exact ⟨_, rfl⟩

/-- A message begun is one that waited. -/
theorem begun_msgs {s : State} {p q : Pair} (h : p.begun s = some q) : q.inbox = p.inbox ∧ (msgsOf q).Perm (msgsOf p) := by
  unfold Pair.begun at h
  split at h
  · cases h; exact ⟨rfl, .refl _⟩
  · next hp =>
    obtain ⟨e, he, rfl⟩ := Option.map_eq_some_iff.mp h
    refine ⟨rfl, List.Perm.append_left _ ?_⟩
    obtain ⟨hlt, hget⟩ := List.getElem?_eq_some_iff.mp (openMsgs_place (List.mem_filter.mp (leastBy_mem he)).1)
    have hperm := (List.getElem_cons_eraseIdx_perm hlt).map (·.2)
    rw [hget] at hperm
    simpa [Pair.unsent, hp] using hperm

theorem nextOwn_begun {s : State} {a b j : Nat} {q : Pair} (h : nextOwn s a b = some (j, q)) : (s.pair a j).begun s = some q := by
  obtain ⟨k, -, hk⟩ := List.mem_filterMap.mp (leastBy_mem h)
  dsimp only at hk
  split at hk
  · obtain ⟨q2, hq, e⟩ := Option.map_eq_some_iff.mp hk
    cases e
    exact hq
  · cases hk

theorem flows_onWire (s : State) (a b : Nat) (r : FlitRef) : Flows s (onWire s a b r) := flows_modPair rfl (.refl _)

theorem msgsOf_setFlit (p : Pair) (seq : Nat) {f : Flit → Flit} (hf : ∀ x, (f x).last = x.last ∧ (f x).msg = x.msg) :
    msgsOf (p.setFlit seq f) = msgsOf p := by
  have h : ((p.sent.map fun x => if x.seq = seq then f x else x).filter (·.last)).map (·.msg) = (p.sent.filter (·.last)).map (·.msg) := by
    induction p.sent with
    | nil => rfl
    | cons x r ih =>
      obtain ⟨hl, hm⟩ : (if x.seq = seq then f x else x).last = x.last ∧ (if x.seq = seq then f x else x).msg = x.msg := by
        split
        · exact hf x
        · exact ⟨rfl, rfl⟩
      simp only [List.map_cons, List.filter_cons, hl]
      split
      · simp only [List.map_cons, hm, ih]
      · exact ih
  unfold msgsOf
  rw [show (p.setFlit seq f).sent = p.sent.map fun x => if x.seq = seq then f x else x from rfl, h]
  rfl

theorem flows_sendOut (s : State) (a b : Nat) (r : FlitRef) : Flows s (sendOut s a b r) :=
  ((flows_modPair (f := fun l => { l with out := l.out.erase r, turn := true }) rfl (.refl _)).trans
    (flows_modPair rfl (.of_eq (msgsOf_setFlit _ _ (f := fun f => { f with hop := 1 }) fun _ => ⟨rfl, rfl⟩)))).trans (flows_onWire _ _ _ _)

/-- A pair from which a further flit of the message begun has gone. -/
def Pair.flitGone (q : Pair) (since : Nat) (m : Msg) (n : Nat) : Pair :=
  { q with
    sent := q.sent ++ [{ seq := q.seq, msg := m, last := n ≤ 1, hop := 1 }], seq := (q.seq + 1) % 2 ^ 16
    part := if n ≤ 1 then none else some (since, m, n - 1) }

theorem msgsOf_flitGone {q : Pair} {since : Nat} {m : Msg} {n : Nat} (h : q.part = some (since, m, n)) :
    (msgsOf (q.flitGone since m n)).Perm (msgsOf q) := by
  by_cases hn : n ≤ 1
  · simp [msgsOf, Pair.unsent, Pair.flitGone, h, hn]
  · simp [msgsOf, Pair.unsent, Pair.flitGone, h, hn]

theorem flows_sendNew {s : State} {a b j : Nat} {q : Pair} (h : (s.pair a j).begun s = some q) : Flows s (sendNew s a b j q) := by
  obtain ⟨hi, hm⟩ := begun_msgs h
  unfold sendNew
  split
  · exact .refl s
  · next since m n hp =>
    have h1 : Flows s (s.modPair a j fun _ => q.flitGone since m n) :=
      flows_modPair hi ((msgsOf_flitGone hp).trans hm)
    refine (h1.trans ?_).trans (flows_onWire _ _ _ _)
    refine Flows.trans ?_ (flows_modPair (f := fun l => { l with turn := false }) rfl (.refl _))
    split
    · split
      · exact flows_budgetUse _ _ _ _ _
      · exact .refl _
    · exact .refl _

theorem flows_pumpGo (n : Nat) (s : State) (a b : Nat) : Flows s (pumpGo n s a b) := by
  induction n generalizing s with
  | zero => exact .refl s
  | succ n ih =>
    unfold pumpGo
    dsimp only
    split
    · exact .refl s
    · split
      · exact .refl s
      · next h => exact (flows_sendNew (nextOwn_begun h)).trans (ih _)
      · exact (flows_sendOut _ _ _ _).trans (ih _)
      · next h =>
        split
        · exact (flows_sendNew (nextOwn_begun h)).trans (ih _)
        · exact (flows_sendOut _ _ _ _).trans (ih _)

/-! ### Sending and taking a message -/

/-- What sending leaves: the message joins those of its pair. -/
structure Sent (s t : State) (i j : Nat) (m : Msg) : Prop where
  rest : t = { s with pairs := t.pairs, slices := t.slices }
  inbox : ∀ a b, (t.pair a b).inbox = (s.pair a b).inbox
  sends : Sends s t i j m

theorem sent_send (s : State) (i j : Nat) (m : Msg) : Sent s (send s i j m) i j m := by
  have h : Flows (s.modPair i j fun p => { p with queue := p.queue ++ [(s.clock, m)] }) (send s i j m) := flows_pumpGo _ _ _ _
  refine ⟨by rw [h.rest]; rfl, fun a b => ?_, ?_⟩
  · rw [h.inbox, State.pair_modPair]
    split
    · next e => rw [State.pair, State.pair, e]
    · rfl
  · refine (h.msgs i j).trans ?_
    rw [State.pair_modPair, if_pos rfl]
    refine .trans (.of_eq ?_) (List.perm_append_singleton m (msgsOf (s.pair i j)))
    simp [msgsOf, Pair.unsent]

@[simp] theorem State.pair_takeInbox (s : State) (i j k a b : Nat) : (takeInbox s i j k).pair a b =
    if pairKey a b = pairKey i j then { s.pair i j with inbox := (s.pair i j).inbox.eraseIdx k } else s.pair a b :=
  State.pair_modPair _ _ _ _ _ _

theorem msgsOf_takeInbox (s : State) (i j k a b : Nat) : msgsOf ((takeInbox s i j k).pair a b) = msgsOf (s.pair a b) := by
  rw [State.pair_takeInbox]
  split
  · next e => rw [show s.pair a b = s.pair i j by rw [State.pair, State.pair, e]]; rfl
  · rfl

/-! ### Room in a line's sequence numbers (R232) -/

theorem Tab.mem_of_get? {α : Type} {t : Tab α} {k : Nat} {v : α} (h : Tab.get? t k = some v) : (k, v) ∈ t := by
  induction t with
  | nil => cases h
  | cons e r ih =>
    obtain ⟨j, w⟩ := e
    simp only [Tab.get?] at h
    split at h
    · next hj => cases h; subst hj; exact List.mem_cons_self
    · exact List.mem_cons_of_mem _ (ih h)

theorem Tab.mem_set {α : Type} {t : Tab α} {k : Nat} {v : α} {e : Nat × α} (h : e ∈ Tab.set t k v) : e = (k, v) ∨ e ∈ t := by
  induction t with
  | nil => exact .inl (List.mem_singleton.mp h)
  | cons c r ih =>
    obtain ⟨j, w⟩ := c
    simp only [Tab.set] at h
    split at h
    · exact (List.mem_cons.mp h).imp_right (List.mem_cons_of_mem _)
    · split at h
      · exact List.mem_cons.mp h
      · rcases List.mem_cons.mp h with rfl | h
        · exact .inr List.mem_cons_self
        · exact (ih h).imp_right (List.mem_cons_of_mem _)

/-- A message taken from a receive buffer adds no grant that is on its way. -/
theorem grantsOut_takeInbox {s : State} {i j k line q : Nat} (h : q ∈ grantsOut (takeInbox s i j k) line) : q ∈ grantsOut s line := by
  unfold grantsOut at h ⊢
  obtain ⟨e, he, hq⟩ := List.mem_flatMap.mp h
  rcases Tab.mem_set he with rfl | he
  · cases hp : Tab.get? s.pairs (pairKey i j) with
    | none =>
      rw [show s.pair i j = Pair.empty by simp [State.pair, Tab.getD, hp]] at hq
      simp [Pair.empty, Pair.unsent] at hq
    | some p =>
      rw [show s.pair i j = p by simp [State.pair, Tab.getD, hp]] at hq
      refine List.mem_flatMap.mpr ⟨_, Tab.mem_of_get? hp, ?_⟩
      rcases List.mem_append.mp hq with hq | hq
      · exact List.mem_append_left _ hq
      · obtain ⟨m, hm, hq⟩ := List.mem_flatMap.mp hq
        exact List.mem_append_right _ (List.mem_flatMap.mpr ⟨m, List.mem_of_mem_eraseIdx hm, hq⟩)
  · exact List.mem_flatMap.mpr ⟨e, he, hq⟩

theorem seqRoom_takeInbox {s : State} {line n : Nat} (i j k : Nat) (h : seqRoom s line n = true) :
    seqRoom (takeInbox s i j k) line n = true := by
  unfold seqRoom at h ⊢
  rw [List.all_eq_true] at h ⊢
  intro q hq
  refine h q ?_
  rcases List.mem_append.mp hq with hq | hq
  · exact List.mem_append_left _ hq
  · exact List.mem_append_right _ (grantsOut_takeInbox hq)

end Sys2Proof.Machine

end

section

namespace Sys2Proof.Machine

open Sys2Proof

/-! ### A line at its home -/

@[simp] theorem State.hline_modSlice (s : State) (k l : Nat) (f : Slice → Slice) : (s.modSlice k f).hline l = s.hline l := rfl

theorem State.hline_congr {s t : State} (h : t.hlines = s.hlines) (l : Nat) : t.hline l = s.hline l := by
  unfold State.hline; rw [h]

theorem State.pair_congr {s t : State} (h : t.pairs = s.pairs) (i j : Nat) : t.pair i j = s.pair i j := by
  unfold State.pair; rw [h]

theorem leaveLine_rest (s : State) (line : Nat) : leaveLine s line = { s with slices := (leaveLine s line).slices } := by
  unfold leaveLine
  split <;> rfl

@[simp] theorem hlines_leaveLine (s : State) (line : Nat) : (leaveLine s line).hlines = s.hlines := by rw [leaveLine_rest]
@[simp] theorem mem_leaveLine (s : State) (line : Nat) : (leaveLine s line).mem = s.mem := by rw [leaveLine_rest]
@[simp] theorem pairs_leaveLine (s : State) (line : Nat) : (leaveLine s line).pairs = s.pairs := by rw [leaveLine_rest]
@[simp] theorem hwaits_leaveLine (s : State) (line : Nat) : (leaveLine s line).hwaits = s.hwaits := by rw [leaveLine_rest]

/-- An eviction touches records of homes and slices only. -/
theorem evictLine_rest (s : State) (slice v : Nat) :
    evictLine s slice v = { s with hlines := (evictLine s slice v).hlines, slices := (evictLine s slice v).slices } := rfl

/-- The line's record but for where it is cached and its timestamps. -/
def HomeLine.uncached (h : HomeLine) : HomeLine := { h with cached := none, wts := 0, rts := 0, dirty := false }

theorem uncached_evictLine (s : State) (slice v line : Nat) :
    ((evictLine s slice v).hline line).uncached = (s.hline line).uncached := by
  unfold evictLine
  by_cases h : line = v
  · subst h; rw [State.hline_modHline_self]; rfl
  · rw [State.hline_modHline_ne _ _ h]; rfl

/-- Allocation touches records of homes, slices and the count of free values only. -/
theorem allocLine_rest (s : State) (part line mask : Nat) : allocLine s part line mask =
    { s with hlines := (allocLine s part line mask).hlines, slices := (allocLine s part line mask).slices
             freeCtr := (allocLine s part line mask).freeCtr } := by
  unfold allocLine
  dsimp only
  split
  · rfl
  · split
    · rfl
    · split <;> rfl

/-- Of the line itself an allocation changes where it is cached and its timestamps (R239, R285). -/
theorem uncached_allocLine (s : State) (part line mask : Nat) :
    ((allocLine s part line mask).hline line).uncached = (s.hline line).uncached := by
  unfold allocLine
  dsimp only
  split
  · rw [State.hline_modHline_self]; rfl
  · split
    · rw [State.hline_modHline_self]; rfl
    · split
      · rw [State.hline_modHline_self]; exact uncached_evictLine _ _ _ _
      · rw [State.hline_modHline_self]; rfl

/-- What a request's way to the slice leaves alone. -/
structure AtHome (s t : State) (line : Nat) : Prop where
  rest : t = { s with hlines := t.hlines, slices := t.slices, freeCtr := t.freeCtr }
  line : (t.hline line).uncached = (s.hline line).uncached

theorem AtHome.refl (s : State) (line : Nat) : AtHome s s line := ⟨rfl, rfl⟩

theorem atHome_allocLine (s : State) (part line mask : Nat) : AtHome s (allocLine s part line mask) line :=
  ⟨allocLine_rest _ _ _ _, uncached_allocLine _ _ _ _⟩

theorem atHome_touchLine (s : State) (part line : Nat) : AtHome s (touchLine s part line) line := by
  unfold touchLine
  split
  · exact .refl _ _
  · exact atHome_allocLine _ _ _ _

section
variable {s t : State} {line : Nat} (h : AtHome s t line)
include h

theorem AtHome.seq : (t.hline line).seq = (s.hline line).seq := (congrArg HomeLine.seq h.line :)
theorem AtHome.holders : (t.hline line).holders = (s.hline line).holders := (congrArg HomeLine.holders h.line :)
theorem AtHome.poison : (t.hline line).poison = (s.hline line).poison := (congrArg HomeLine.poison h.line :)
theorem AtHome.flip : (t.hline line).flip = (s.hline line).flip := (congrArg HomeLine.flip h.line :)
theorem AtHome.dram : (t.hline line).dram = (s.hline line).dram := (congrArg HomeLine.dram h.line :)
theorem AtHome.held : (t.hline line).held = (s.hline line).held := (congrArg HomeLine.held h.line :)

theorem AtHome.mem : t.mem = s.mem := by rw [h.rest]
theorem AtHome.pairs : t.pairs = s.pairs := by rw [h.rest]
theorem AtHome.hwaits : t.hwaits = s.hwaits := by rw [h.rest]
theorem AtHome.bias : t.bias = s.bias := by rw [h.rest]

theorem AtHome.lineHostBias : lineHostBias t line = lineHostBias s line := by
  unfold Machine.lineHostBias
  rw [h.flip, h.bias]

end

/-! ### Grants (R21) -/

theorem missOver_line (s : State) (chip line : Nat) :
    missOver s chip line = { s with hlines := (missOver s chip line).hlines } ∧
      (missOver s chip line).hline line = { s.hline line with ways := ((missOver s chip line).hline line).ways } := by
  unfold missOver
  split
  · exact ⟨rfl, rfl⟩
  · exact ⟨rfl, by rw [State.hline_modHline_self]⟩

section
variable {s t : State} {i j : Nat} {m : Msg} (h : Sent s t i j m)
include h

theorem Sent.mem : t.mem = s.mem := by rw [h.rest]
theorem Sent.hlines : t.hlines = s.hlines := by rw [h.rest]
theorem Sent.hwaits : t.hwaits = s.hwaits := by rw [h.rest]

end

/-- What a grant leaves: it is sent, and of the line's record only its holders change. -/
structure Granted (s t : State) (chip line : Nat) (uo : Bool) : Prop where
  mem : t.mem = s.mem
  inbox : ∀ a b, (t.pair a b).inbox = (s.pair a b).inbox
  dram : (t.hline line).dram = (s.hline line).dram
  held : (t.hline line).held = (s.hline line).held
  sends : Sends s t (portMC (homeMc (line * 128))) (portCC chip)
    (.grant line (lineBytes s line) (s.hline line).seq (s.hline line).wts (s.hline line).rts none uo
      (!lineHostBias s line && (s.hline line).flip ≠ 1) (s.hline line).poison.isSome)

/-- A line's record once a chiplet has been granted the line. -/
def heldBy (h : HomeLine) (chip : Nat) (listed : Bool) : HomeLine := if listed then { h with holders := h.holders ||| 2 ^ chip } else h

theorem heldBy_rest (h : HomeLine) (chip : Nat) (listed : Bool) : heldBy h chip listed = { h with holders := (heldBy h chip listed).holders } := by
  unfold heldBy
  split <;> rfl

theorem granted_grantLine (s : State) (chip line : Nat) (uo : Bool) : Granted s (grantLine s chip line none uo) chip line uo := by
  let keep : Bool := !lineHostBias s line && (s.hline line).flip ≠ 1
  let h := heldBy (s.hline line) chip (keep && !uo)
  have hh : h = { s.hline line with holders := h.holders } := heldBy_rest _ _ _
  let u : State := leaveLine (s.modHline line fun _ => h) line
  have hg : Sent u (grantLine s chip line none uo) (portMC (homeMc (line * 128))) (portCC chip)
      (.grant line (lineBytes s line) h.seq h.wts h.rts none uo keep h.poison.isSome) := sent_send u _ _ _
  have hp : u.pairs = s.pairs := pairs_leaveLine _ _
  have hl : (grantLine s chip line none uo).hline line = h := by
    rw [State.hline_congr (hg.hlines.trans (hlines_leaveLine _ _)), State.hline_modHline_self]
  refine ⟨hg.mem.trans (mem_leaveLine _ _), fun a b => ?_, by rw [hl, hh], by rw [hl, hh], ?_⟩
  · rw [hg.inbox, State.pair_congr hp]
  · have hs := hg.sends
    rw [hh] at hs
    unfold Sends at hs ⊢
    rwa [State.pair_congr hp] at hs

end Sys2Proof.Machine

end

section

namespace Sys2Proof.Machine

open Sys2Proof

/-! ### Merging a partial line (R231) -/

/-- Bytes written one by one at places of a line, each place once. -/
theorem read_foldl_write (base : Nat) (bs : Tab Byte) (hn : (bs.map (·.1)).Nodup) (m : Memory) (a : Nat) :
    Memory.read (bs.foldl (fun m (b : Nat × Byte) => Memory.write m (base + b.1) b.2) m) a =
      if base ≤ a then (Tab.get? bs (a - base)).getD (Memory.read m a) else Memory.read m a := by
  induction bs generalizing m with
  | nil => simp
  | cons b r ih =>
    obtain ⟨k, v⟩ := b
    obtain ⟨hk, hr⟩ := List.nodup_cons.mp hn
    rw [List.foldl_cons, ih hr]
    simp only [Tab.get?]
    by_cases ha : a = base + k
    · subst ha
      have hnone : Tab.get? r k = none := by
        cases hg : Tab.get? r k with
        | none => rfl
        | some w => exact absurd (Tab.mem_keys_of_get? hg) hk
      simp [hnone]
    · rw [Memory.read_write_ne _ _ ha]
      split
      · rw [if_neg (by omega)]
      · rfl

/-- Freeing the entries of objects that a write reaches touches chiplets only (R264). -/
theorem freeDeclared_rest (s : State) (team : Option Nat) (pa n : Nat) :
    freeDeclared s team pa n = { s with chips := (freeDeclared s team pa n).chips } := by
  unfold freeDeclared
  split <;> rfl

theorem freeWritten_rest (s : State) (line : Nat) (bytes : Tab Byte) :
    freeWritten s line bytes = { s with chips := (freeWritten s line bytes).chips } := by
  have go (bs : Tab Byte) (t : State) : ∃ cs, bs.foldl (fun t (b : Nat × Byte) => freeDeclared t none (line * 128 + b.1) 1) t =
      { t with chips := cs } := by
    induction bs generalizing t with
    | nil => exact ⟨_, rfl⟩
    | cons b r ih =>
      obtain ⟨cs, h⟩ := ih (freeDeclared t none (line * 128 + b.1) 1)
      exact ⟨cs, by rw [List.foldl_cons, h, freeDeclared_rest]⟩
  unfold freeWritten
  split
  · rfl
  · obtain ⟨cs, h⟩ := go bytes s
    rw [h]

@[simp] theorem hlines_freeWritten (s : State) (line : Nat) (bytes : Tab Byte) : (freeWritten s line bytes).hlines = s.hlines := by
  rw [freeWritten_rest]
@[simp] theorem mem_freeWritten (s : State) (line : Nat) (bytes : Tab Byte) : (freeWritten s line bytes).mem = s.mem := by
  rw [freeWritten_rest]
@[simp] theorem pairs_freeWritten (s : State) (line : Nat) (bytes : Tab Byte) : (freeWritten s line bytes).pairs = s.pairs := by
  rw [freeWritten_rest]
@[simp] theorem hwaits_freeWritten (s : State) (line : Nat) (bytes : Tab Byte) : (freeWritten s line bytes).hwaits = s.hwaits := by
  rw [freeWritten_rest]

theorem written_rest (h : HomeLine) (mask : Nat) :
    h.written mask = { h with dirty := true, poison := (h.written mask).poison } := by
  unfold HomeLine.written
  split
  · next hp => rw [hp]
  · rfl

/-- A partial line merged outside an SO page: its bytes stand in memory and its sequence number has advanced. -/
structure Merged (s t : State) (line : Nat) (bytes : Tab Byte) : Prop where
  mem : t.mem = bytes.foldl (fun m (b : Nat × Byte) => Memory.write m (line * 128 + b.1) b.2) s.mem
  pairs : t.pairs = s.pairs
  hwaits : t.hwaits = s.hwaits
  seq : (t.hline line).seq = ((s.hline line).seq + 1) % 2 ^ 16
  holders : (t.hline line).holders = (s.hline line).holders

theorem merged_mergeLine (s : State) (part line : Nat) (bytes : Tab Byte) :
    Merged s (mergeLine s part line bytes none).1 line bytes ∧ (mergeLine s part line bytes none).2 = 0 := by
  have hu := atHome_touchLine s part line
  generalize hs1 : touchLine s part line = u at hu
  let s2 : State := { u with mem := bytes.foldl (fun m (b : Nat × Byte) => Memory.write m (line * 128 + b.1) b.2) u.mem }
  let h := (u.hline line).written (maskOfBytes bytes)
  have hm : mergeLine s part line bytes none =
      (leaveLine (freeWritten (s2.modHline line fun _ => { h with seq := (h.seq + 1) % 2 ^ 16 }) line bytes) line, 0) := by
    unfold mergeLine
    rw [hs1]
    rfl
  have hh : h = { u.hline line with dirty := true, poison := h.poison } := written_rest _ _
  rw [hm]
  have hl : (leaveLine (freeWritten (s2.modHline line fun _ => { h with seq := (h.seq + 1) % 2 ^ 16 }) line bytes) line).hline line =
      { h with seq := (h.seq + 1) % 2 ^ 16 } := by
    rw [State.hline_congr ((hlines_leaveLine _ _).trans (hlines_freeWritten _ _ _)), State.hline_modHline_self]
  refine ⟨⟨?_, ?_, ?_, ?_, ?_⟩, rfl⟩
  · rw [mem_leaveLine, mem_freeWritten]
    show List.foldl _ u.mem bytes = _
    rw [hu.mem]
  · rw [pairs_leaveLine, pairs_freeWritten]; exact hu.pairs
  · rw [hwaits_leaveLine, hwaits_freeWritten]; exact hu.hwaits
  · rw [hl, hh]
    show ((u.hline line).seq + 1) % 2 ^ 16 = _
    rw [hu.seq]
  · rw [hl, hh]; exact hu.holders

theorem Merged.lineWritten {s t u : State} {line : Nat} {bytes : Tab Byte} (h : Merged s t line bytes) (hn : (bytes.map (·.1)).Nodup)
    (hu : u.mem = t.mem) : LineWritten s u line bytes := by
  intro a
  rw [hu, h.mem, read_foldl_write _ _ hn]

/-! ### Probes after a merge (R231) -/

theorem sends_only {s : State} (msgs : List (Nat × Nat × Msg)) :
    let t := msgs.foldl (fun t e => send t e.1 e.2.1 e.2.2) s
    t = { s with pairs := t.pairs, slices := t.slices } ∧ ∀ a b, (t.pair a b).inbox = (s.pair a b).inbox := by
  induction msgs generalizing s with
  | nil => exact ⟨rfl, fun _ _ => rfl⟩
  | cons e r ih =>
    obtain ⟨h1, h2⟩ := ih (s := send s e.1 e.2.1 e.2.2)
    have hs := sent_send s e.1 e.2.1 e.2.2
    exact ⟨by rw [List.foldl_cons, h1, hs.rest], fun a b => by rw [List.foldl_cons, h2, hs.inbox]⟩

/-- After the probes of a line its directory lists no holder. -/
structure Probed (s t : State) (line : Nat) : Prop where
  rest : t = { s with hlines := t.hlines, pairs := t.pairs, slices := t.slices }
  inbox : ∀ a b, (t.pair a b).inbox = (s.pair a b).inbox
  line : t.hline line = { s.hline line with holders := 0 }

theorem probed_probeHolders (s : State) (line : Nat) : Probed s (probeHolders s line) line := by
  let s1 := s.modHline line fun h => { h with holders := 0 }
  let msgs := (holderList (s.hline line).holders).map fun c =>
    (portMC (homeMc (line * 128)), portCC c, Msg.probe line (s.hline line).seq)
  have h : probeHolders s line = msgs.foldl (fun t e => send t e.1 e.2.1 e.2.2) s1 := by
    simp only [probeHolders, msgs, List.foldl_map]
    rfl
  obtain ⟨h1, h2⟩ := sends_only (s := s1) msgs
  rw [← h] at h1 h2
  refine ⟨by rw [h1]; rfl, h2, ?_⟩
  rw [State.hline_congr (t := probeHolders s line) (s := s1) (by rw [h1])]
  exact State.hline_modHline_self _ _ _

theorem probeHolders_none {s : State} {line : Nat} (h : (s.hline line).holders = 0) :
    (probeHolders s line).pairs = s.pairs := by
  have h0 : holderList 0 = [] := by decide
  simp [probeHolders, h, h0]

/-- What a merge of a line leaves once its holders are probed: the reply leaves at once, or waits for the answers. -/
structure Applied (s t : State) (line chip : Nat) (m : Msg) : Prop where
  mem : t.mem = s.mem
  inbox : ∀ a b, (t.pair a b).inbox = (s.pair a b).inbox
  seq : (t.hline line).seq = (s.hline line).seq
  sends : (s.hline line).holders = 0 → probesOut s line = 0 → Sends s t (portMC (homeMc (line * 128))) (portCC chip) m
  waits : (holderList (s.hline line).holders).length + probesOut s line ≠ 0 → (t.hline line).holders = 0 ∧
    t.hwaits = s.hwaits ++ [{ line := line, seq := (s.hline line).seq
                              left := (holderList (s.hline line).holders).length + probesOut s line
                              reply := some (chip, m), job := none }]

theorem applied_probeAndReply (s : State) (line chip : Nat) (m : Msg) :
    Applied s (probeAndReply s line (some (chip, m)) none) line chip m := by
  have hp := probed_probeHolders s line
  have h0 : holderList 0 = [] := by decide
  unfold probeAndReply
  dsimp only
  split
  · next hn =>
    have hs := sent_send (probeHolders s line) (portMC (homeMc (line * 128))) (portCC chip) m
    refine ⟨by rw [hs.mem, hp.rest], fun a b => (hs.inbox a b).trans (hp.inbox a b),
      by rw [State.hline_congr hs.hlines, hp.line], fun hh _ => ?_, fun h => absurd hn h⟩
    have := hs.sends
    unfold Sends at this ⊢
    rwa [State.pair_congr (probeHolders_none hh)] at this
  · next hn =>
    refine ⟨by rw [hp.rest], hp.inbox, ?_, fun hh hq => absurd ?_ hn, fun _ => ⟨?_, ?_⟩⟩
    · exact (congrArg HomeLine.seq hp.line :)
    · rw [hh, h0, hq]; rfl
    · exact (congrArg HomeLine.holders hp.line :)
    · show (probeHolders s line).hwaits ++ _ = _
      rw [show (probeHolders s line).hwaits = s.hwaits by rw [hp.rest]]

end Sys2Proof.Machine

end

section

namespace Sys2Proof.Machine

open Sys2Proof

/-! ### A request taken from its buffer (R288) -/

/-- The head of a receive buffer has been taken, within its class budget. -/
structure Took (s u : State) (i j : Nat) (r : List (Nat × Msg)) : Prop where
  rest : u = { s with pairs := u.pairs, slices := u.slices }
  inbox : (u.pair i j).inbox = r
  msgs : ∀ a b, msgsOf (u.pair a b) = msgsOf (s.pair a b)
  room : ∀ line n, seqRoom s line n = true → seqRoom u line n = true

theorem took_takeInbox {s : State} {i j : Nat} {e : Nat × Msg} {r : List (Nat × Msg)} (h : (s.pair i j).inbox = e :: r) :
    Took s (takeInbox s i j 0) i j r where
  rest := rfl
  inbox := by rw [State.pair_takeInbox, if_pos rfl, h]; rfl
  msgs a b := msgsOf_takeInbox s i j 0 a b
  room _ _ := seqRoom_takeInbox i j 0

theorem took_counted {s : State} {i j : Nat} {e : Nat × Msg} {r : List (Nat × Msg)} (slice part cls n : Nat)
    (h : (s.pair i j).inbox = e :: r) : Took s (takeInbox (budgetUse s slice part cls n) i j 0) i j r := by
  obtain ⟨xs, hb⟩ : ∃ xs, budgetUse s slice part cls n = { s with slices := xs } := by
    unfold budgetUse
    split
    · exact ⟨_, rfl⟩
    · exact ⟨_, rfl⟩
  rw [hb]
  have ht := took_takeInbox (s := { s with slices := xs }) h
  exact ⟨by rw [ht.rest], ht.inbox, ht.msgs, ht.room⟩

section
variable {s u : State} {i j : Nat} {r : List (Nat × Msg)} (h : Took s u i j r)
include h

theorem Took.mem : u.mem = s.mem := by rw [h.rest]
theorem Took.hline (l : Nat) : u.hline l = s.hline l := State.hline_congr (by rw [h.rest]) l
theorem Took.bias : u.bias = s.bias := by rw [h.rest]
theorem Took.hwaits : u.hwaits = s.hwaits := by rw [h.rest]
theorem Took.ops : u.ops = s.ops := by rw [h.rest]
theorem Took.postings : u.postings = s.postings := by rw [h.rest]
theorem Took.lineBytes (l : Nat) : lineBytes u l = lineBytes s l := by unfold Machine.lineBytes; rw [h.mem]
theorem Took.probesOut (l : Nat) : probesOut u l = probesOut s l := by unfold Machine.probesOut; rw [h.hwaits]
theorem Took.lineHostBias (l : Nat) : lineHostBias u l = lineHostBias s l := by unfold Machine.lineHostBias; rw [h.hline, h.bias]

theorem Took.homeGate (l halves pass : Nat) : homeGate u l halves pass = homeGate s l halves pass := by
  unfold Machine.homeGate; rw [h.hline, h.lineHostBias]

theorem Took.sends {t : State} {a b : Nat} {m : Msg} (hs : Sends u t a b m) : Sends s t a b m := by
  unfold Sends at hs ⊢; rwa [h.msgs] at hs

theorem Took.taken {t : State} {since : Nat} {m : Msg} (h0 : (s.pair i j).inbox = (since, m) :: r)
    (ht : (t.pair i j).inbox = (u.pair i j).inbox) : Taken s t i j m := ⟨since, by rw [h0, ht, h.inbox]⟩

end

/-- The first request of a pair, of the kind asked for, is served when its budget and its turn allow it (R288). -/
theorem homeStep_head {s : State} {chip mc since part cls n : Nat} {m : Msg} {r : List (Nat × Msg)} {want : Msg → Option Nat}
    (h : (s.pair (portCC chip) (portMC mc)).inbox = (since, m) :: r) (hw : want m = some n) (hr : reqOf m = some (part, cls))
    (hm : mayServe s chip mc since m = true) :
    homeStep s chip mc want =
      homeArrive (takeInbox (budgetUse s (msgSlice m) part cls n) (portCC chip) (portMC mc) 0) chip m := by
  obtain ⟨l, hl⟩ := openMsgs_cons (since, m) r
  unfold homeStep
  dsimp only
  rw [h, hl, List.filter_cons_of_pos (by simp [hw]), List.find?_cons_of_pos (by exact hm)]
  simp only [hr, hw]

theorem mayServe_of {s : State} {chip mc since part cls : Nat} {m : Msg} (hr : reqOf m = some (part, cls))
    (hb : budgetOk s (msgSlice m) part cls = true) (ho : outranked s mc since m = false) (ha : atomWaits s chip m = false) :
    mayServe s chip mc since m = true := by
  simp [mayServe, fitsBudget, hr, hb, ho, ha]

/-! ### Serving at the home -/

theorem homeServe_done {s t : State} {chip : Nat} {m : Msg} {dram : Bool} (h : (s.hline (msgLine m)).held = [])
    (ht : homeTry s chip m dram = (t, true)) : homeServe s chip m dram = t := by
  simp [homeServe, h, ht]

theorem homeServe_held {s t : State} {chip : Nat} {m : Msg} {dram : Bool} (h : (s.hline (msgLine m)).held = [])
    (ht : homeTry s chip m dram = (t, false)) : homeServe s chip m dram = holdAt t (msgLine m) chip m := by
  simp [homeServe, h, ht]

section
variable {s : State} {chip line halves part cls : Nat} {so : Option (Nat × Nat)} {uo : Bool}
  (hg : homeGate s line halves (s.hline line).passed = .go)
include hg

theorem homeTry_hit (dram : Bool) (hc : (s.hline line).cached.isSome = true) :
    homeTry s chip (.loadReq line halves so uo part cls) dram = (grantLine (missOver s chip line) chip line so uo, true) := by
  simp [homeTry, hg, hc]

theorem homeTry_miss (hc : (s.hline line).cached = none) :
    homeTry s chip (.loadReq line halves so uo part cls) false =
      (s.modHline line fun h => { h with
        dram := true, dramAt := if h.dram then h.dramAt else s.clock, ways := Tab.set h.ways chip (missMask s chip part line) }, false) := by
  simp [homeTry, hg, hc]

theorem homeTry_filled (hc : (s.hline line).cached = none) :
    homeTry s chip (.loadReq line halves so uo part cls) true =
      (grantLine (missOver (allocLine s part line (missMask s chip part line)) chip line) chip line so uo, true) := by
  simp [homeTry, hg, hc]

end

/-- A grant after the lookup is over. -/
theorem granted_missOver (s : State) (chip line : Nat) (uo : Bool) :
    Granted s (grantLine (missOver s chip line) chip line none uo) chip line uo := by
  obtain ⟨hr, hl⟩ := missOver_line s chip line
  have h := granted_grantLine (missOver s chip line) chip line uo
  have hm : (missOver s chip line).mem = s.mem := by rw [hr]
  have hp : (missOver s chip line).pairs = s.pairs := by rw [hr]
  have hb : lineHostBias (missOver s chip line) line = lineHostBias s line := by
    unfold lineHostBias
    rw [hl, show (missOver s chip line).bias = s.bias by rw [hr]]
  refine ⟨by rw [h.mem, hm], fun a b => by rw [h.inbox, State.pair_congr hp], by rw [h.dram, hl], by rw [h.held, hl], ?_⟩
  have hs := h.sends
  unfold Sends lineBytes at hs ⊢
  rwa [hb, hm, State.pair_congr hp, hl] at hs

/-- A load that arrives and is granted at once: what the end of its pass changes is no message. -/
theorem homeArrive_load_done {s t : State} {chip line halves part cls : Nat} {so : Option (Nat × Nat)} {uo : Bool}
    (h : homeServe s chip (.loadReq line halves so uo part cls) false = t) :
    ∃ v, homeArrive s chip (.loadReq line halves so uo part cls) = v ∧ v.mem = t.mem ∧ v.pairs = t.pairs := by
  refine ⟨_, rfl, ?_⟩
  unfold homeArrive loadServed
  dsimp only
  rw [h]
  split
  · split <;> exact ⟨rfl, rfl⟩
  · exact ⟨rfl, rfl⟩

theorem homeArrive_load_held {s t : State} {chip line halves part cls : Nat} {so : Option (Nat × Nat)} {uo : Bool}
    (h : homeServe s chip (.loadReq line halves so uo part cls) false = t) (hl : (t.hline line).held.length ≠ (s.hline line).held.length) :
    homeArrive s chip (.loadReq line halves so uo part cls) = t := by
  unfold homeArrive
  dsimp only
  rw [h, if_neg hl]

/-! ### Loads (R21) -/

section
variable {s : State} {chip mc line since halves part cls : Nat} {uo : Bool} {r : List (Nat × Msg)}
  (hi : (s.pair (portCC chip) (portMC mc)).inbox = (since, .loadReq line halves none uo part cls) :: r)
  (hb : budgetOk s (globalSlice (line * 128)) part cls = true)
  (ho : outranked s mc since (.loadReq line halves none uo part cls) = false) (hh : (s.hline line).held = [])
  (hg : homeGate s line halves (s.hline line).passed = .go)
include hi hb ho

theorem exec_homeLoadRequest : exec (.homeLoadRequest chip mc) s =
    .next (homeArrive (takeInbox (budgetUse s (globalSlice (line * 128)) part cls 128) (portCC chip) (portMC mc) 0) chip
      (.loadReq line halves none uo part cls)) := by
  show execHomeLoadRequest chip mc s = _
  unfold execHomeLoadRequest
  have hm : mayServe s chip mc since (.loadReq line halves none uo part cls) = true := mayServe_of rfl hb ho (by simp [atomWaits])
  rw [homeStep_head (n := 128) hi rfl rfl hm]
  rfl

include hh hg

theorem load_granted (hc : (s.hline line).cached.isSome = true) :
    ∃ t, exec (.homeLoadRequest chip mc) s = .next t ∧
      Taken s t (portCC chip) (portMC mc) (.loadReq line halves none uo part cls) ∧
      Sends s t (portMC (homeMc (line * 128))) (portCC chip) (.grant line (lineBytes s line) (s.hline line).seq (s.hline line).wts
        (s.hline line).rts none uo (!lineHostBias s line && (s.hline line).flip ≠ 1) (s.hline line).poison.isSome) ∧ t.mem = s.mem := by
  have hu := took_counted (globalSlice (line * 128)) part cls 128 hi
  rw [exec_homeLoadRequest hi hb ho]
  generalize takeInbox (budgetUse s (globalSlice (line * 128)) part cls 128) (portCC chip) (portMC mc) 0 = u at hu
  have hserve : homeServe u chip (.loadReq line halves none uo part cls) false = grantLine (missOver u chip line) chip line none uo :=
    homeServe_done (by rw [hu.hline]; exact hh) (homeTry_hit (by rw [hu.homeGate, hu.hline, hg]) _ (by rw [hu.hline, hc]))
  obtain ⟨t, ht, hm, hp⟩ := homeArrive_load_done hserve
  have hgr := granted_missOver u chip line uo
  refine ⟨t, congrArg _ ht, hu.taken hi (by rw [State.pair_congr hp, hgr.inbox]), ?_, by rw [hm, hgr.mem, hu.mem]⟩
  have hs := hu.sends hgr.sends
  rw [hu.hline, hu.lineBytes, hu.lineHostBias] at hs
  unfold Sends at hs ⊢
  rwa [State.pair_congr hp]

theorem load_waits_for_dram (hc : (s.hline line).cached = none) :
    ∃ t, exec (.homeLoadRequest chip mc) s = .next t ∧
      Taken s t (portCC chip) (portMC mc) (.loadReq line halves none uo part cls) ∧
      (t.hline line).dram = true ∧ (t.hline line).held = [(chip, .loadReq line halves none uo part cls)] ∧ t.mem = s.mem := by
  have hu := took_counted (globalSlice (line * 128)) part cls 128 hi
  rw [exec_homeLoadRequest hi hb ho]
  generalize takeInbox (budgetUse s (globalSlice (line * 128)) part cls 128) (portCC chip) (portMC mc) 0 = u at hu
  have hheld : (u.hline line).held = [] := by rw [hu.hline]; exact hh
  have hserve := homeServe_held (m := .loadReq line halves none uo part cls) hheld
    (homeTry_miss (chip := chip) (so := none) (uo := uo) (part := part) (cls := cls) (by rw [hu.homeGate, hu.hline, hg])
      (by rw [hu.hline, hc]))
  generalize hv : holdAt _ _ _ _ = v at hserve
  have hline : v.hline line = { u.hline line with
      dram := true, dramAt := (v.hline line).dramAt, ways := (v.hline line).ways
      held := [(chip, .loadReq line halves none uo part cls)] } := by
    subst hv
    simp only [holdAt, msgLine, State.hline_modHline_self, hheld, List.nil_append]
  refine ⟨v, congrArg _ (homeArrive_load_held hserve (by rw [hline, hheld]; simp)), hu.taken hi ?_, by rw [hline], by rw [hline], ?_⟩
  · subst hv; rfl
  · subst hv; exact hu.mem

end

end Sys2Proof.Machine

end

section

namespace Sys2Proof.Machine

open Sys2Proof

/-! ### A load that DRAM completes (R21, R288) -/

theorem serveHeld_none {s : State} {line : Nat} (dram : Bool) (h : (s.hline line).held = []) : serveHeld s line dram = s := by
  simp [serveHeld, h]

theorem serveHeld_one {s : State} {line chip : Nat} {m : Msg} (dram : Bool) (h : (s.hline line).held = [(chip, m)]) :
    serveHeld s line dram = homeServe (s.modHline line fun h => { h with held := [] }) chip m dram := by
  simp [serveHeld, h]

/-- A load whose line is cached, or has come from DRAM, is granted. -/
theorem load_served_filled {s : State} {chip line halves part cls : Nat} {uo : Bool} (hh : (s.hline line).held = [])
    (hg : homeGate s line halves (s.hline line).passed = .go) :
    ∃ t wts rts, homeServe s chip (.loadReq line halves none uo part cls) true = t ∧ t.mem = s.mem ∧
      (t.hline line).dram = (s.hline line).dram ∧ (t.hline line).held = (s.hline line).held ∧
      Sends s t (portMC (homeMc (line * 128))) (portCC chip) (.grant line (lineBytes s line) (s.hline line).seq wts rts none uo
        (!lineHostBias s line && (s.hline line).flip ≠ 1) (s.hline line).poison.isSome) := by
  cases hc : (s.hline line).cached with
  | some c =>
    have ht := homeTry_hit (s := s) (chip := chip) (part := part) (cls := cls) (so := none) (uo := uo) hg true (by rw [hc]; rfl)
    have hgr := granted_missOver s chip line uo
    exact ⟨_, _, _, homeServe_done hh ht, hgr.mem, hgr.dram, hgr.held, hgr.sends⟩
  | none =>
    have ht := homeTry_filled (s := s) (chip := chip) (part := part) (cls := cls) (so := none) (uo := uo) hg hc
    have ha := atHome_allocLine s part line (missMask s chip part line)
    generalize allocLine s part line (missMask s chip part line) = u at ht ha
    have hgr := granted_missOver u chip line uo
    refine ⟨_, (u.hline line).wts, (u.hline line).rts, homeServe_done hh ht, hgr.mem.trans ha.mem, hgr.dram.trans ha.dram,
      hgr.held.trans ha.held, ?_⟩
    have hs := hgr.sends
    unfold Sends lineBytes at hs ⊢
    rwa [ha.lineHostBias, ha.mem, ha.seq, ha.flip, ha.poison, State.pair_congr ha.pairs] at hs

section
variable {s : State} {chip mc line halves part cls : Nat} {uo bad : Bool} (hd : (s.hline line).dram = true)
  (hm : homeMc (line * 128) = mc) (hh : (s.hline line).held = [(chip, .loadReq line halves none uo part cls)])
  (hb : budgetOk s (memPort mc) part cls = true)
include hd hm hh hb

theorem dram_read_waits (ho : dramOutranked s mc line (.loadReq line halves none uo part cls) = true) :
    ∃ t, exec (.dramReadComplete mc line bad) s = .next t ∧ t = s := by
  refine ⟨s, ?_, rfl⟩
  show execDramReadComplete mc line bad s = _
  simp [execDramReadComplete, dramFor, hd, hm, hh, hb, ho]

theorem exec_dramReadComplete (ho : dramOutranked s mc line (.loadReq line halves none uo part cls) = false) :
    exec (.dramReadComplete mc line bad) s =
      .next (serveHeld ((budgetUse s (memPort mc) part cls 128).modHline line fun h => { h with
        dram := false, poison := if bad && h.poison.isNone then some 0 else h.poison }) line true) := by
  show execDramReadComplete mc line bad s = _
  simp [execDramReadComplete, dramFor, hd, hm, hh, hb, ho]

theorem dram_read_granted (hg : homeGate s line halves (s.hline line).passed = .go)
    (ho : dramOutranked s mc line (.loadReq line halves none uo part cls) = false) :
    ∃ t wts rts, exec (.dramReadComplete mc line bad) s = .next t ∧ (t.hline line).dram = false ∧ (t.hline line).held = [] ∧
      Sends s t (portMC (homeMc (line * 128))) (portCC chip) (.grant line (lineBytes s line) (s.hline line).seq wts rts none uo
        (!lineHostBias s line && (s.hline line).flip ≠ 1) ((s.hline line).poison.isSome || bad)) ∧ t.mem = s.mem := by
  obtain ⟨xs, hx⟩ : ∃ xs, budgetUse s (memPort mc) part cls 128 = { s with slices := xs } := by
    unfold budgetUse
    split <;> exact ⟨_, rfl⟩
  let p : Option Nat := if bad && (s.hline line).poison.isNone then some 0 else (s.hline line).poison
  let u := (budgetUse s (memPort mc) part cls 128).modHline line fun h => { h with
    dram := false, poison := if bad && h.poison.isNone then some 0 else h.poison }
  have hu : u.hline line = { s.hline line with dram := false, poison := p } := by
    simp only [u, hx, State.hline_modHline_self]
    rfl
  let w := u.modHline line fun h => { h with held := [] }
  have hw : w.hline line = { s.hline line with dram := false, poison := p, held := [] } := by
    simp only [w, State.hline_modHline_self, hu]
  have hrest : w.mem = s.mem ∧ w.pairs = s.pairs ∧ w.bias = s.bias := by
    simp only [w, u, hx]
    exact ⟨rfl, rfl, rfl⟩
  obtain ⟨hmem, hpairs, hbias⟩ := hrest
  have hlb : lineHostBias w line = lineHostBias s line := by unfold lineHostBias; rw [hw, hbias]
  have hgw : homeGate w line halves (w.hline line).passed = .go := by
    rw [← hg]
    unfold homeGate
    rw [hlb, hw]
    rfl
  obtain ⟨t, wts, rts, ht, htm, htd, hth, hts⟩ :=
    load_served_filled (chip := chip) (part := part) (cls := cls) (uo := uo) (by rw [hw]) hgw
  refine ⟨t, wts, rts, ?_, by rw [htd, hw], by rw [hth, hw], ?_, htm.trans hmem⟩
  · rw [exec_dramReadComplete hd hm hh hb ho, ← ht]
    exact congrArg _ (serveHeld_one true (by rw [hu]; exact hh))
  · have hp : p.isSome = ((s.hline line).poison.isSome || bad) := by
      simp only [p]
      cases (s.hline line).poison <;> cases bad <;> rfl
    unfold Sends lineBytes at hts ⊢
    rw [hlb, hmem, hw, State.pair_congr hpairs] at hts
    rwa [hp] at hts

end

/-! ### Postings and atomics (R159, R160, R231) -/

/-- A request whose bytes have been merged after it was taken: its reply leaves, or waits for the probes of its line. -/
theorem merged_reply {s u v t : State} {i j line chip : Nat} {r : List (Nat × Msg)} {bytes : Tab Byte} {m : Msg} (hu : Took s u i j r)
    (hv : Merged u v line bytes) (ht : Applied v t line chip m) (hn : (bytes.map (·.1)).Nodup) :
    LineWritten s t line bytes ∧ (t.hline line).seq = ((s.hline line).seq + 1) % 2 ^ 16 ∧
      ((s.hline line).holders = 0 → probesOut s line = 0 → Sends s t (portMC (homeMc (line * 128))) (portCC chip) m) ∧
      ((holderList (s.hline line).holders).length + probesOut s line ≠ 0 → (t.hline line).holders = 0 ∧
        t.hwaits = s.hwaits ++ [{ line := line, seq := ((s.hline line).seq + 1) % 2 ^ 16
                                  left := (holderList (s.hline line).holders).length + probesOut s line
                                  reply := some (chip, m), job := none }]) := by
  have hseq : (v.hline line).seq = ((s.hline line).seq + 1) % 2 ^ 16 := by rw [hv.seq, hu.hline]
  have hhold : (v.hline line).holders = (s.hline line).holders := by rw [hv.holders, hu.hline]
  have hprobes : probesOut v line = probesOut s line := by rw [← hu.probesOut, probesOut, probesOut, hv.hwaits]
  refine ⟨?_, by rw [ht.seq, hseq], fun h0 hp => ?_, fun hne => ?_⟩
  · have hw := hv.lineWritten hn ht.mem
    unfold LineWritten at hw ⊢
    rwa [hu.mem] at hw
  · refine hu.sends ?_
    have hs := ht.sends (by rw [hhold, h0]) (by rw [hprobes, hp])
    unfold Sends at hs ⊢
    rwa [State.pair_congr hv.pairs] at hs
  · have hw := ht.waits (by rw [hhold, hprobes]; exact hne)
    rwa [hseq, hhold, hprobes, hv.hwaits, hu.hwaits] at hw

/-- The bytes of a posting of no drain stand (R264). -/
theorem dropDrained_of_stores {s : State} {id : Nat} (part line : Nat) (bytes : Tab Byte)
    (h : ∀ p, Tab.get? s.postings id = some p → p.ent.dmask = 0) : dropDrained s id part line bytes = (s, bytes) := by
  unfold dropDrained
  split
  · rfl
  · next p hp => rw [if_pos (h p hp)]

theorem mergePosting_of_stores {s : State} {chip id line part : Nat} {bytes : Tab Byte}
    (h : ∀ p, Tab.get? s.postings id = some p → p.ent.dmask = 0) :
    mergePosting s chip id line bytes none part =
      probeAndReply (mergeLine s part line bytes none).1 line (some (chip, .postAck id (((s.hline line).seq + 1) % 2 ^ 16)
        (globalSlice (line * 128)) 0)) none := by
  obtain ⟨hm, h0⟩ := merged_mergeLine s part line bytes
  unfold mergePosting
  rw [dropDrained_of_stores part line bytes h]
  dsimp only [Option.map_none]
  rw [if_neg (by simp), hm.seq, h0]

theorem posting_merged {s : State} {chip mc line since id part cls : Nat} {bytes : Tab Byte} {uo : Bool} {r : List (Nat × Msg)}
    (hi : (s.pair (portCC chip) (portMC mc)).inbox = (since, .posting id line bytes none uo part cls) :: r)
    (hb : budgetOk s (globalSlice (line * 128)) part cls = true)
    (ho : outranked s mc since (.posting id line bytes none uo part cls) = false) (hh : (s.hline line).held = [])
    (hr : seqRoom s line 1 = true) (hg : homeGate s line (maskHalves (maskOfBytes bytes)) 0 = .go) (hn : (bytes.map (·.1)).Nodup)
    (hd : ∀ p, Tab.get? s.postings id = some p → p.ent.dmask = 0) :
    ∃ t, exec (.homePostingMerge chip mc) s = .next t ∧
      Taken s t (portCC chip) (portMC mc) (.posting id line bytes none uo part cls) ∧ LineWritten s t line bytes ∧
      (t.hline line).seq = ((s.hline line).seq + 1) % 2 ^ 16 ∧
      ((s.hline line).holders = 0 → probesOut s line = 0 → Sends s t (portMC (homeMc (line * 128))) (portCC chip)
        (.postAck id (((s.hline line).seq + 1) % 2 ^ 16) (globalSlice (line * 128)) 0)) ∧
      ((holderList (s.hline line).holders).length + probesOut s line ≠ 0 → (t.hline line).holders = 0 ∧
        t.hwaits = s.hwaits ++ [{ line := line, seq := ((s.hline line).seq + 1) % 2 ^ 16
                                  left := (holderList (s.hline line).holders).length + probesOut s line
                                  reply := some (chip, .postAck id (((s.hline line).seq + 1) % 2 ^ 16) (globalSlice (line * 128)) 0)
                                  job := none }]) := by
  have hu := took_counted (globalSlice (line * 128)) part cls bytes.length hi
  have hx : exec (.homePostingMerge chip mc) s =
      .next (homeServe (takeInbox (budgetUse s (globalSlice (line * 128)) part cls bytes.length) (portCC chip) (portMC mc) 0) chip
        (.posting id line bytes none uo part cls) false) := by
    show execHomePostingMerge chip mc s = _
    unfold execHomePostingMerge
    have hm : mayServe s chip mc since (.posting id line bytes none uo part cls) = true := mayServe_of rfl hb ho (by simp [atomWaits])
    rw [homeStep_head (n := bytes.length) hi rfl rfl hm]
    rfl
  rw [hx]
  generalize takeInbox (budgetUse s (globalSlice (line * 128)) part cls bytes.length) (portCC chip) (portMC mc) 0 = u at hu
  have hserve : homeServe u chip (.posting id line bytes none uo part cls) false = mergePosting u chip id line bytes none part :=
    homeServe_done (by rw [hu.hline]; exact hh) (by simp [homeTry, hu.room line 1 hr, hu.homeGate, hg])
  rw [hserve, mergePosting_of_stores (by rw [hu.postings]; exact hd), hu.hline]
  have happ := applied_probeAndReply (mergeLine u part line bytes none).1 line chip
    (.postAck id (((s.hline line).seq + 1) % 2 ^ 16) (globalSlice (line * 128)) 0)
  have hmerged := (merged_mergeLine u part line bytes).1
  exact ⟨_, rfl, hu.taken hi (by rw [happ.inbox, State.pair_congr hmerged.pairs]), merged_reply hu hmerged happ hn⟩

/-- The bytes that a lane of an atomic writes, by offset in its line. -/
def laneWrites (a : Acc) (new : List Byte) : Tab Byte := (List.range a.n).map fun k => (a.pa % 128 + k, nth new k 0)

theorem laneWrites_nodup (a : Acc) (new : List Byte) : ((laneWrites a new).map (·.1)).Nodup := by
  unfold laneWrites
  rw [List.map_map]
  exact List.nodup_range.map fun x y h => by simpa using h

/-- What a lane of an atomic makes of the bytes in memory. -/
def laneNew (s : State) (o : Op) (a : Acc) : List Byte :=
  let l := if o.uni then 0 else a.lane
  toBytes a.n (atomNew o.aop o.ty (ofBytes (Memory.readN s.mem a.pa a.n)) (Tab.getD o.data l 0) (Tab.getD o.cmp l 0))

theorem atomicLanes_one {s : State} {o : Op} {line i : Nat} {a : Acc} (h : o.acc[i]? = some a) :
    atomicLanes s o line none [i] =
      let r := mergeLine s o.part line (laneWrites a (laneNew s o a)) none
      (r.1, [Memory.readN s.mem a.pa a.n], [tagWord (r.1.hline line).seq line], r.2) := by
  simp only [atomicLanes, List.foldl_cons, List.foldl_nil, h]
  rfl

theorem lanesHalves_one {s : State} {id i : Nat} {o : Op} {a : Acc} (ho : Tab.get? s.ops id = some o) (ha : o.acc[i]? = some a) :
    lanesHalves s id [i] = maskHalves (byteMask (a.pa % 128) a.n) := by
  simp [lanesHalves, lanesMask, ho, ha]

theorem homeTry_atomic {s : State} {chip id line i part cls : Nat} {o : Op} {a : Acc} (ho : Tab.get? s.ops id = some o)
    (ha : o.acc[i]? = some a) (hr : seqRoom s line 1 = true) (hg : homeGate s line (maskHalves (byteMask (a.pa % 128) a.n)) 0 = .go)
    (hp : (s.hline line).poison = none) :
    homeTry s chip (.atomReq id line [i] none part cls) false =
      (probeAndReply (mergeLine s o.part line (laneWrites a (laneNew s o a)) none).1 line
        (some (chip, .atomReply id [i] [Memory.readN s.mem a.pa a.n] [tagWord (((s.hline line).seq + 1) % 2 ^ 16) line] 0 false)) none,
        true) := by
  obtain ⟨hm, h0⟩ := merged_mergeLine s o.part line (laneWrites a (laneNew s o a))
  simp only [homeTry, ho, List.length_singleton, hr, Bool.not_true, Bool.false_eq_true, if_false, lanesHalves_one ho ha, hg, hp,
    Option.isSome_none, Option.map_none, atomicLanes_one ha, hm.seq, h0]

theorem atomic_performed {s : State} {chip mc line since id i part cls : Nat} {o : Op} {a : Acc} {r : List (Nat × Msg)}
    (hi : (s.pair (portCC chip) (portMC mc)).inbox = (since, .atomReq id line [i] none part cls) :: r)
    (hb : budgetOk s (globalSlice (line * 128)) part cls = true)
    (ho : outranked s mc since (.atomReq id line [i] none part cls) = false) (hh : (s.hline line).held = [])
    (hr : seqRoom s line 1 = true) (hp : (s.hline line).poison = none) (hop : Tab.get? s.ops id = some o) (ha : o.acc[i]? = some a)
    (hw : atomWaits s chip (.atomReq id line [i] none part cls) = false)
    (hg : homeGate s line (maskHalves (byteMask (a.pa % 128) a.n)) 0 = .go) :
    ∃ t, exec (.homeAtomic chip mc) s = .next t ∧ Taken s t (portCC chip) (portMC mc) (.atomReq id line [i] none part cls) ∧
      LineWritten s t line (laneWrites a (laneNew s o a)) ∧ (t.hline line).seq = ((s.hline line).seq + 1) % 2 ^ 16 ∧
      ((s.hline line).holders = 0 → probesOut s line = 0 → Sends s t (portMC (homeMc (line * 128))) (portCC chip)
        (.atomReply id [i] [Memory.readN s.mem a.pa a.n] [tagWord (((s.hline line).seq + 1) % 2 ^ 16) line] 0 false)) := by
  have hu := took_counted (globalSlice (line * 128)) part cls 8 hi
  have hx : exec (.homeAtomic chip mc) s =
      .next (homeServe (takeInbox (budgetUse s (globalSlice (line * 128)) part cls 8) (portCC chip) (portMC mc) 0) chip
        (.atomReq id line [i] none part cls) false) := by
    show execHomeAtomic chip mc s = _
    unfold execHomeAtomic
    rw [homeStep_head (n := 8) hi rfl rfl (mayServe_of rfl hb ho hw)]
    rfl
  rw [hx]
  generalize takeInbox (budgetUse s (globalSlice (line * 128)) part cls 8) (portCC chip) (portMC mc) 0 = u at hu
  have htry := homeTry_atomic (chip := chip) (part := part) (cls := cls) (by rw [hu.ops]; exact hop) ha (hu.room line 1 hr)
    (by rw [hu.homeGate]; exact hg) (by rw [hu.hline]; exact hp)
  have hnew : laneNew u o a = laneNew s o a := by unfold laneNew; rw [hu.mem]
  rw [hu.hline, hu.mem, hnew] at htry
  rw [homeServe_done (by rw [hu.hline]; exact hh) htry]
  have happ := applied_probeAndReply (mergeLine u o.part line (laneWrites a (laneNew s o a)) none).1 line chip
    (.atomReply id [i] [Memory.readN s.mem a.pa a.n] [tagWord (((s.hline line).seq + 1) % 2 ^ 16) line] 0 false)
  have hmerged := (merged_mergeLine u o.part line (laneWrites a (laneNew s o a))).1
  obtain ⟨hline, hseq, hsend, -⟩ := merged_reply hu hmerged happ (laneWrites_nodup a _)
  exact ⟨_, rfl, hu.taken hi (by rw [happ.inbox, State.pair_congr hmerged.pairs]), hline, hseq, hsend⟩

end Sys2Proof.Machine

end

section

namespace Sys2Proof.Machine

open Sys2Proof

/-! ### Answers to probes (R231) -/

/-- What one answer makes of the waits: those before its own stand, its own and the later ones of its line count it. -/
def waitStep (line seq : Nat) (st : Bool × List HomeWait × List HomeWait) (w : HomeWait) : Bool × List HomeWait × List HomeWait :=
  let on := st.1 || (w.line == line && w.seq == seq)
  if !on || w.line != line then (on, st.2.1 ++ [w], st.2.2)
  else if w.left ≤ 1 then (on, st.2.1, st.2.2 ++ [w])
  else (on, st.2.1 ++ [{ w with left := w.left - 1 }], st.2.2)

theorem probeAnswered_eq (s : State) (mc line seq : Nat) :
    probeAnswered s mc line seq =
      let r := s.hwaits.foldl (waitStep line seq) (false, [], [])
      serveHeld (r.2.2.foldl (fun t w => answerWait t mc w) { s with hwaits := r.2.1 }) line false := rfl

/-- The waits of other lines stand. -/
theorem foldl_waitStep_apart {line seq : Nat} (ws : List HomeWait) (h : ∀ w ∈ ws, (w.line == line) = false) (on : Bool)
    (stay ended : List HomeWait) : ws.foldl (waitStep line seq) (on, stay, ended) = (on, stay ++ ws, ended) := by
  induction ws generalizing stay with
  | nil => simp
  | cons w r ih =>
    obtain ⟨hw, hr⟩ := List.forall_mem_cons.mp h
    have hstep : waitStep line seq (on, stay, ended) w = (on, stay ++ [w], ended) := by simp [waitStep, bne, hw]
    rw [List.foldl_cons, hstep, ih hr, List.append_assoc, List.singleton_append]

/-- The only wait of its line, with those of other lines around it. -/
theorem foldl_waitStep_only {line seq : Nat} {pre post : List HomeWait} {w : HomeWait} (hw : (w.line == line && w.seq == seq) = true)
    (hpre : ∀ y ∈ pre, (y.line == line) = false) (hpost : ∀ y ∈ post, (y.line == line) = false) :
    (pre ++ w :: post).foldl (waitStep line seq) (false, [], []) =
      if w.left ≤ 1 then (true, pre ++ post, [w]) else (true, pre ++ { w with left := w.left - 1 } :: post, []) := by
  obtain ⟨hl, hq⟩ := Bool.and_eq_true_iff.mp hw
  rw [List.foldl_append, foldl_waitStep_apart pre hpre, List.foldl_cons]
  by_cases h : w.left ≤ 1
  · have hstep : waitStep line seq (false, [] ++ pre, []) w = (true, pre, [w]) := by simp [waitStep, bne, hl, hq, h]
    rw [hstep, foldl_waitStep_apart post hpost, if_pos h]
  · have hstep : waitStep line seq (false, [] ++ pre, []) w = (true, pre ++ [{ w with left := w.left - 1 }], []) := by
      simp [waitStep, bne, hl, hq, h]
    rw [hstep, foldl_waitStep_apart post hpost, if_neg h, List.append_assoc, List.singleton_append]

theorem erase_only {line : Nat} {pre post : List HomeWait} {w : HomeWait} (hw : (w.line == line) = true)
    (hpre : ∀ y ∈ pre, (y.line == line) = false) : (pre ++ w :: post).erase w = pre ++ post := by
  have hn : w ∉ pre := fun hm => by simp [hpre w hm] at hw
  rw [List.erase_append_right _ hn, List.erase_cons_head]

theorem map_only {line : Nat} {pre post : List HomeWait} {w : HomeWait} (f : HomeWait → HomeWait) (hw : (w.line == line) = true)
    (hpre : ∀ y ∈ pre, (y.line == line) = false) (hpost : ∀ y ∈ post, (y.line == line) = false) :
    (pre ++ w :: post).map (fun y => if y == w then f y else y) = pre ++ f w :: post := by
  have hother (ws : List HomeWait) (h : ∀ y ∈ ws, (y.line == line) = false) : ws.map (fun y => if y == w then f y else y) = ws := by
    refine (List.map_congr_left fun y hy => if_neg fun e => ?_).trans (List.map_id ws)
    rw [beq_iff_eq] at e
    simp [← e, h y hy] at hw
  rw [List.map_append, List.map_cons, hother pre hpre, hother post hpost, if_pos (beq_self_eq_true w)]

section
variable {s : State} {chip mc line since seq : Nat} {w : HomeWait} {r : List (Nat × Msg)}
  (hi : (s.pair (portCC chip) (portMC mc)).inbox = (since, .probeAck line seq) :: r)
  (hf : s.hwaits.find? (fun w => w.line == line && w.seq == seq) = some w)
  (ho : s.hwaits.filter (fun y => y.line == line) = [w]) (hh : (s.hline line).held = [])

include hi in
theorem exec_probeAckReceive : exec (.probeAckReceive chip mc) s =
    .next (probeAnswered (takeInbox s (portCC chip) (portMC mc) 0) mc line seq) := by
  obtain ⟨l, hl⟩ := openMsgs_cons (since, .probeAck line seq) r
  show execProbeAckReceive chip mc s = _
  unfold execProbeAckReceive
  dsimp only
  rw [hi, hl]
  rfl

include hf ho in
theorem waits_split : ∃ pre post, s.hwaits = pre ++ w :: post ∧ (w.line == line && w.seq == seq) = true ∧
    (∀ y ∈ pre, (y.line == line) = false) ∧ ∀ y ∈ post, (y.line == line) = false := by
  obtain ⟨pre, post, hs, hpre, -, hpost⟩ := List.filter_eq_cons_iff.mp ho
  exact ⟨pre, post, hs, List.find?_some (p := fun w : HomeWait => w.line == line && w.seq == seq) hf,
    fun y hy => Bool.eq_false_iff.mpr (hpre y hy),
    fun y hy => Bool.eq_false_iff.mpr (List.filter_eq_nil_iff.mp hpost y hy)⟩

include hi hf ho hh

/-- The last answer to the probes of a line sends the reply that waited for it. -/
theorem last_probe_answered (hw : w.left ≤ 1) {c : Nat} {msg : Msg} (hr : w.reply = some (c, msg)) :
    ∃ t, exec (.probeAckReceive chip mc) s = .next t ∧ t.hwaits = s.hwaits.erase w ∧ Sends s t (portMC mc) (portCC c) msg := by
  have hu := took_takeInbox hi
  rw [exec_probeAckReceive hi]
  generalize takeInbox s (portCC chip) (portMC mc) 0 = u at hu
  obtain ⟨pre, post, hs, hkey, hpre, hpost⟩ := waits_split hf ho
  have hline : (w.line == line) = true := (Bool.and_eq_true_iff.mp hkey).1
  have hsent := sent_send { u with hwaits := pre ++ post } (portMC mc) (portCC c) msg
  have ht : probeAnswered u mc line seq = send { u with hwaits := pre ++ post } (portMC mc) (portCC c) msg := by
    rw [probeAnswered_eq, hu.hwaits, hs, foldl_waitStep_only hkey hpre hpost, if_pos hw]
    simp only [List.foldl_cons, List.foldl_nil, answerWait, hr]
    exact serveHeld_none false (by rw [State.hline_congr hsent.hlines]; exact (hu.hline line).symm ▸ hh)
  refine ⟨_, rfl, ?_, ?_⟩
  · rw [ht, hsent.hwaits, hs, erase_only hline hpre]
  · rw [ht]
    exact hu.sends hsent.sends

/-- An answer before the last is counted. -/
theorem probe_answer_counted (hw : 1 < w.left) :
    ∃ t, exec (.probeAckReceive chip mc) s = .next t ∧ Taken s t (portCC chip) (portMC mc) (.probeAck line seq) ∧
      t.hwaits = s.hwaits.map fun y => if y == w then { y with left := y.left - 1 } else y := by
  have hu := took_takeInbox hi
  rw [exec_probeAckReceive hi]
  generalize takeInbox s (portCC chip) (portMC mc) 0 = u at hu
  obtain ⟨pre, post, hs, hkey, hpre, hpost⟩ := waits_split hf ho
  have hline : (w.line == line) = true := (Bool.and_eq_true_iff.mp hkey).1
  have ht : probeAnswered u mc line seq = { u with hwaits := pre ++ { w with left := w.left - 1 } :: post } := by
    rw [probeAnswered_eq, hu.hwaits, hs, foldl_waitStep_only hkey hpre hpost, if_neg (Nat.not_le.mpr hw)]
    exact serveHeld_none false ((hu.hline line).symm ▸ hh)
  refine ⟨_, rfl, ?_, ?_⟩
  · rw [ht]
    exact hu.taken hi rfl
  · rw [ht, hs, map_only (fun y => { y with left := y.left - 1 }) hline hpre hpost]

end

end Sys2Proof.Machine

namespace Sys2Proof

open Sys2Proof.Machine

/-- Settles O43, by the laws of each way a home serves: granting, merging, performing and counting answers. -/
theorem homesServe : Obligations.HomesServe := by
  unfold Obligations.HomesServe
  intro s chip mc line
  refine ⟨?loads, ?dram, ?postings, ?atomics, ?answers⟩
  case loads =>
    intro since halves uo part cls r hi hb ho hh hg
    exact ⟨load_granted hi hb ho hh hg, load_waits_for_dram hi hb ho hh hg⟩
  case dram =>
    intro halves uo part cls bad hd hm hh hg hb
    exact ⟨dram_read_granted hd hm hh hb hg, dram_read_waits hd hm hh hb⟩
  case postings =>
    intro since id bytes uo part cls r hi hb ho hh hr hg hn hd
    exact posting_merged hi hb ho hh hr hg hn hd
  case atomics =>
    intro since id o a i part cls r hi hb ho hh hr hp hop ha _ hw hg
    exact atomic_performed hi hb ho hh hr hp hop ha hw hg
  case answers =>
    intro since seq w r hi hf ho hh
    exact ⟨fun hw c msg hr => last_probe_answered hi hf ho hh hw hr, probe_answer_counted hi hf ho hh⟩

end Sys2Proof

end

section

namespace Sys2Proof.Machine

open Sys2Proof

/-! ### What a step does (R38, R75, R228, R333) -/

@[simp] theorem groups_tick (s : State) (n : Nat) : (tick s n).groups = s.groups := by
  unfold tick
  split <;> rfl

theorem step_of_run {s t : State} {i : Instr} (hd : duePlan s = none) (h : planNext s = .run i t) :
    step s = after (closeRun i t) (exec i t) := by
  simp [step, plan, hd, h]

theorem step_of_raised {s : State} {o : Host.Outcome State Fault Refusal} (hd : duePlan s = none) (h : planNext s = .raised o) :
    step s = after (closeStep s) o := by
  simp [step, plan, hd, h]

theorem instrAt_of_decode {f : Frag} {i : Instr} {n : Nat}
    (h : decode (some (bitsAt f.hdr.toNat 4 3)) (f.words.drop (f.idx - 1)) = .ok (i, n)) : instrAt f = .ok i := by
  simp [instrAt, h]

section
variable {t : State} {gid fi : Nat} {g : Group} {f : Frag}
  (hg : Tab.get? t.groups gid = some g) (hf : g.frag? fi = some f) (hm : mayIssue t gid g = true)
  (hr : frag_ready g fi f = true) (hb : datapathBusy t gid g f = false)

include hg hf hm hr hb

/-- A fragment that its sub-core selects issues the instruction at its place. -/
theorem planIssue_run {i : Instr} {n : Nat} (h0 : f.idx ≠ 0) (hs : selected t gid g = some (gid, fi))
    (hd : decode (some (bitsAt f.hdr.toNat 4 3)) (f.words.drop (f.idx - 1)) = .ok (i, n)) :
    planIssue t gid fi = .run i (select t gid fi g) := by
  simp [planIssue, hg, hf, hm, hr, hb, h0, hs, instrAt_of_decode hd]

/-- A fragment at the start of its clause enters it. -/
theorem planIssue_enter (h0 : f.idx = 0) :
    planIssue t gid fi = .raised (execEnterClause (coreOf gid) (slotOf gid) fi { t with cur := some (gid, fi) }) := by
  simp [planIssue, hg, hf, hm, hr, hb, h0]

end

theorem coreOf_key {slot : Nat} (core : Nat) (h : slot < 128) : coreOf (core * 128 + slot) = core := by
  unfold coreOf; omega

theorem slotOf_key {slot : Nat} (core : Nat) (h : slot < 128) : slotOf (core * 128 + slot) = slot := by
  unfold slotOf; omega

end Sys2Proof.Machine

namespace Sys2Proof

open Sys2Proof.Machine

/-- Settles O56, by the plan that each way of naming the step leads to. -/
theorem stepRunsDecoded : Obligations.StepRunsDecoded := by
  unfold Obligations.StepRunsDecoded
  intro s r hd
  refine ⟨?issue, ?default, ?proctor, ?event⟩
  case issue =>
    intro core slot fi g f i n ha hslot gid t u hg hf hm hr hb
    have ht : Tab.get? t.groups gid = some g := by rwa [groups_tick]
    have hp : planNext s = planIssue t gid fi := by simp only [planNext, ha, t, gid]
    refine ⟨fun h0 hs hx => ?_, fun h0 => ?_⟩
    · exact step_of_run hd (hp.trans (planIssue_run ht hf hm hr hb h0 hs hx))
    · have h := planIssue_enter ht hf hm hr hb h0
      rw [coreOf_key core hslot, slotOf_key core hslot] at h
      exact step_of_raised hd (hp.trans h)
  case default =>
    intro gid fi g f i n ha t u he hbest hs hg hf hm hr hb h0 hx
    have ht : Tab.get? t.groups gid = some g := by rwa [groups_tick]
    refine step_of_run hd ?_
    have hp : planNext s = planIssue t gid fi := by
      simp only [planNext, ha, fragPlan, t] at he hbest ⊢
      rw [if_pos he, hbest]
      rfl
    exact hp.trans (planIssue_run ht hf hm hr hb h0 hs hx)
  case proctor =>
    intro port x w i ha u hu hw hx
    refine step_of_run hd ?_
    simp only [planNext, ha, planProctor]
    rw [show ({ tick { s with agenda := r } 1 with curPr := some port } : State).prIssuer = some x from hu]
    simp only [hw, Option.bind_some, hx, u]
  case event =>
    intro i ha hi u
    exact step_of_run hd (by simp only [planNext, ha, hi, if_true, u])

end Sys2Proof
end

section

namespace Sys2Proof

open Sys2Proof.Machine

/-! ### Taking a trap (R215, R216) -/

theorem writeSs_rest (g : Group) (n : Nat) (ws : List Word) :
    g.writeSs n ws = { g with s := (g.writeSs n ws).s, note := (g.writeSs n ws).note } := by
  induction ws generalizing g n with
  | nil => rfl
  | cons w t ih =>
    simp only [Group.writeSs]
    rw [ih]
    rfl

/-- Words written from register `n` upward are read back; every other register is as before. -/
theorem sreg_writeSs (g : Group) (n : Nat) (ws : List Word) (k : Nat) :
    (g.writeSs n ws).sreg k = if k < n then g.sreg k else ws.getD (k - n) (g.sreg k) := by
  induction ws generalizing g n with
  | nil => simp [Group.writeSs]
  | cons w t ih =>
    simp only [Group.writeSs]
    rw [ih]
    rcases Nat.lt_trichotomy k n with h | h | h
    · rw [if_pos (by omega), if_pos h, sreg_writeS_ne _ _ _ _ (by omega)]
    · subst h
      rw [if_pos (by omega), if_neg (by omega), sreg_writeS_self]
      simp
    · rw [if_neg (by omega), if_neg (by omega), sreg_writeS_ne _ _ _ _ (by omega), show k - n = k - (n + 1) + 1 by omega,
        List.getD_cons_succ]

theorem pairOf_words (v : Nat) : (pairOf (BitVec.ofNat 32 v) (BitVec.ofNat 32 (v / 2 ^ 32))).toNat = v % 2 ^ 64 := by
  rw [pairOf_toNat, BitVec.toNat_ofNat, BitVec.toNat_ofNat]
  exact pair_halves v

/-- What a group shows of itself to its program's traps: registers, split table, handler mode, sticky flags and trap state. -/
structure SameForTraps (g h : Group) : Prop where
  v : h.v = g.v
  s : h.s = g.s
  split : h.split = g.split
  hmode : h.hmode = g.hmode
  sticky : h.sticky = g.sticky
  trapVa : h.trapVa = g.trapVa
  trapcnt : h.trapcnt = g.trapcnt

theorem SameForTraps.refl (g : Group) : SameForTraps g g := ⟨rfl, rfl, rfl, rfl, rfl, rfl, rfl⟩

/-- What a trap with a handler makes of a group. -/
def trapped (clock fi : Nat) (record : List Word) (g : Group) : Group :=
  let g1 := g.writeSs 368 record
  ({ g1 with trapcnt := g1.trapcnt + 1, hmode := some fi }).modFrag fi fun f =>
    { f with pc := g.trapVa, hdr := 0, words := [], idx := 0, resume := none, cond := .ready, since := clock }

@[simp] theorem grp_clearKeys (s : State) (gid k : Nat) (g : Group) (keys : List Nat) : grp (clearKeys s gid g keys) k = grp s k := by
  unfold clearKeys
  induction keys generalizing s with
  | nil => rfl
  | cons a r ih => rw [List.foldl_cons, ih, grp_clearWords]

theorem grp_takeTrapAt {s : State} {gid : Nat} {g : Group} (hg : grp s gid = some g) (fi : Nat) (f : Frag)
    (tpc rpc ridx code : Nat) (async : Bool) (i0 i1 : Nat) (scc : Bool) (iw : List Word) :
    grp (takeTrapAt s gid fi f tpc rpc ridx code async i0 i1 scc iw) gid =
      some (if g.trapVa = 0 || g.hmode.isSome then { g with killed := true, trapKill := some code }
        else trapped s.clock fi (trapRecord f tpc rpc ridx code async i0 i1 scc iw) g) := by
  have hg' : Tab.get? s.groups gid = some g := hg
  unfold takeTrapAt killByTrap
  simp only [hg']
  split
  · simp [hg]
  · rw [grp_modGroup, grp_clearKeys, hg]
    rfl

theorem GSplit.trapped_others (clock fi : Nat) (record : List Word) (g : Group) (k : Nat) (h : k ≠ fi) :
    Tab.get? (trapped clock fi record g).split k = Tab.get? g.split k := by
  unfold trapped
  dsimp only
  rw [split_modFrag_ne _ _ _ _ h, writeSs_rest]

theorem frag?_trapped (clock fi : Nat) (record : List Word) (g : Group) :
    (trapped clock fi record g).frag? fi = (g.frag? fi).map fun f =>
      { f with pc := g.trapVa, hdr := 0, words := [], idx := 0, resume := none, cond := .ready, since := clock } := by
  unfold trapped
  dsimp only
  rw [frag?_modFrag_self]
  refine congrArg _ (frag?_congr ?_ fi)
  rw [writeSs_rest]

theorem trapped_fields (clock fi : Nat) (record : List Word) (g : Group) :
    (trapped clock fi record g).hmode = some fi ∧ (trapped clock fi record g).trapcnt = g.trapcnt + 1 ∧
      (trapped clock fi record g).sticky = g.sticky ∧ (trapped clock fi record g).v = g.v ∧
      (trapped clock fi record g).s = (g.writeSs 368 record).s := by
  unfold trapped
  dsimp only
  rw [modFrag_light, writeSs_rest]
  exact ⟨rfl, rfl, rfl, rfl, rfl⟩

/-- A trap taken in a state where the group still shows itself as in `x`. -/
theorem trapTaken_takeTrapAt {s : State} {x : Ctx} {g : Group} (hg : grp s x.gid = some g) (h : SameForTraps x.g g)
    (hf : x.g.frag? x.fi = some x.f) (tpc rpc ridx code i0 i1 : Nat) (scc : Bool) (iw : List Word) :
    TrapTaken x (takeTrapAt s x.gid x.fi x.f tpc rpc ridx code false i0 i1 scc iw) tpc rpc ridx code i0 i1 scc iw := by
  have ht := grp_takeTrapAt hg x.fi x.f tpc rpc ridx code false i0 i1 scc iw
  refine ⟨fun hva hmode => ?_, fun hk => ?_⟩
  · rw [if_neg (by simp [h.trapVa, h.hmode, hva, hmode])] at ht
    generalize hrec : trapRecord x.f tpc rpc ridx code false i0 i1 scc iw = record at ht
    obtain ⟨hhm, hcnt, hst, hv, hs⟩ := trapped_fields s.clock x.fi record g
    have hreg (k : Nat) : (trapped s.clock x.fi record g).sreg k = if k < 368 then x.g.sreg k else record.getD (k - 368) (x.g.sreg k) := by
      rw [sreg_congr hs, sreg_writeSs, sreg_congr h.s]
    have hfrag := frag?_trapped s.clock x.fi record g
    rw [frag?_congr h.split, hf] at hfrag
    refine ⟨_, _, ht, hfrag, h.trapVa, rfl, rfl, rfl, rfl, hhm, ?_, ?_, ?_⟩
    · rw [hcnt, h.trapcnt]
    · rw [hst, h.sticky]
    · have hexec : (pairOf (BitVec.ofNat 32 x.f.exec.toNat) (BitVec.ofNat 32 (x.f.exec.toNat / 2 ^ 32))) = x.f.exec :=
        BitVec.eq_of_toNat_eq (by rw [pairOf_words]; exact Nat.mod_eq_of_lt x.f.exec.isLt)
      simp only [Group.spair, hreg, Group.vrow, hv, h.v]
      subst hrec
      refine ⟨pairOf_words tpc, pairOf_words rpc, rfl, rfl, hexec, pairOf_words i0, pairOf_words i1, rfl, rfl, rfl, ?_,
        fun _ => trivial, fun n hn => if_pos hn, fun k hk => ?_⟩
      · simp [trapRecord, bitOf]
      · rw [GSplit.trapped_others _ _ _ _ _ hk, h.split]
  · rw [if_pos (by
      rcases hk with hk | hk
      · simp [h.trapVa, hk]
      · simp [h.hmode, Option.ne_none_iff_isSome.mp hk])] at ht
    exact ⟨_, ht, rfl, rfl, h.v, h.s⟩

/-- A precise trap of the issuing fragment. -/
theorem trapTaken_takeTrap {s : State} {x : Ctx} {g : Group} (hg : grp s x.gid = some g) (h : SameForTraps x.g g)
    (hf : x.g.frag? x.fi = some x.f) (code i0 i1 : Nat) :
    TrapTaken x (takeTrap s x code i0 i1) x.f.pc0 x.f.pc x.f.idx code i0 i1 x.f.scc (formatWords x.f) :=
  trapTaken_takeTrapAt hg h hf _ _ _ _ _ _ _ _

end Sys2Proof
end

section

namespace Sys2Proof

open Sys2Proof.Machine

/-! ### Control instructions that pass their checks (R60, R75) -/

theorem runCtl_go {s : State} {x : Ctx} {i : AluI} {ok branch : Bool} {kind : Option Kind} {k : Ctx → State}
    (h : Ready s x ok (kind.elim Use.none fun q => useOf q i.d)) (hl : branch = true → x.f.isLast i.len = true) :
    runCtl s i ok branch kind k = .next (k x) := by
  obtain ⟨hi, hok, hgate⟩ := h
  have hb : (branch && !x.f.isLast i.len) = false := by
    cases branch
    · rfl
    · simp [hl rfl]
  unfold runCtl
  rw [withIssuer_eq hi, hok, hb]
  cases kind with
  | none => simp only [Option.elim_none] at hgate; simp [hgate]
  | some q => simp only [Option.elim_some] at hgate; simp [hgate]

/-! ### Registers read by a branch (R196) -/

theorem regs_useRegs (s : State) (x : Ctx) (rd : List Nat) : RegistersOnly x.gid s (useRegs s x rd) := by
  unfold useRegs
  split
  · exact (regs_modGroup _ _ _).trans (regs_invalidateL1 _ _ _)
  · exact .refl _ _

@[simp] theorem groups_invalidateL1 (s : State) (core : Nat) : (invalidateL1 s core).groups = s.groups := by
  unfold invalidateL1
  split <;> rfl

/-- What reading registers makes of the group. -/
def regsUsed (x : Ctx) (rd : List Nat) (g : Group) : Group := if usesFull x.g rd then useNotes g rd else g

@[simp] theorem grp_useRegs (s : State) (x : Ctx) (rd : List Nat) :
    grp (useRegs s x rd) x.gid = (grp s x.gid).map (regsUsed x rd) := by
  unfold useRegs regsUsed
  cases usesFull x.g rd
  · simp
  · simp only [if_true, grp, groups_invalidateL1]
    exact grp_modGroup _ _ _

theorem regsUsed_rest (x : Ctx) (rd : List Nat) (g : Group) : regsUsed x rd g = { g with note := (regsUsed x rd g).note } := by
  unfold regsUsed
  split <;> rfl

theorem GKeep.regsUsed {u : Use} (x : Ctx) {rd : List Nat} (g : Group) (h : ∀ k ∈ rd, k ∈ u.rd) : GKeep u g (regsUsed x rd g) := by
  refine ⟨fun _ _ => ?_, fun _ _ => ?_, fun k hk _ => ?_, fun _ _ => ?_, ?_⟩
  · rw [regsUsed_rest]; rfl
  · rw [regsUsed_rest]; rfl
  · unfold Sys2Proof.regsUsed
    split
    · exact get?_foldl_del (fun t j => Tab.get? t j == some NoteSt.full) _ _ _ fun hm => hk (h k hm)
    · rfl
  · rw [regsUsed_rest]
  · rw [regsUsed_rest]

/-! ### Going to another clause (R190) -/

/-- What a branch makes of the group. -/
def branched (clock : Nat) (x : Ctx) (sp : Bool) (pc : Nat) (g : Group) : Group :=
  let g0 : Group := { g with state := ranState g.state }
  gotoIn (g0.modFrag x.fi fun f => { issued f clock sp with yielded := bitAt x.f.hdr.toNat 27 }) clock x.fi (pc % 2 ^ 64)

@[simp] theorem grp_branchTo (s : State) (x : Ctx) (sp : Bool) (pc : Nat) :
    grp (branchTo s x sp pc) x.gid = (grp s x.gid).map (branched s.clock x sp pc) := by
  unfold branchTo
  dsimp only
  rw [grp_modGroup, grp_startRunning]
  cases grp s x.gid <;> rfl

theorem GKeep.branched (u : Use) (clock : Nat) (x : Ctx) (sp : Bool) (pc : Nat) (g : Group) : GKeep u g (branched clock x sp pc g) := by
  have h0 : GKeep u g { g with state := ranState g.state } := .light _ _ _ rfl
  exact (h0.trans (.modFrag _ _ _ _)).trans (.gotoIn _ _ _ _ _)

theorem GRegs.branched (clock : Nat) (x : Ctx) (sp : Bool) (pc : Nat) (g : Group) : GRegs g (branched clock x sp pc g) := by
  have h0 : GRegs g { g with state := ranState g.state } := ⟨rfl, rfl, rfl⟩
  exact (h0.trans (.modFrag _ _ _)).trans ((GRegs.modFrag _ _ _).trans (.settleAt _ _ _ _))

/-- The fragment after a branch that does not lead to its reconvergence point. -/
theorem branched_apart {x : Ctx} (clock : Nat) (sp : Bool) {pc : Nat} {g : Group} (hpc : pc < 2 ^ 64) (hm : ¬ MeetsRpc x pc)
    (hf : g.frag? x.fi = some x.f) (hg : ∀ id, g.region? id = x.g.region? id) :
    (branched clock x sp pc g).frag? x.fi = some { issued x.f clock sp with
      yielded := bitAt x.f.hdr.toNat 27, pc := pc, hdr := 0, words := [], idx := 0, resume := none } ∧
      GSplit x.fi g (branched clock x sp pc g) := by
  have hf0 : Group.frag? { g with state := ranState g.state } x.fi = some x.f := hf
  have e0 : GSplit x.fi g { g with state := ranState g.state } := .same _ _ _ rfl rfl
  unfold branched gotoIn
  dsimp only
  rw [Nat.mod_eq_of_lt hpc]
  rw [settleAt_alone 66 _ clock x.fi _ (by simp only [frag?_modFrag_self, hf0, Option.map_some]; rfl) (by
    intro id ri r h1 h2 h3
    simp only [region?_modFrag] at h2
    exact hm ⟨id, ri, r, h1, (hg id) ▸ h2, h3⟩)]
  simp only [frag?_modFrag_self, hf0, Option.map_some]
  exact ⟨trivial, (e0.trans (.modFrag _ _ _)).trans (.modFrag _ _ _)⟩

/-- A branch taken in a state whose group differs from that of `x` in what `u` asks for only. -/
theorem branched_done {s s1 : State} {x : Ctx} {g : Group} {u : Use} {pc : Nat} (sp : Bool) (hf : x.g.frag? x.fi = some x.f)
    (hg : grp s1 x.gid = some g) (hr : RegistersOnly x.gid s s1) (hk : GKeep u x.g g) (hs : g.split = x.g.split)
    (hh : g.hmode = x.g.hmode) (hst : g.sticky = x.g.sticky) (hpc : pc < 2 ^ 64) :
    BranchesTo x (branchTo s1 x sp pc) pc ∧ RegistersOnly x.gid s (branchTo s1 x sp pc) ∧ GroupKeeps x (branchTo s1 x sp pc) u ∧
      StickyIs x (branchTo s1 x sp pc) x.g.sticky ∧
      ∃ h, Tab.get? (branchTo s1 x sp pc).groups x.gid = some h ∧ GRegs g h := by
  have ht : grp (branchTo s1 x sp pc) x.gid = some (branched s1.clock x sp pc g) := by rw [grp_branchTo, hg]; rfl
  refine ⟨fun hm => ?_, hr.trans (regs_branchTo _ _ _ _), GKeep.to_keeps ht (hk.trans (.branched _ _ _ _ _ _)), ?_,
    _, ht, .branched _ _ _ _ _⟩
  · obtain ⟨h1, h2⟩ := branched_apart s1.clock sp hpc hm ((frag?_congr hs _).trans hf) fun id => by unfold Group.region?; rw [hs]
    refine ⟨_, _, ht, h1, rfl, rfl, rfl, rfl, rfl, rfl, rfl, rfl, rfl, rfl, rfl, fun k hk => ?_, h2.hmode.trans hh⟩
    rw [h2.others k hk, hs]
  · exact ⟨_, ht, (GRegs.branched _ _ _ _ _).sticky.trans hst⟩

/-- A branch that reads the registers `rd`. -/
theorem branch_step {s : State} {x : Ctx} {u : Use} {rd : List Nat} {pc : Nat} (sp : Bool) (hi : s.issuer = some x)
    (hrd : ∀ k ∈ rd, k ∈ u.rd) (hpc : pc < 2 ^ 64) : BranchStep s x u pc (.next (branchTo (useRegs s x rd) x sp pc)) := by
  obtain ⟨-, hg, -, hf⟩ := issuer_spec hi
  have h1 : grp (useRegs s x rd) x.gid = some (regsUsed x rd x.g) := by rw [grp_useRegs]; simp only [grp, hg, Option.map_some]
  obtain ⟨h2, h3, h4, h5, -⟩ := branched_done sp hf h1 (regs_useRegs s x rd) (.regsUsed x x.g hrd) (by rw [regsUsed_rest])
    (by rw [regsUsed_rest]) (by rw [regsUsed_rest]) hpc
  exact ⟨_, rfl, h2, h3, h4, h5⟩

/-- A branch that reads no register. -/
theorem plain_branch_step {s : State} {x : Ctx} {pc : Nat} (sp : Bool) (hi : s.issuer = some x) (hpc : pc < 2 ^ 64) :
    BranchStep s x Use.none pc (.next (branchTo s x sp pc)) := by
  have h := branch_step (rd := []) sp hi (u := Use.none) (fun _ h => h) hpc
  rwa [show useRegs s x [] = s from rfl] at h

/-! ### Targets (R27) -/

theorem targetOf_eq (x : Ctx) (off : Int) : targetOf x off = branchTarget x off := rfl

theorem branchTarget_lt (x : Ctx) (off : Int) : branchTarget x off < 2 ^ 64 := by
  unfold branchTarget
  generalize ((x.f.pc + 4 * x.f.idx : Nat) + 4 * off : Int) = y
  norm_num
  omega

theorem fallThrough_lt (f : Frag) : f.fallThrough < 2 ^ 64 := Nat.mod_lt _ (by norm_num)

theorem sval_pair_lt (g : Group) (n : Nat) : sval g true n < 2 ^ 64 := by
  unfold sval
  rw [if_pos rfl]
  exact (g.spair n).isLt

theorem ite_lt {c : Prop} [Decidable c] {a b n : Nat} (ha : a < n) (hb : b < n) : (if c then a else b) < n := by
  split <;> assumption

end Sys2Proof
end

section

namespace Sys2Proof

open Sys2Proof.Machine

/-! ### Going on with a fragment marked (R190, R228) -/

/-- A change of the issuing fragment that `GoesOn` does not speak of keeps it. -/
theorem GoesOn.modFrag {x : Ctx} {t : State} {len hold : Nat} {scc carry : Bool} {exec : LaneMask} (h : GoesOn x t len hold scc carry exec)
    (m : Frag → Frag) (hm : ∀ f, m f = { f with yielded := (m f).yielded }) :
    GoesOn x (t.modFrag x.gid x.fi m) len hold scc carry exec ∧
      (x.f.isLast len = false ∨ ¬ MeetsRpc x x.f.fallThrough →
        ∃ g f, Tab.get? (t.modFrag x.gid x.fi m).groups x.gid = some g ∧ g.frag? x.fi = some (m f)) := by
  have key (ha : x.f.isLast len = false ∨ ¬ MeetsRpc x x.f.fallThrough) := h ha
  refine ⟨fun ha => ?_, fun ha => ?_⟩
  · obtain ⟨g, f, hg, hf, h1, h2, h3, h4, h5, h6, h7, h8, h9, h10, h11, h12, h13⟩ := key ha
    have ht : grp (t.modFrag x.gid x.fi m) x.gid = some (g.modFrag x.fi m) := by rw [grp_modFrag]; simp only [grp, hg, Option.map_some]
    refine ⟨_, m f, ht, by rw [frag?_modFrag_self, hf]; rfl, ?_⟩
    rw [hm f]
    refine ⟨h1, h2, h3, h4, h5, h6, h7, h8, h9, h10, h11, fun k hk => ?_, ?_⟩
    · rw [split_modFrag_ne _ _ _ _ hk, h12 k hk]
    · rw [hmode_modFrag, h13]
  · obtain ⟨g, f, hg, hf, -⟩ := key ha
    have ht : grp (t.modFrag x.gid x.fi m) x.gid = some (g.modFrag x.fi m) := by rw [grp_modFrag]; simp only [grp, hg, Option.map_some]
    exact ⟨_, f, ht, by rw [frag?_modFrag_self, hf]; rfl⟩

/-- An instruction that does nothing but go on. -/
theorem advance_step {s : State} {x : Ctx} (hi : s.issuer = some x) (len : Nat) (sp : Bool) :
    RegistersOnly x.gid s (advance s x len sp) ∧ GoesOn x (advance s x len sp) len 0 x.f.scc x.f.carry x.f.exec ∧
      ∃ g, grp (advance s x len sp) x.gid = some g ∧ GKeep Use.none x.g g ∧ GRegs x.g g := by
  obtain ⟨-, hg, -, hf⟩ := issuer_spec hi
  have ht : grp (advance s x len sp) x.gid = some (advanced s.clock x len sp x.g) := by
    rw [grp_advance]; simp only [grp, hg, Option.map_some]
  exact ⟨regs_advance _ _ _ _, goesOn_of ht hf (.refl _ _) rfl rfl rfl rfl rfl fun _ _ => rfl,
    _, ht, .advanced _ _ _ _ _ _, .advanced _ _ _ _ _⟩

/-! ### CALL, RET and JMPI -/

theorem regs_tapBranch (s : State) (x : Ctx) (kind target : Nat) : RegistersOnly x.gid s (tapBranch s x kind target) :=
  regs_tap _ _ _ _ _ _

@[simp] theorem grp_tapBranch (s : State) (x : Ctx) (gid kind target : Nat) : grp (tapBranch s x kind target) gid = grp s gid :=
  grp_tap _ _ _ _ _ _

/-- A jump to the address in a pair, an event for the Proctors on its way. -/
theorem jumpPair_step {s : State} {x : Ctx} {f : Lb} {i : Instr} {minor kind r : Nat}
    (h : CtlReady s x i (2 + tailLen f.lit f.sp) true (useOf (.spair false) (.s r))) (hok : lbFieldsOk minor f = fieldsOk i)
    (hs : sel10 f.sel = .s r) (ha : sval x.g true r % 4 = 0) :
    BranchStep s x (useOf (.spair false) (.s r)) (sval x.g true r) (jumpPair s f minor kind) := by
  obtain ⟨hr, hl⟩ := h
  obtain ⟨-, hg, -, hf⟩ := issuer_spec hr.1
  have ht : readSel s x none .n64 (lbView f).d 0 = sval x.g true r := by simp only [lbView, hs]; rfl
  unfold jumpPair
  rw [runCtl_go (by rw [hok]; simpa only [Option.elim_some, lbView, hs] using hr) hl]
  dsimp only
  rw [ht, if_neg (by simp [ha])]
  simp only [lbView, hs]
  generalize hrd : (useOf (.spair false) (.s r)).rd = rd
  have h1 : grp (tapBranch (useRegs s x rd) x kind (sval x.g true r)) x.gid = some (regsUsed x rd x.g) := by
    rw [grp_tapBranch, grp_useRegs]; simp only [grp, hg, Option.map_some]
  obtain ⟨h2, h3, h4, h5, -⟩ := branched_done f.sp.isSome hf h1 ((regs_useRegs s x rd).trans (regs_tapBranch _ _ _ _))
    (.regsUsed x x.g fun k hk => hrd ▸ hk) (by rw [regsUsed_rest]) (by rw [regsUsed_rest]) (by rw [regsUsed_rest]) (sval_pair_lt _ _)
  exact ⟨_, rfl, h2, h3, h4, h5⟩

/-- A jump to an address that is no multiple of 4. -/
theorem jumpPair_misaligned {s : State} {x : Ctx} {f : Lb} {i : Instr} {minor kind r : Nat}
    (h : CtlReady s x i (2 + tailLen f.lit f.sp) true (useOf (.spair false) (.s r))) (hok : lbFieldsOk minor f = fieldsOk i)
    (hs : sel10 f.sel = .s r) (ha : sval x.g true r % 4 ≠ 0) :
    ∃ t, jumpPair s f minor kind = .next t ∧ RegistersOnly x.gid s t ∧
      TrapTaken x t x.f.pc0 x.f.pc x.f.idx 0x07 (sval x.g true r) 0 x.f.scc (formatWords x.f) := by
  obtain ⟨hr, hl⟩ := h
  obtain ⟨-, hg, -, hf⟩ := issuer_spec hr.1
  have ht : readSel s x none .n64 (lbView f).d 0 = sval x.g true r := by simp only [lbView, hs]; rfl
  unfold jumpPair
  rw [runCtl_go (by rw [hok]; simpa only [Option.elim_some, lbView, hs] using hr) hl]
  dsimp only
  rw [ht, if_pos ha]
  exact ⟨_, rfl, regs_takeTrap _ _ _ _ _, trapTaken_takeTrap hg (.refl _) hf _ _ _⟩

/-- CALL: the pair holds the fall-through, and the fragment goes to the target. -/
theorem call_step {s : State} {x : Ctx} {f : Lb} {r : Nat} (hs : sel10 f.sel = .s r)
    (h : CtlReady s x (.call f) (2 + tailLen f.lit f.sp) true (useOf (.dstS true false) (.s r))) :
    ∃ t g, exec (.call f) s = .next t ∧ Tab.get? t.groups x.gid = some g ∧ sval g true r = x.f.fallThrough ∧
      BranchesTo x t (branchTarget x (sgn 32 f.w1.toNat)) ∧ RegistersOnly x.gid s t ∧ GroupKeeps x t (useOf (.dstS true false) (.s r)) ∧
      StickyIs x t x.g.sticky := by
  obtain ⟨hr, hl⟩ := h
  obtain ⟨-, hg, -, hf⟩ := issuer_spec hr.1
  have hw : keyS r ∈ (useOf (.dstS true false) (.s r)).wr ∧ keyS (r + 1) ∈ (useOf (.dstS true false) (.s r)).wr := by
    have hb := hr.not_bad
    unfold useOf at hb ⊢
    dsimp only at hb ⊢
    split at hb
    · cases hb
    · next hn => rw [if_neg hn]; exact ⟨key_span _ _ _, key_span_succ _ _⟩
  show ∃ t g, execCall f s = .next t ∧ _
  unfold execCall
  rw [runCtl_go (by rw [show lbFieldsOk 5 f = fieldsOk (.call f) from rfl]; simpa only [Option.elim_some, lbView, hs] using hr) hl]
  dsimp only
  simp only [lbView, hs, targetOf_eq]
  generalize hpc : branchTarget x (offsetOf f.w1) = pc
  have hlt : pc < 2 ^ 64 := hpc ▸ branchTarget_lt _ _
  have h1 : grp (tapBranch (writeUni s x (.s r) true x.f.fallThrough) x 0 pc) x.gid =
      some (scalarWritten x.g r true x.f.fallThrough) := by
    rw [grp_tapBranch]
    unfold writeUni
    rw [grp_writeScalar]; simp only [grp, hg, Option.map_some]
  obtain ⟨h2, h3, h4, h5, g, h6, h7⟩ := branched_done f.sp.isSome hf h1
    ((regs_writeUni s x (.s r) true x.f.fallThrough).trans (regs_tapBranch _ _ _ _)) (.scalarWritten _ _ _ _ _ hw.1 fun _ => hw.2)
    (split_scalarWritten _ _ _ _) (hmode_scalarWritten _ _ _ _) (sticky_scalarWritten _ _ _ _) hlt
  refine ⟨_, g, rfl, h6, ?_, hpc ▸ h2, h3, h4, h5⟩
  rw [sval_congr h7.s, sval_scalarWritten]
  exact Nat.mod_eq_of_lt (fallThrough_lt _)

/-- YIELD: the fragment goes on and is placed last. -/
theorem yield_step {s : State} {x : Ctx} {f : Lb} (h : CtlReady s x (.yield f) (2 + tailLen f.lit f.sp) false Use.none) :
    ∃ t, exec (.yield f) s = .next t ∧ RegistersOnly x.gid s t ∧ GroupKeeps x t Use.none ∧ StickyIs x t x.g.sticky ∧
      GoesOn x t (2 + tailLen f.lit f.sp) 0 x.f.scc x.f.carry x.f.exec ∧
      (x.f.isLast (2 + tailLen f.lit f.sp) = false ∨ ¬ MeetsRpc x x.f.fallThrough →
        ∃ g h, Tab.get? t.groups x.gid = some g ∧ g.frag? x.fi = some h ∧ h.yielded = true) := by
  obtain ⟨hr, hl⟩ := h
  obtain ⟨h1, h2, g, hg, hk, hgr⟩ := advance_step hr.1 (2 + tailLen f.lit f.sp) f.sp.isSome
  obtain ⟨h3, h4⟩ := h2.modFrag (fun h => { h with yielded := true }) fun _ => rfl
  have ht : grp ((advance s x (2 + tailLen f.lit f.sp) f.sp.isSome).modFrag x.gid x.fi fun h => { h with yielded := true }) x.gid =
      some (g.modFrag x.fi fun h => { h with yielded := true }) := by rw [grp_modFrag, hg]; rfl
  show ∃ t, execYield f s = .next t ∧ _
  unfold execYield
  rw [runCtl_go hr fun e => by cases e]
  refine ⟨_, rfl, h1.trans (regs_modFrag _ _ _ _), GKeep.to_keeps ht (hk.trans (.modFrag _ _ _ _)),
    ⟨_, ht, (sticky_modFrag _ _ _).trans hgr.sticky⟩, h3, fun ha => ?_⟩
  obtain ⟨g2, f2, hg2, hf2⟩ := h4 ha
  exact ⟨g2, _, hg2, hf2, rfl⟩

/-- NOP goes on. -/
theorem nop_step {s : State} {x : Ctx} (n : NopF) (hi : s.issuer = some x) :
    ∃ t, exec (.nop n) s = .next t ∧ RegistersOnly x.gid s t ∧ GroupKeeps x t Use.none ∧ StickyIs x t x.g.sticky ∧
      GoesOn x t (1 + tailLen none n.sp) 0 x.f.scc x.f.carry x.f.exec := by
  obtain ⟨h1, h2, g, hg, hk, hgr⟩ := advance_step hi (1 + tailLen none n.sp) n.sp.isSome
  exact ⟨_, withIssuer_eq hi _, h1, GKeep.to_keeps hg hk, ⟨g, hg, hgr.sticky⟩, h2⟩

/-- BRZ: a register or pair is tested. -/
theorem brz_step {s : State} {x : Ctx} {f : Lb} {r : Nat} (hs : sel10 f.sel = .s r)
    (h : CtlReady s x (.brz f) (2 + tailLen f.lit f.sp) true
      (useOf (if bitAt f.lo.toNat 5 then .spair false else .sreg) (.s r))) :
    BranchStep s x (useOf (if bitAt f.lo.toNat 5 then .spair false else .sreg) (.s r))
      (if sval x.g (bitAt f.lo.toNat 5) r = 0 then branchTarget x (sgn 32 f.w1.toNat) else x.f.fallThrough) (exec (.brz f) s) := by
  obtain ⟨hr, hl⟩ := h
  show BranchStep _ _ _ _ (execBrz f s)
  unfold execBrz
  dsimp only
  rw [runCtl_go (by rw [show lbFieldsOk 2 f = fieldsOk (.brz f) from rfl]; simpa only [Option.elim_some, lbView, hs] using hr) hl]
  have hv : readSel s x none (if bitAt f.lo.toNat 5 then Kind.spair false else .sreg).ty (lbView f).d 0 =
      sval x.g (bitAt f.lo.toNat 5) r := by
    simp only [lbView, hs]
    cases bitAt f.lo.toNat 5 <;> rfl
  simp only [hv, beq_iff_eq, targetOf_eq]
  simp only [lbView, hs]
  exact branch_step _ hr.1 (fun _ hk => hk) (ite_lt (branchTarget_lt _ _) (fallThrough_lt _))

theorem fieldsOk_jmpShort (b : Br) : fieldsOk (.jmpShort b) = (b.cond == 0) := by
  simp [fieldsOk, Instr.enc, Enc.fieldsOk]

/-- Settles O15: each control instruction is a branch to its target, a step to the next instruction, or a trap. -/
theorem branches : Obligations.Branches := by
  unfold Obligations.Branches
  refine ⟨?taken, ?misaligned⟩
  case taken =>
    intro s x f b n len far near sel w64 useZ useC useR
    refine ⟨?jmp, ?brs, ?brz, ?call, ?ret, ?jmpi, ?jmpShort, ?brsShort, yield_step, nop_step n⟩
    case jmp =>
      rintro ⟨hr, hl⟩
      show BranchStep _ _ _ _ (execJmp f s)
      unfold execJmp
      rw [runCtl_go hr hl]
      exact plain_branch_step _ hr.1 (branchTarget_lt _ _)
    case brs =>
      rintro ⟨hr, hl⟩
      show BranchStep _ _ _ _ (execBrs f s)
      unfold execBrs
      rw [runCtl_go hr hl]
      simp only [beq_iff_eq, targetOf_eq]
      exact plain_branch_step _ hr.1 (ite_lt (branchTarget_lt _ _) (fallThrough_lt _))
    case brz =>
      intro r hs h
      simp only [useZ, sel, w64, hs] at h ⊢
      exact brz_step hs h
    case call =>
      intro r hs h
      simp only [useC, sel, hs] at h ⊢
      exact call_step hs h
    case ret =>
      intro r hs ha h
      simp only [useR, sel, hs] at h ⊢
      exact jumpPair_step h rfl hs ha
    case jmpi =>
      intro r hs ha h
      simp only [useR, sel, hs] at h ⊢
      exact jumpPair_step h rfl hs ha
    case jmpShort =>
      rintro ⟨hr, hl⟩
      show BranchStep _ _ _ _ (execJmpShort b s)
      unfold execJmpShort
      rw [fieldsOk_jmpShort] at hr
      rw [runCtl_go hr hl]
      exact plain_branch_step _ hr.1 (branchTarget_lt _ _)
    case brsShort =>
      rintro ⟨hr, hl⟩
      show BranchStep _ _ _ _ (execBrsShort b s)
      unfold execBrsShort
      rw [runCtl_go hr hl]
      simp only [beq_iff_eq, targetOf_eq]
      exact plain_branch_step _ hr.1 (ite_lt (branchTarget_lt _ _) (fallThrough_lt _))
  case misaligned =>
    intro s x f r hs ha
    exact ⟨fun h => jumpPair_misaligned h rfl hs ha, fun h => jumpPair_misaligned h rfl hs ha⟩

end Sys2Proof
end

section

namespace Sys2Proof

open Sys2Proof.Machine

/-! ### A misaligned atomic on a page that faults (R146, R149, R301)

The fault event takes one name, and the entry of the fault queue that is written at once takes another for its posted store. -/

/-- A fragment at word 1 of a clause of seven words, with lane 0 alone in EXEC. -/
def loneLaneFrag : Frag :=
  { firstFrag 0x1000 0 with hdr := plainHeader 0 7, words := List.replicate 7 0x3F000000, idx := 1, exec := 1 }

/-- Its group: V0:V1 holds the address 0x41 in lane 0. -/
def loneLaneGroup : Group := { Group.blank 0 0x1000 with vcount := 16, v := [(0, [0x41])], split := [(0, .frag loneLaneFrag)] }

/-- The group is in slot 0 of core 0, no page table is set, and the fault queue is empty. -/
def unmappedState : State := { State.reset with groups := [(0, loneLaneGroup)], cur := some (0, 0) }

def loneLaneCtx : Ctx := { gid := 0, fi := 0, g := loneLaneGroup, f := loneLaneFrag }

/-- GATOM of four bytes at V0:V1, with destination V8 and data V2. -/
def misalignedAtom : La :=
  { sp := none, aop := 0, fs := false, d := 8, ty := 0, cmp := 0, data := 2, addr := 0, order := 0, scope := 0, off := 0, lit := none }

/-- A load or store encoding, of which nothing is asked. -/
def plainLoad : Lm :=
  { sp := none, nt := false, sx := false, size := 2, fs := false, d := 8, off := 0, scope := 0, order := 0, addr := 0, lit := none }

/-- The name that a step leaves for the next operation or event. -/
def nextNameAfter : Host.Outcome State Fault Refusal → Option Nat
  | .next t => some t.nextOp
  | _ => none

/-- The hypotheses of the fault's case hold. -/
theorem misalignedAtom_faults :
    let i := laIssue 0 false true misalignedAtom loneLaneCtx
    let o := alignOp unmappedState loneLaneCtx i .atomic 4
    (unmappedState.issuer = some loneLaneCtx ∧ i.ok = true ∧ operandGate unmappedState loneLaneCtx i.use = .go) ∧
      i.addrs.find? (fun b => b.2 % 4 != 0) = some (0, 0x41) ∧ allTranslated unmappedState loneLaneCtx.g.uid = true ∧
      faultsOf (translatePages unmappedState (opXer o) .atomic false (pagesOf o)).2.2 ≠ [] := by
  decide

/-- Two names are taken: the event's, and that of the store of its entry. -/
theorem nextNameAfter_misalignedAtom :
    nextNameAfter (exec (.gatom misalignedAtom) unmappedState) = some (unmappedState.nextOp + 2) := by
  decide

/-- Refutes O25: where a page of a misaligned atomic faults and the fault queue has room, the entry is written in the same step under a
name of its own, so the next name is not the one after the event's. -/
theorem not_memoryIssueStops : ¬ Obligations.MemoryIssueStops := by
  unfold Obligations.MemoryIssueStops
  intro h
  obtain ⟨⟨hissuer, hok, hgate⟩, hmis, htr, hfault⟩ := misalignedAtom_faults
  obtain ⟨-, hstop, -⟩ := h unmappedState loneLaneCtx plainLoad misalignedAtom hissuer
    (.gatom misalignedAtom, laIssue 0 false true misalignedAtom loneLaneCtx, .atomic) (by simp [memForms]) hok hgate
  obtain ⟨-, hglobal⟩ := hstop 4 (0, 0x41) rfl hmis
  obtain ⟨-, hpark⟩ := hglobal rfl htr
  obtain ⟨t, _, _, ht, -, hnext, -⟩ := hpark hfault
  have h2 := nextNameAfter_misalignedAtom
  rw [show exec _ unmappedState = .next t from ht] at h2
  simp [nextNameAfter, hnext] at h2

end Sys2Proof
end

section

namespace Sys2Proof.Machine

/-! ### Groups and operations across the homes, links and fault queues

What a request to a home, a message or a fault-queue entry changes lies in memory, homes, links and front ends. -/

/-- Groups and operations are as before. -/
abbrev SameWork (s t : State) : Prop := t.groups = s.groups ∧ t.ops = s.ops

theorem SameWork.trans {s t u : State} (h : SameWork s t) (k : SameWork t u) : SameWork s u := ⟨k.1.trans h.1, k.2.trans h.2⟩

theorem SameWork.foldl {α : Type} {f : State → α → State} (h : ∀ t a, SameWork t (f t a)) (l : List α) (s : State) :
    SameWork s (l.foldl f s) := by
  induction l generalizing s with
  | nil => exact ⟨rfl, rfl⟩
  | cons a r ih => exact (h s a).trans (ih _)

@[simp] theorem work_tapEvent (s : State) (port : Nat) (ev : PrEvent) : SameWork s (tapEvent s port ev) := by
  unfold tapEvent
  dsimp only
  split
  · exact ⟨rfl, rfl⟩
  · split
    · exact ⟨rfl, rfl⟩
    · refine .foldl (fun _ _ => ?_) _ _
      exact ⟨rfl, rfl⟩

@[simp] theorem work_tap (s : State) (port src : Nat) (part : Option Nat) (e : List Nat) : SameWork s (tap s port src part e) :=
  work_tapEvent _ _ _

@[simp] theorem work_budgetUse (s : State) (slice part cls n : Nat) : SameWork s (budgetUse s slice part cls n) := by
  unfold budgetUse
  split <;> exact ⟨rfl, rfl⟩

@[simp] theorem work_onWire (s : State) (a b : Nat) (r : FlitRef) : SameWork s (onWire s a b r) := ⟨rfl, rfl⟩

@[simp] theorem work_askSnoop (s : State) (line halves : Nat) (data : Bool) : SameWork s (askSnoop s line halves data) := ⟨rfl, rfl⟩

@[simp] theorem work_sendNew (s : State) (a b j : Nat) (q : Pair) : SameWork s (sendNew s a b j q) := by
  unfold sendNew
  (repeat' split) <;> simp [SameWork]

@[simp] theorem work_sendOut (s : State) (a b : Nat) (r : FlitRef) : SameWork s (sendOut s a b r) := ⟨rfl, rfl⟩

@[simp] theorem work_pumpGo (n : Nat) (s : State) (a b : Nat) : SameWork s (pumpGo n s a b) := by
  induction n generalizing s with
  | zero => exact ⟨rfl, rfl⟩
  | succ n ih =>
    unfold pumpGo
    dsimp only
    (repeat' split) <;> simp [SameWork, ih]

@[simp] theorem work_send (s : State) (i j : Nat) (m : Msg) : SameWork s (send s i j m) := by
  unfold send pump
  simp [SameWork]

@[simp] theorem work_probeHolders (s : State) (line : Nat) : SameWork s (probeHolders s line) := by
  unfold probeHolders
  exact SameWork.trans (t := s.modHline line _) ⟨rfl, rfl⟩ (.foldl (fun t c => work_send t _ _ _) _ _)

@[simp] theorem work_probeAndReply (s : State) (line : Nat) (reply : Option (Nat × Msg)) (job : Option Nat) (src : Option (Nat × Bool)) :
    SameWork s (probeAndReply s line reply job src) := by
  unfold probeAndReply
  dsimp only
  (repeat' split) <;> simp [SameWork]

@[simp] theorem work_evictLine (s : State) (slice line : Nat) : SameWork s (evictLine s slice line) := ⟨rfl, rfl⟩

@[simp] theorem work_allocLine (s : State) (part line mask : Nat) : SameWork s (allocLine s part line mask) := by
  unfold allocLine
  dsimp only
  (repeat' split) <;> simp [SameWork]

@[simp] theorem work_touchLine (s : State) (part line : Nat) : SameWork s (touchLine s part line) := by
  unfold touchLine
  split <;> simp [SameWork]

@[simp] theorem work_leaveLine (s : State) (line : Nat) : SameWork s (leaveLine s line) := by
  unfold leaveLine
  split <;> exact ⟨rfl, rfl⟩

@[simp] theorem work_freeDeclared (s : State) (team : Option Nat) (pa n : Nat) : SameWork s (freeDeclared s team pa n) := by
  unfold freeDeclared
  split <;> exact ⟨rfl, rfl⟩

@[simp] theorem work_freeWritten (s : State) (line : Nat) (bytes : Tab Byte) : SameWork s (freeWritten s line bytes) := by
  unfold freeWritten
  split
  · exact ⟨rfl, rfl⟩
  · exact .foldl (fun t b => work_freeDeclared t _ _ _) _ _

@[simp] theorem work_mergeLine (s : State) (part line : Nat) (bytes : Tab Byte) (pts : Option Nat) :
    SameWork s (mergeLine s part line bytes pts).1 := by
  unfold mergeLine
  simp [SameWork]

@[simp] theorem work_deviceWrite (s : State) (part : Nat) (job : Option Nat) (pa : Nat) (bs : List Byte) :
    SameWork s (deviceWrite s part job pa bs) := by
  unfold deviceWrite
  refine .foldl (fun t l => ?_) _ _
  simp [SameWork]

/-- A write that must wait has asked for snoops, and no more. -/
theorem writeGate_asks {s t : State} {pa n : Nat} (h : writeGate s pa n = some t) : SameWork s t ∧ t.mem = s.mem := by
  unfold writeGate at h
  dsimp only at h
  split at h
  · obtain rfl := Option.some.inj h
    refine List.foldlRecOn (motive := fun (b : State × Bool) => SameWork s b.1 ∧ b.1.mem = s.mem) _ _ ⟨⟨rfl, rfl⟩, rfl⟩ fun b hb a _ => ?_
    split
    · exact hb
    · exact ⟨hb.1.trans (work_askSnoop _ _ _ _), hb.2⟩
  · cases h

@[simp] theorem work_fqDone (s : State) (part : Nat) : SameWork s (fqDone s part) := by
  unfold fqDone
  (repeat' split) <;> exact ⟨rfl, rfl⟩

@[simp] theorem work_drainFaults (n : Nat) (s : State) (part : Nat) : SameWork s (drainFaults n s part) := by
  induction n generalizing s with
  | zero => exact ⟨rfl, rfl⟩
  | succ n ih =>
    unfold drainFaults
    dsimp only
    split
    · exact ⟨rfl, rfl⟩
    · split
      · exact ⟨rfl, rfl⟩
      · split
        · next hg => exact (writeGate_asks hg).1
        · refine SameWork.trans ?_ (ih _)
          split <;> simp [SameWork]

@[simp] theorem work_faultEvent (s : State) (part port : Nat) (agent : Agent) (es : List FEntry) :
    SameWork s (faultEvent s part port agent es).1 := by
  unfold faultEvent
  dsimp only
  refine SameWork.trans ?_ (work_drainFaults _ _ _)
  refine SameWork.trans ?_ (.foldl (fun t e => work_tap t _ _ _ _) _ _)
  exact ⟨rfl, rfl⟩

/-! ### Using a leaf (R294, R297) -/

@[simp] theorem work_orLeaf (s : State) (part pte bits : Nat) : SameWork s (orLeaf s part pte bits).1 := by
  unfold orLeaf
  split
  · next hg => exact (writeGate_asks hg).1
  · simp [SameWork]

theorem mem_orLeaf_none {s : State} {part pte bits : Nat} (h : (orLeaf s part pte bits).2 = none) :
    (orLeaf s part pte bits).1.mem = s.mem := by
  unfold orLeaf at h ⊢
  split
  · next hg => exact (writeGate_asks hg).2
  · next hg => rw [hg] at h; cases h

@[simp] theorem work_setBits (s : State) (part : Nat) (p : Leaf) (bits : Nat) : SameWork s (setBits s part p bits).1 := by
  have h := work_orLeaf s part p.pte bits
  unfold setBits
  (repeat' split) <;> simp_all [SameWork]

/-- Bits that cannot be set yet leave memory as it is. -/
theorem mem_setBits_wait {s : State} {part : Nat} {p : Leaf} {bits : Nat} {f : XFault} (h : (setBits s part p bits).2 = .error f)
    (hf : f.code = 0) : (setBits s part p bits).1.mem = s.mem := by
  have hw := mem_orLeaf_none (s := s) (part := part) (pte := p.pte) (bits := bits)
  unfold setBits at h ⊢
  (repeat' split) <;> simp_all
  all_goals (subst h; simp at hf)

@[simp] theorem work_fillTlb (s : State) (x : Xer) (l : Leaf) (va : Nat) : SameWork s (fillTlb s x l va) := by
  unfold fillTlb
  dsimp only
  (repeat' split) <;> exact ⟨rfl, rfl⟩

@[simp] theorem work_dropLeaf (s : State) (l : Leaf) : SameWork s (dropLeaf s l) := ⟨rfl, rfl⟩

@[simp] theorem work_useLeaf (s : State) (x : Xer) (l : Leaf) (va : Nat) (kind : AccKind) : SameWork s (useLeaf s x l va kind).1 := by
  have h := work_setBits s x.part (plainOf l va) (adBits kind)
  unfold useLeaf
  dsimp only
  (repeat' split) <;> simp_all [SameWork]

/-- A leaf that cannot be used yet leaves memory as it is. -/
theorem mem_useLeaf_wait {s : State} {x : Xer} {l : Leaf} {va : Nat} {kind : AccKind} (h : isWaiting (useLeaf s x l va kind).2 = true) :
    (useLeaf s x l va kind).1.mem = s.mem := by
  have hw := @mem_setBits_wait s x.part (plainOf l va) (adBits kind)
  unfold useLeaf at h ⊢
  dsimp only at h ⊢
  split
  · rfl
  · split
    · simp_all [isWaiting]
    · next hb =>
      rw [hb] at hw
      simp_all [isWaiting]

end Sys2Proof.Machine
end

section

namespace Sys2Proof.Machine

/-! ### Translation of an operation (R149)

What translation makes of the operation that it is for: the pages found and those that failed, and at its end where its accesses lie. -/

/-- `p` is `o` further on in its translation: a prefetch may have lost accesses (R154). -/
structure Op.TranslatesTo (o p : Op) : Prop where
  rest : p = { o with stage := p.stage, pages := p.pages, walk := p.walk, found := p.found, bad := p.bad, acc := p.acc }
  some_of : accessesOf p.acc ⊆ accessesOf o.acc
  all_of : o.kind ≠ .prefetch → accessesOf p.acc = accessesOf o.acc

theorem Op.TranslatesTo.trans {o p q : Op} (h : o.TranslatesTo p) (k : p.TranslatesTo q) : o.TranslatesTo q where
  rest := by rw [k.rest, h.rest]
  some_of := List.Subset.trans k.some_of h.some_of
  all_of ho := by rw [k.all_of (by rw [h.rest]; exact ho), h.all_of ho]

theorem accessesOf_map (l : List Acc) (f : Acc → Acc)
    (h : ∀ a, ((f a).lane, (f a).va, (f a).n, (f a).off, (f a).data) = (a.lane, a.va, a.n, a.off, a.data)) :
    accessesOf (l.map f) = accessesOf l := by
  unfold accessesOf
  rw [List.map_map]
  exact List.map_congr_left fun a _ => h a

/-- A change that leaves the accesses alone. -/
theorem Op.TranslatesTo.of_acc {o p : Op}
    (h : p = { o with stage := p.stage, pages := p.pages, walk := p.walk, found := p.found, bad := p.bad }) : o.TranslatesTo p where
  rest := by rw [h]
  some_of := by rw [h]; exact List.Subset.refl _
  all_of _ := by rw [h]

/-- A change of where the accesses lie and how far they are. -/
theorem Op.TranslatesTo.of_map {o p : Op} (f : Acc → Acc)
    (h : p = { o with stage := p.stage, pages := p.pages, walk := p.walk, found := p.found, bad := p.bad, acc := o.acc.map f })
    (hf : ∀ a, ((f a).lane, (f a).va, (f a).n, (f a).off, (f a).data) = (a.lane, a.va, a.n, a.off, a.data)) : o.TranslatesTo p := by
  have ha : accessesOf p.acc = accessesOf o.acc := by
    rw [h]
    exact accessesOf_map _ _ hf
  exact ⟨by rw [h], ha ▸ List.Subset.refl _, fun _ => ha⟩

/-- Nothing has been found or refused yet. -/
def Op.Untouched (o : Op) : Prop := o.stage = .translate ∧ o.found = [] ∧ o.bad = []

/-- In `t` the operation stands further on than in `s`; memory is as it was while nothing has been found or refused. -/
def Translating (id : Nat) (o : Op) (s t : State) : Prop :=
  t.groups = s.groups ∧ ∃ p, Tab.get? t.ops id = some p ∧ o.TranslatesTo p ∧ (p.Untouched → o.found = [] ∧ o.bad = [] ∧ t.mem = s.mem)

theorem groupBy_congr {s t : State} (h : t.groups = s.groups) (uid : Nat) : groupBy t uid = groupBy s uid := by
  unfold groupBy
  rw [h]

/-- The operation becomes `f o`, with work and memory else as in `s`. -/
theorem Translating.modOp {s t : State} {id : Nat} {o : Op} {f : Op → Op} (hs : SameWork s t) (ho : Tab.get? s.ops id = some o)
    (hf : o.TranslatesTo (f o)) (hu : (f o).Untouched → o.found = [] ∧ o.bad = [] ∧ t.mem = s.mem) : Translating id o s (t.modOp id f) := by
  refine ⟨hs.1, f o, ?_, hf, hu⟩
  simp only [State.modOp]
  rw [Tab.get?_upd_self, hs.2, ho]
  rfl

theorem work_dropPrefetch (s : State) (o : Op) (page : Nat) : SameWork s (dropPrefetch s o page) :=
  .foldl (fun t _ => work_tap t _ _ _ _) _ _

/-- An operation that stops at a fault event. -/
theorem faultOp_translating {s : State} {id : Nat} {o : Op} (bad : List (Nat × Nat × Nat × Nat)) (ho : Tab.get? s.ops id = some o)
    (hg : (groupBy s o.uid).isSome) : Translating id o s (faultOp s id o bad) := by
  unfold faultOp
  split
  · next hf =>
    refine ⟨rfl, o, ho, .of_acc rfl, fun h => ?_⟩
    simp [Op.isFaulted, h.1] at hf
  · dsimp only
    rw [if_neg (by simpa [Option.isSome_iff_ne_none] using hg)]
    refine .modOp (work_faultEvent _ _ _ _ _) ho ?_ fun h => nomatch h.1
    split
    · refine .of_map _ rfl fun a => ?_
      split <;> rfl
    · exact .of_map _ rfl fun _ => rfl

/-- The end of a translation. -/
theorem endTranslate_translating {s : State} {id : Nat} {o : Op} (ho : Tab.get? s.ops id = some o)
    (hg : (groupBy s o.uid).isSome) : Translating id o s (endTranslate s id o) := by
  unfold endTranslate
  dsimp only
  split
  · next hk =>
    refine .modOp (.foldl (fun t _ => work_dropPrefetch t o _) _ _) ho ⟨rfl, ?_, fun h => absurd hk h⟩ fun h => nomatch h.1
    rw [accessesOf_map _ _ fun a => by split <;> rfl]
    exact List.map_subset _ (List.filter_subset_self _)
  · split
    · refine .modOp ⟨rfl, rfl⟩ ho (.of_map _ rfl fun a => ?_) fun h => nomatch h.1
      split <;> rfl
    · exact faultOp_translating _ ho hg

/-- One page is done: something has been found or refused. -/
theorem pageDone_touches (s : State) (id page : Nat) (r : XRes) {o : Op} (ho : Tab.get? s.ops id = some o) :
    ∃ p, Tab.get? (pageDone s id page r).ops id = some p ∧ o.TranslatesTo p ∧ ¬ (p.found = [] ∧ p.bad = []) := by
  unfold pageDone
  simp only [State.modOp]
  rw [Tab.get?_upd_self, ho]
  refine ⟨_, rfl, ?_⟩
  split
  · exact ⟨.of_acc rfl, by simp⟩
  · exact ⟨.of_acc rfl, by simp⟩

/-- A page is done with: either the translation waits as it stands, or it goes on from the page's result. -/
theorem Translating.of_page {s u t : State} {id page : Nat} {o : Op} (r : XRes) (hs : SameWork s u) (ho : Tab.get? s.ops id = some o)
    (ht : ∀ p, Tab.get? (pageDone u id page r).ops id = some p → o.TranslatesTo p → Translating id p (pageDone u id page r) t) :
    Translating id o s t := by
  obtain ⟨p, hp, hop, hne⟩ := pageDone_touches u id page r (hs.2 ▸ ho)
  obtain ⟨hgr, q, hq, hpq, hun⟩ := ht p hp hop
  exact ⟨hgr.trans hs.1, q, hq, hop.trans hpq, fun h => absurd ⟨(hun h).1, (hun h).2.1⟩ hne⟩

/-- What `goTranslate` does with a page's result. -/
theorem goTranslate_page {n : Nat} {s u : State} {id page : Nat} {o : Op} (r : XRes)
    (ih : ∀ k, n = k + 1 → ∀ {s : State} {o : Op}, Tab.get? s.ops id = some o → (groupBy s o.uid).isSome → Translating id o s (goTranslate k s id))
    (ho : Tab.get? s.ops id = some o) (hg : (groupBy s o.uid).isSome) (hs : SameWork s u) (hm : isWaiting r = true → u.mem = s.mem) :
    Translating id o s (if isWaiting r then u else match (generalizing := false) n with
      | 0 => pageDone u id page r
      | k + 1 => goTranslate k (pageDone u id page r) id) := by
  split
  · next hw => exact ⟨hs.1, o, hs.2 ▸ ho, .of_acc rfl, fun h => ⟨h.2.1, h.2.2, hm hw⟩⟩
  · refine .of_page (page := page) r hs ho fun p hp hop => ?_
    cases n with
    | zero => exact ⟨rfl, p, hp, .of_acc rfl, fun h => ⟨h.2.1, h.2.2, rfl⟩⟩
    | succ k =>
      refine ih k rfl hp ?_
      rw [groupBy_congr (show (pageDone u id page r).groups = s.groups from hs.1), hop.rest]
      exact hg

/-- Translation in order, until a page needs a walk. -/
theorem goTranslate_translating (n : Nat) {s : State} {id : Nat} {o : Op} (ho : Tab.get? s.ops id = some o)
    (hg : (groupBy s o.uid).isSome) : Translating id o s (goTranslate n s id) := by
  induction n using Nat.strong_induction_on generalizing s o with
  | _ n ih =>
    have page (u : State) (p : Nat) (r : XRes) (hs : SameWork s u) (hm : isWaiting r = true → u.mem = s.mem) :=
      goTranslate_page (page := p) r (fun k (hk : n = k + 1) _ _ h1 h2 => ih k (by omega) h1 h2) ho hg hs hm
    have same : Translating id o s s := ⟨rfl, o, ho, .of_acc rfl, fun h => ⟨h.2.1, h.2.2, rfl⟩⟩
    unfold goTranslate
    simp only [ho]
    split
    · exact endTranslate_translating ho hg
    · split
      · exact page _ _ _ ⟨rfl, rfl⟩ fun _ => rfl
      · split
        · exact page _ _ _ (work_useLeaf _ _ _ _ _) mem_useLeaf_wait
        · split
          · exact same
          · split
            · exact .modOp ⟨rfl, rfl⟩ ho (.of_acc rfl) fun h => ⟨h.2.1, h.2.2, rfl⟩
            · exact page _ _ _ ⟨rfl, rfl⟩ fun _ => rfl
            · exact same

/-- An operation with its pages to be translated. -/
def Op.toTranslate (ps : List Nat) (o : Op) : Op := { o with stage := .translate, pages := ps, found := [], bad := [], walk := none }

/-- The start of a translation. -/
theorem beginTranslate_translating {s : State} {id : Nat} {o : Op} (ho : Tab.get? s.ops id = some o)
    (hg : (groupBy s o.uid).isSome) :
    (beginTranslate s id).groups = s.groups ∧ ∃ p, Tab.get? (beginTranslate s id).ops id = some p ∧ o.TranslatesTo p ∧
      (p.Untouched → (beginTranslate s id).mem = s.mem) := by
  have hb : Tab.get? (s.modOp id (Op.toTranslate (pagesOf o))).ops id = some (o.toTranslate (pagesOf o)) := by
    simp only [State.modOp]
    rw [Tab.get?_upd_self, ho]
    rfl
  obtain ⟨hgr, p, hp, hop, hun⟩ := goTranslate_translating ((pagesOf o).length + 1) hb hg
  unfold beginTranslate
  simp only [ho]
  exact ⟨hgr, p, hp, .trans (.of_acc rfl) hop, fun hu => (hun hu).2.2⟩

end Sys2Proof.Machine
end

section

namespace Sys2Proof

open Sys2Proof.Machine

/-! ### Issue of a memory operation (R30, R42, R75, R151) -/

/-- The state in which a memory instruction has read its registers and queues. -/
def memRead (s : State) (x : Ctx) (u : Use) : State := (useRegs s x u.rd).modGroup x.gid fun g => popQueues g u.qs

theorem runMem_go {s : State} {x : Ctx} {mk : Ctx → MemIssue} {kind : AccKind} (k : Ctx → State → State) (h : MemReady s x (mk x) kind) :
    runMem s mk kind k = .next (advance (k x (memRead s x (mk x).use)) x (mk x).len (mk x).sp) := by
  obtain ⟨hi, hok, hgate, hexec, halign, hwaits, hhit, hflag, htr, hrep, hlink⟩ := h
  have h1 : ((mk x).vector && x.f.exec == 0) = false := by
    cases hv : (mk x).vector
    · rfl
    · simpa using hexec hv
  have h2 : ((mk x).replay && decide (16 ≤ replayable s x.g.uid)) = false := by
    cases hv : (mk x).replay
    · rfl
    · simpa using hrep hv
  have h3 (n : Nat) (ha : (mk x).align = some n) : ((mk x).addrs.find? fun a => decide (a.2 % n ≠ 0)) = none := by
    rw [List.find?_eq_none]
    intro a hm
    simp [halign n ha a hm]
  unfold runMem
  rw [withIssuer_eq hi]
  cases ha : (mk x).align with
  | none => simp only [hok, hgate, h1, ha, hwaits, hhit, hflag, htr, h2, hlink, Bool.not_true, Bool.false_eq_true, if_false]; rfl
  | some n => simp only [hok, hgate, h1, ha, h3 n ha, hwaits, hhit, hflag, htr, h2, hlink, Bool.not_true, Bool.false_eq_true, if_false]; rfl

/-- The group of the issuing fragment once the operation named `id` stands: its flag counted and its destinations pending. -/
def opened (x : Ctx) (u : Use) (flag : Option Nat) (id : Nat) (pend : List Nat) (g : Group) : Group :=
  markPend (countFlag (popQueues (regsUsed x u.rd g) u.qs) flag) id pend

/-- The counters with one more operation in the flag. -/
def flagCounted (fcnt : List Nat) (flag : Option Nat) : List Nat := flag.elim fcnt fun n => updNth fcnt n (· + 1)

theorem countFlag_rest (g : Group) (flag : Option Nat) : countFlag g flag = { g with fcnt := flagCounted g.fcnt flag } := by
  cases flag <;> rfl

theorem markPend_rest (g : Group) (id : Nat) (keys : List Nat) :
    markPend g id keys = { g with pend := (markPend g id keys).pend, note := (markPend g id keys).note } := by
  unfold markPend
  refine List.foldlRecOn (motive := fun h : Group => h = { g with pend := h.pend, note := h.note }) keys _ rfl fun h hh k _ => ?_
  rw [hh]

theorem pend_markPend (g : Group) (id : Nat) (keys : List Nat) (k : Nat) :
    Tab.get? (markPend g id keys).pend k = if k ∈ keys then some id else Tab.get? g.pend k := by
  unfold markPend
  induction keys generalizing g with
  | nil => simp
  | cons j r ih =>
    rw [List.foldl_cons, ih]
    by_cases hj : k = j
    · simp [hj]
    · simp [hj, Tab.get?_set_ne]

theorem opened_rest (x : Ctx) (u : Use) (flag : Option Nat) (id : Nat) (pend : List Nat) (g : Group) :
    opened x u flag id pend g = { g with
      note := (opened x u flag id pend g).note, queues := (opened x u flag id pend g).queues
      fcnt := flagCounted g.fcnt flag, pend := (opened x u flag id pend g).pend } := by
  unfold opened
  rw [markPend_rest, countFlag_rest]
  unfold popQueues
  rw [regsUsed_rest]

theorem pend_opened (x : Ctx) (u : Use) (flag : Option Nat) (id : Nat) (pend : List Nat) (g : Group) (k : Nat) :
    Tab.get? (opened x u flag id pend g).pend k = if k ∈ pend then some id else Tab.get? g.pend k := by
  unfold opened
  rw [pend_markPend, countFlag_rest]
  unfold popQueues
  rw [regsUsed_rest]

theorem regs_memRead (s : State) (x : Ctx) (u : Use) : RegistersOnly x.gid s (memRead s x u) :=
  (regs_useRegs s x u.rd).trans (regs_modGroup _ _ _)

theorem nextOp_memRead (s : State) (x : Ctx) (u : Use) : (memRead s x u).nextOp = s.nextOp := by
  rw [(regs_memRead s x u).rest]

theorem grp_memRead (s : State) (x : Ctx) (u : Use) :
    grp (memRead s x u) x.gid = (grp s x.gid).map fun g => popQueues (regsUsed x u.rd g) u.qs := by
  unfold memRead
  rw [grp_modGroup, grp_useRegs, Option.map_map]
  rfl

theorem grp_addOp_memRead (s : State) (x : Ctx) (u : Use) (o : Op) (pend : List Nat) :
    grp (addOp (memRead s x u) x o pend) x.gid = (grp s x.gid).map (opened x u o.flag s.nextOp pend) := by
  unfold addOp
  rw [grp_modGroup, nextOp_memRead]
  show (grp (memRead s x u) x.gid).map _ = _
  rw [grp_memRead, Option.map_map]
  rfl

theorem Tab.mem_of_get? {α : Type} {t : Tab α} {k : Nat} {v : α} (h : Tab.get? t k = some v) : (k, v) ∈ t := by
  induction t with
  | nil => cases h
  | cons e r ih =>
    obtain ⟨j, w⟩ := e
    unfold Tab.get? at h
    split at h
    · next e => cases h; simp [e]
    · exact List.mem_cons_of_mem _ (ih h)

theorem groupBy_isSome {s : State} {gid : Nat} {g : Group} (h : Tab.get? s.groups gid = some g) : (groupBy s g.uid).isSome := by
  unfold groupBy
  rw [List.find?_isSome]
  exact ⟨(gid, g), Tab.mem_of_get? h, by simp⟩

/-- The state in which a memory instruction has issued its operation. -/
def issuedAs (s : State) (x : Ctx) (u : Use) (o : Op) (pend : List Nat) (len : Nat) (sp : Bool) : State :=
  advance (beginTranslate (addOp (memRead s x u) x o pend) (memRead s x u).nextOp) x len sp

/-- Issue of an operation of the group: its registers, flag, pending marks and place, and how far the operation's translation has got. -/
theorem issuedAs_spec {s : State} {x : Ctx} (hi : s.issuer = some x) (u : Use) {o : Op} (pend : List Nat) (len : Nat) (sp : Bool)
    (hu : o.uid = x.g.uid) :
    let t := issuedAs s x u o pend len sp
    GroupCounts x t o.flag ∧ GoesOn x t len 0 x.f.scc x.f.carry x.f.exec ∧
      (∀ k, k ≠ x.gid → Tab.get? t.groups k = Tab.get? s.groups k) ∧
      (∃ g, Tab.get? t.groups x.gid = some g ∧ ∀ k, Tab.get? g.pend k = if k ∈ pend then some s.nextOp else Tab.get? x.g.pend k) ∧
      ∃ p, Tab.get? t.ops s.nextOp = some p ∧ o.TranslatesTo p ∧ (p.Untouched → t.mem = s.mem) := by
  obtain ⟨-, hg, -, hf⟩ := issuer_spec hi
  set a := addOp (memRead s x u) x o pend with ha
  have hread := regs_memRead s x u
  have hgrp : grp a x.gid = some (opened x u o.flag s.nextOp pend x.g) := by
    rw [ha, grp_addOp_memRead]; simp only [grp, hg, Option.map_some]
  have hop : Tab.get? a.ops s.nextOp = some o := by
    rw [ha, ← nextOp_memRead s x u]
    exact Tab.get?_set_self _ _ _
  have hby : (groupBy a o.uid).isSome := by
    have := groupBy_isSome hgrp
    rwa [opened_rest, ← hu] at this
  obtain ⟨hbg, p, hp, htr, hun⟩ := beginTranslate_translating hop hby
  have hadv := regs_advance (beginTranslate a s.nextOp) x len sp
  have ht : grp (advance (beginTranslate a s.nextOp) x len sp) x.gid =
      some (advanced (beginTranslate a s.nextOp).clock x len sp (opened x u o.flag s.nextOp pend x.g)) := by
    rw [grp_advance, show grp (beginTranslate a s.nextOp) x.gid = grp a x.gid by simp only [grp, hbg], hgrp]
    rfl
  have hfr : (opened x u o.flag s.nextOp pend x.g).frag? x.fi = some x.f := by rw [opened_rest]; exact hf
  have hgo := goesOn_of (hold := 0) ht hfr (.same _ _ _ (by rw [opened_rest]) (by rw [opened_rest])) rfl rfl rfl rfl rfl fun _ _ => rfl
  generalize hcl : (beginTranslate a s.nextOp).clock = clock at ht
  have hrest := (GKeep.advanced Use.none clock x len sp (opened x u o.flag s.nextOp pend x.g)).rest
  have hregs := GRegs.advanced clock x len sp (opened x u o.flag s.nextOp pend x.g)
  unfold issuedAs
  rw [nextOp_memRead, ← ha]
  refine ⟨⟨_, ht, ?vregs, ?sregs, ?sticky, ?trapcnt, ?nfail, ?fcnt⟩, hgo, fun k hk => ?others, ⟨_, ht, fun k => ?marks⟩, p, ?op, htr, fun h => ?mem⟩
  case vregs => rw [hregs.v, opened_rest]
  case sregs => rw [hregs.s, opened_rest]
  case sticky => rw [hregs.sticky, opened_rest]
  case trapcnt => rw [hrest, opened_rest]
  case nfail => rw [hrest, opened_rest]
  case fcnt =>
    rw [hrest, opened_rest]
    cases o.flag <;> rfl
  case others => rw [hadv.others k hk, hbg, ← hread.others k hk]; exact (regs_modGroup _ _ _).others k hk
  case marks => rw [hrest]; exact pend_opened _ _ _ _ _ _ _
  case op => rw [hadv.rest]; exact hp
  case mem => rw [hadv.mem_eq, hun h]; exact hread.mem_eq

/-- The fields that every operation of the issuing fragment has. -/
def Op.IsOf (x : Ctx) (o : Op) : Prop :=
  o.gid = x.gid ∧ o.uid = x.g.uid ∧ o.frag = x.f.id ∧ o.part = x.g.part ∧ o.lanes = x.f.exec

/-- Issue as the statements about memory operations put it. -/
theorem opIssued_issuedAs {s : State} {x : Ctx} (hi : s.issuer = some x) (u : Use) {o : Op} (pend : List Nat) (len : Nat) (sp : Bool)
    (ho : Op.IsOf x o) (hk : o.kind ≠ .prefetch) : OpIssued s x (issuedAs s x u o pend len sp) len o pend := by
  obtain ⟨hgid, huid, hfrag, hpart, hlanes⟩ := ho
  obtain ⟨hc, hgo, hoth, ⟨g, hg, hpend⟩, p, hp, htr, -⟩ := issuedAs_spec hi u pend len sp huid
  refine ⟨hc, hgo, hoth, g, p, hg, fun k hk => (hpend k).trans (if_pos hk), fun k hk => (hpend k).trans (if_neg hk), hp, ?_⟩
  rw [htr.all_of hk, htr.rest]
  exact ⟨rfl, hgid, huid, hfrag, hpart, rfl, rfl, hlanes, rfl, rfl, rfl, rfl, rfl, rfl, rfl, rfl, rfl, rfl⟩

/-- While no page has been found or refused, memory is as it was. -/
theorem mem_issuedAs {s : State} {x : Ctx} (hi : s.issuer = some x) (u : Use) {o : Op} (pend : List Nat) (len : Nat) (sp : Bool)
    (hu : o.uid = x.g.uid) (h : ∀ p, Tab.get? (issuedAs s x u o pend len sp).ops s.nextOp = some p →
      p.stage = .translate ∧ p.found = [] ∧ p.bad = []) (a : Nat) :
    (issuedAs s x u o pend len sp).mem.read a = s.mem.read a := by
  obtain ⟨-, -, -, -, p, hp, -, hun⟩ := issuedAs_spec hi u pend len sp hu
  rw [hun (h p hp)]

theorem runLm_step {s : State} {x : Ctx} {f : Lm} {minor : Nat} {uniform store : Bool}
    (h : MemReady s x (lmIssue 0x10 minor uniform store f x) (if store then .store else .load)) :
    runLm s minor uniform store f = .next (issuedAs s x (lmIssue 0x10 minor uniform store f x).use
      (lmOp s x (if store then .store else .load) uniform store f (lmIssue 0x10 minor uniform store f x))
      (if store then [] else spanKeys (loadRegs f.size.toNat) (sel10 f.d)) (2 + tailLen f.lit f.sp) f.sp.isSome) :=
  runMem_go _ h

/-- CPF leaves a prefetch, of accesses of its lanes' bytes. -/
theorem execCpf_step {s : State} {x : Ctx} {f : Lm} (h : MemReady s x (cpfIssue f x) .load) :
    ∃ t p, execCpf f s = .next t ∧ GroupCounts x t none ∧ GoesOn x t (2 + tailLen f.lit f.sp) 0 x.f.scc x.f.carry x.f.exec ∧
      Tab.get? t.ops s.nextOp = some p ∧ p.kind = .prefetch ∧ p.flag = none ∧ p.dest = none ∧ p.lanes = x.f.exec ∧
      ∀ a ∈ p.acc, ∃ b ∈ (cpfIssue f x).addrs, a.lane = b.1 ∧ a.va = b.2 % 2 ^ 64 := by
  obtain ⟨hc, hgo, -, -, p, hp, htr, -⟩ := issuedAs_spec h.1 (cpfIssue f x).use
    (o := { blankOp s x .prefetch none with nt := f.nt, acc := (cpfIssue f x).addrs.flatMap fun a => laneAccs a.1 a.2 1 [] })
    [] (2 + tailLen f.lit f.sp) f.sp.isSome rfl
  refine ⟨_, p, runMem_go _ h, hc, hgo, hp, by rw [htr.rest]; rfl, by rw [htr.rest]; rfl, by rw [htr.rest]; rfl,
    by rw [htr.rest]; rfl, fun a ha => ?_⟩
  have hm := htr.some_of (List.mem_map_of_mem ha)
  simp only [accessesOf, List.mem_map, List.mem_flatMap, Prod.mk.injEq] at hm
  obtain ⟨y, ⟨b, hb, hy⟩, hl, hv, -⟩ := hm
  refine ⟨b, hb, ?_⟩
  rw [← hl, ← hv]
  simp [laneAccs, Nat.mod_one] at hy
  simp [hy]

/-- Settles O22: each form issues its operation, and translation then leaves the operation as it was asked for. -/
theorem globalAccessesIssue : Obligations.GlobalAccessesIssue := by
  unfold Obligations.GlobalAccessesIssue
  refine ⟨fun s x f => ⟨fun u h => ?load, fun u h => ?store⟩, fun s x f h => execCpf_step h⟩
  case load =>
    cases u <;>
      exact ⟨_, runLm_step (store := false) h, opIssued_issuedAs h.1 _ _ _ _ ⟨rfl, rfl, rfl, rfl, rfl⟩ nofun, mem_issuedAs h.1 _ _ _ _ rfl⟩
  case store =>
    cases u <;>
      exact ⟨_, runLm_step (store := true) h, opIssued_issuedAs h.1 _ _ _ _ ⟨rfl, rfl, rfl, rfl, rfl⟩ nofun, mem_issuedAs h.1 _ _ _ _ rfl⟩

end Sys2Proof
end

section

namespace Sys2Proof

open Sys2Proof.Machine

/-! ### The fragment that a last EXIT has kept (R34)

`GroupForm` asks of the fragments in a split table that EXEC lies within their members, and nothing of the fragment that a group keeps from
its last EXIT. A note failure that is still to be raised brings that one back into the table. -/

/-- A kept fragment with lane 0 in EXEC and no members. -/
def strayFrag : Frag := { firstFrag 0x1000 0 with members := 0, exec := 1 }

/-- A group that is RETIRING with that fragment kept, an empty split table, a trap handler, and a failure recorded for flag 0. -/
def strayGroup : Group :=
  { Group.blank 0 0x1000 with
    state := .retiring, trapVa := 0x2000, split := [], exited := some (0, strayFrag)
    nrec := [(0, { pass := 0, cause := 1, raised := false })] }

def strayState : State := { State.reset with groups := [(0, strayGroup)] }

/-- EXEC of every fragment in a split table lies within its members. -/
def execWithin (s : State) : Bool := s.groups.all fun e => e.2.frags.all fun y => y.2.exec &&& ~~~y.2.members == 0

theorem execWithin_of_groupForm {s : State} (h : GroupForm s) : execWithin s = true := by
  unfold execWithin
  simp only [List.all_eq_true, beq_iff_eq]
  intro e he y hy
  obtain ⟨z, hz, hzy⟩ := List.mem_filterMap.mp hy
  refine (h e he).2 z hz y.2 ?_
  split at hzy
  · next f hf => cases hzy; exact hf
  · cases hzy

theorem groupForm_strayState : GroupForm strayState := by
  intro e he
  obtain rfl : e = (0, strayGroup) := List.mem_singleton.mp he
  exact ⟨by decide, fun y hy => nomatch hy⟩

/-- The step answers a state in which some fragment has a lane of EXEC outside its members. -/
def strays : Answer → Bool
  | .next t => !execWithin t
  | _ => false

theorem strays_step_strayState : strays (step strayState) = true := by decide

/-- Refutes O3: `GroupForm` says nothing of the fragment that the last EXIT has kept, and the step that raises the group's failure puts
that fragment back into the split table as it is. -/
theorem not_groupFormKept : ¬ Obligations.GroupFormKept := by
  unfold Obligations.GroupFormKept
  intro h
  have hs := strays_step_strayState
  cases ht : step strayState with
  | next t =>
    rw [ht] at hs
    simp [strays, execWithin_of_groupForm (h _ _ groupForm_strayState ht)] at hs
  | fault r => rw [ht] at hs; cases hs
  | refused r => rw [ht] at hs; cases hs

end Sys2Proof
end

section

namespace Sys2Proof.Machine

/-! ### Groups across reads, translation, sectors and entries

What a table walk, a read of a line, a host sector or an Attendance entry changes lies outside the groups. -/

@[simp] theorem groups_foldl {α : Type} (f : State → α → State) (h : ∀ s a, (f s a).groups = s.groups) (l : List α) (s : State) :
    (l.foldl f s).groups = s.groups := by
  induction l generalizing s with
  | nil => rfl
  | cons a r ih => rw [List.foldl_cons, ih, h]

@[simp] theorem groups_foldl_fst {α β : Type} (f : State × β → α → State × β) (h : ∀ s a, (f s a).1.groups = s.1.groups) (l : List α)
    (s : State × β) : (l.foldl f s).1.groups = s.1.groups := by
  induction l generalizing s with
  | nil => rfl
  | cons a r ih => rw [List.foldl_cons, ih, h]

@[simp] theorem groups_pump (s : State) (a b : Nat) : (pump s a b).groups = s.groups := by
  unfold pump
  simp

@[simp] theorem groups_loadPlain (s : State) (x : Xer) (l : Leaf) (va : Nat) (kind : AccKind) :
    (loadPlain s x l va kind).1.groups = s.groups := by
  have h := (work_setBits s x.part l (adBits kind)).1
  unfold loadPlain
  (repeat' split) <;> simp_all

@[simp] theorem groups_refuseBudget (s : State) (mc slice : Nat) (cls part gid : Nat) :
    (refuseBudget s mc slice cls part gid).groups = s.groups := by
  unfold refuseBudget
  simp

@[simp] theorem groups_readDone (s : State) (pa n : Nat) : (readDone s pa n).groups = s.groups := by
  unfold readDone
  refine groups_foldl _ (fun t a => ?_) _ _
  grind [State.modHline_groups]

@[simp] theorem groups_nearDrop (s : State) (chip line : Nat) : (nearDrop s chip line).groups = s.groups := by
  unfold nearDrop
  split <;> simp

@[simp] theorem groups_markSent (s : State) (id u : Nat) (b : Bool) : (markSent s id u b).groups = s.groups := rfl

@[simp] theorem groups_modSector (s : State) (chip key : Nat) (f : Sector → Sector) : (modSector s chip key f).groups = s.groups := rfl

@[simp] theorem groups_releaseOps (s : State) (chip key : Nat) : (releaseOps s chip key).groups = s.groups := by
  unfold releaseOps
  refine groups_foldl _ (fun t a => ?_) _ _
  grind [groups_markSent, groups_modSector]

@[simp] theorem groups_evictSector (s : State) (chip key : Nat) : (evictSector s chip key).groups = s.groups := by
  unfold evictSector
  dsimp only
  (repeat' split) <;> simp

@[simp] theorem groups_nearTrim (s : State) (chip : Nat) : (nearTrim s chip).groups = s.groups := by
  unfold nearTrim
  dsimp only
  (repeat' split) <;> simp

@[simp] theorem groups_nearPut (s : State) (chip line : Nat) (x : NearLine) : (nearPut s chip line x).groups = s.groups := by
  unfold nearPut
  dsimp only
  (repeat' split) <;> simp

theorem groups_of_gate {α : Type} {f : State × Bool → α → State × Bool} (hf : ∀ st a, (f st a).1.groups = st.1.groups) {l : List α} {s t : State}
    (h : (if (l.foldl f (s, false)).2 then some (l.foldl f (s, false)).1 else none) = some t) : t.groups = s.groups := by
  split at h
  · obtain rfl := Option.some.inj h
    exact groups_foldl_fst f hf _ _
  · cases h

theorem groups_readGate {s t : State} {pa n : Nat} (h : readGate s pa n = some t) : t.groups = s.groups :=
  groups_of_gate (fun st l => by split <;> simp) h

@[simp] theorem groups_walkRead (s : State) (x : Xer) (pa n : Nat) : (walkRead s x pa n).1.groups = s.groups := by
  unfold walkRead
  dsimp only
  split
  · rfl
  · split
    · next hg => simp [groups_readGate hg]
    · (repeat' split) <;> simp

@[simp] theorem groups_setBlock (s : State) (part base : Nat) (es : List Nat) : (setBlock s part base es).1.groups = s.groups := by
  unfold setBlock
  refine (groups_foldl_fst _ (fun t a => ?_) _ _).trans ?_ <;> grind [work_orLeaf]

@[simp] theorem groups_loadLeaf (s : State) (x : Xer) (l : Leaf) (va : Nat) (kind : AccKind) :
    (loadLeaf s x l va kind).1.groups = s.groups := by
  unfold loadLeaf
  grind [groups_loadPlain, groups_walkRead, groups_setBlock, work_useLeaf]

@[simp] theorem groups_noteWalk (s : State) (x : Xer) (w : Walk) (e : Nat) (o : WalkOut) : (noteWalk s x w e o).groups = s.groups := by
  unfold noteWalk
  split <;> simp

@[simp] theorem groups_walkOnce (s : State) (x : Xer) (w : Walk) : (walkOnce s x w).1.groups = s.groups := by
  unfold walkOnce
  grind [groups_walkRead, groups_noteWalk]

@[simp] theorem groups_walkGo (n : Nat) (s : State) (x : Xer) (va : Nat) (kind : AccKind) (o : WalkOut) :
    (walkGo n s x va kind o).1.groups = s.groups := by
  induction n generalizing s o with
  | zero => rfl
  | succ n ih =>
    unfold walkGo
    split
    · rfl
    · simp
    · next w =>
      have h := groups_walkOnce s x w
      split <;> simp_all

@[simp] theorem groups_translate (s : State) (x : Xer) (va : Nat) (kind : AccKind) : (translate s x va kind).1.groups = s.groups := by
  unfold translate
  (repeat' split) <;> simp

@[simp] theorem groups_leafFault (s : State) (x : Xer) (va : Nat) (kind : AccKind) (code : Nat) :
    (leafFault s x va kind code).1.groups = s.groups := by
  unfold leafFault
  dsimp only
  split <;> simp

@[simp] theorem groups_translatePages (s : State) (x : Xer) (kind : AccKind) (device : Bool) (ps : List Nat) :
    (translatePages s x kind device ps).1.groups = s.groups := by
  unfold translatePages
  refine (groups_foldl_fst _ (fun t a => ?_) _ _).trans ?_ <;> grind [groups_translate, groups_leafFault]

@[simp] theorem groups_moveSector (s : State) (a b key : Nat) : (moveSector s a b key).groups = s.groups := by
  unfold moveSector
  simp

@[simp] theorem groups_wantSector (s : State) (chip key : Nat) (part gid : Nat) (kind own : Nat) :
    (wantSector s chip key part gid kind own).groups = s.groups := by
  unfold wantSector
  dsimp only
  split <;> simp

@[simp] theorem groups_tapMiss (s : State) (x : Xer) (line : Nat) : (tapMiss s x line).groups = s.groups := by
  unfold tapMiss
  split <;> simp

@[simp] theorem groups_soLoadAt (s : State) (line pts : Nat) : (soLoadAt s line pts).1.groups = s.groups := by
  unfold soLoadAt
  simp

@[simp] theorem groups_wantEntries (s : State) (core : Nat) (p : CbEnt → Bool) : (wantEntries s core p).groups = s.groups := by
  unfold wantEntries
  split <;> simp

@[simp] theorem groups_dropEntries (s : State) (chip : Nat) (p : AttEnt → Bool) : (dropEntries s chip p).groups = s.groups := by
  unfold dropEntries
  split <;> simp

@[simp] theorem groups_correctWords (s : State) (core : Nat) (part : Option Nat) (ws : List Nat) :
    (correctWords s core part ws).groups = s.groups := by
  unfold correctWords
  simp

end Sys2Proof.Machine
end

section

namespace Sys2Proof.Machine

/-! ### Groups but for their SO clocks

A load of an SO page, and the acknowledgement of a store to one, advance the clock of a group (R239) and leave every group as it is else. -/

/-- A group without its SO clock. -/
def Group.untimed (g : Group) : Group := { g with pts := 0 }

/-- What a table says of each group, its SO clock left out. -/
def untimed (t : Tab Group) (k : Nat) : Option Group := (Tab.get? t k).map Group.untimed

theorem Group.eq_of_untimed {g h : Group} (e : h.untimed = g.untimed) : h = { g with pts := h.pts } := by
  have e2 : { h.untimed with pts := h.pts } = { g.untimed with pts := h.pts } := by rw [e]
  exact e2

theorem get?_of_untimed {t u : Tab Group} (h : untimed u = untimed t) {k : Nat} {g : Group} (hg : Tab.get? t k = some g) :
    ∃ p, Tab.get? u k = some { g with pts := p } := by
  have h2 := congrFun h k
  unfold untimed at h2
  rw [hg] at h2
  obtain ⟨g', hg', e⟩ := Option.map_eq_some_iff.mp h2
  exact ⟨g'.pts, hg'.trans (congrArg some (Group.eq_of_untimed e))⟩

theorem untimed_foldl {α : Type} (f : State → α → State) (h : ∀ s a, untimed (f s a).groups = untimed s.groups) (l : List α) (s : State) :
    untimed (l.foldl f s).groups = untimed s.groups := by
  induction l generalizing s with
  | nil => rfl
  | cons a r ih => rw [List.foldl_cons, ih, h]

/-- A change of a group's clock. -/
theorem untimed_modGroup_pts (s : State) (k : Nat) (p : Group → Nat) :
    untimed (s.modGroup k fun g => { g with pts := p g }).groups = untimed s.groups := by
  funext j
  unfold untimed State.modGroup
  by_cases hj : j = k
  · rw [hj, Tab.get?_upd_self, Option.map_map]
    rfl
  · rw [Tab.get?_upd_ne _ _ hj]

/-! ### Stores and host sectors -/

@[simp] theorem groups_foldl_modOp (s : State) (l : List Nat) (f : Op → Op) : (l.foldl (fun t o => t.modOp o f) s).groups = s.groups :=
  groups_foldl (fun t o => t.modOp o f) (fun _ _ => rfl) _ _

@[simp] theorem untimed_raisePts (s : State) (uid ts : Nat) : untimed (raisePts s uid ts).groups = untimed s.groups := by
  unfold raisePts
  dsimp only
  split
  · exact untimed_modGroup_pts _ _ _
  · rfl

@[simp] theorem untimed_completePosting (s : State) (id ts : Nat) : untimed (completePosting s id ts).groups = untimed s.groups := by
  unfold completePosting
  dsimp only
  (repeat' split) <;> simp

@[simp] theorem untimed_mergeSector (s : State) (chip key id : Nat) : untimed (mergeSector s chip key id).groups = untimed s.groups := by
  unfold mergeSector
  split <;> simp

@[simp] theorem untimed_sectorGo (s : State) (chip key : Nat) : untimed (sectorGo s chip key).groups = untimed s.groups := by
  unfold sectorGo
  dsimp only
  split
  · rw [groups_releaseOps, untimed_foldl _ fun t id => untimed_mergeSector _ _ _ _, groups_modSector]
    (repeat' split) <;> simp
  · rw [groups_releaseOps, groups_modSector]
    (repeat' split) <;> simp
  · (repeat' split) <;> simp

@[simp] theorem untimed_hostPost (s : State) (chip key id : Nat) : untimed (hostPost s chip key id).groups = untimed s.groups := by
  unfold hostPost
  dsimp only
  (repeat' split) <;> simp

@[simp] theorem untimed_postBytes (s : State) (core : Nat) (e : CbEnt) (near : Bool) (job : Option Nat) :
    untimed (postBytes s core e near job).groups = untimed s.groups := by
  unfold postBytes
  dsimp only
  split <;> simp

@[simp] theorem untimed_postEntry (s : State) (core : Nat) (e : CbEnt) (job : Option Nat) :
    untimed (postEntry s core e job).groups = untimed s.groups := by
  unfold postEntry
  dsimp only
  (repeat' split) <;> simp

@[simp] theorem untimed_postWanted (n : Nat) (s : State) (core : Nat) : untimed (postWanted n s core).groups = untimed s.groups := by
  induction n generalizing s with
  | zero => rfl
  | succ n ih =>
    unfold postWanted
    split <;> simp [ih]

/-! ### Reads of virtual memory -/

@[simp] theorem untimed_serveRead (s : State) (x : Xer) (pas : List (Nat × Nat)) (l : Nat) :
    untimed (serveRead s x pas l).1.groups = untimed s.groups := by
  unfold serveRead
  dsimp only
  (repeat' split) <;> simp

theorem untimed_agentRead {s t : State} {x : Xer} {pas : List (Nat × Nat)} {bs : List Byte} (h : agentRead s x pas = (t, some bs)) :
    untimed t.groups = untimed s.groups := by
  unfold agentRead at h
  dsimp only at h
  split at h
  · cases h
  · obtain ⟨rfl, -⟩ := Prod.mk.inj h
    refine List.foldlRecOn (motive := fun (b : State × Tab (List Byte)) => untimed b.1.groups = untimed s.groups) _ _ rfl fun b hb l _ => ?_
    have hs := untimed_serveRead b.1 x pas l
    split <;> simp_all

theorem untimed_vaRead {s t : State} {x : Xer} {kind : AccKind} {device : Bool} {va n : Nat} {bs : List Byte}
    (h : vaRead s x kind device va n = (t, .ok bs)) : untimed t.groups = untimed s.groups := by
  unfold vaRead vaGather at h
  dsimp only at h
  split at h
  · split at h
    · next hr =>
      obtain ⟨rfl, -⟩ := Prod.mk.inj h
      simpa using untimed_agentRead hr
    · cases h
  · cases h

/-- A fetch that brings its words. -/
theorem untimed_fetchWords {s t : State} {gid fi : Nat} {g : Group} {va n : Nat} {ws : List Word}
    (h : fetchWords s gid fi g va n = (t, some ws)) : untimed t.groups = untimed s.groups := by
  unfold fetchWords at h
  dsimp only at h
  split at h
  · next hr =>
    obtain ⟨rfl, -⟩ := Prod.mk.inj h
    exact untimed_vaRead (Prod.ext rfl hr)
  · cases h
  · cases h

end Sys2Proof.Machine
end

section

namespace Sys2Proof

open Sys2Proof.Machine

/-! ### One fragment of one group -/

theorem fragOf_eq {s : State} {gid fi : Nat} {g : Group} (hg : Tab.get? s.groups gid = some g) : fragOf s gid fi = g.frag? fi := by
  unfold fragOf
  rw [hg]
  rfl

theorem fragOf_of_untimed {s t : State} (h : untimed t.groups = untimed s.groups) (gid fi : Nat) : fragOf t gid fi = fragOf s gid fi := by
  have key (u : State) : fragOf u gid fi = (untimed u.groups gid).bind fun g => g.frag? fi := by
    unfold fragOf untimed
    cases Tab.get? u.groups gid <;> rfl
  rw [key, key, h]

@[simp] theorem fragOf_modFrag (s : State) (gid fi : Nat) (f : Frag → Frag) :
    fragOf (s.modFrag gid fi f) gid fi = (fragOf s gid fi).map f := by
  have h := grp_modFrag s gid fi f
  simp only [grp] at h
  unfold fragOf
  rw [h]
  cases Tab.get? s.groups gid with
  | none => rfl
  | some g => exact frag?_modFrag_self _ _ _

theorem fragOf_park (s : State) (x : Ctx) (why : Await) :
    fragOf (park s x why) x.gid x.fi = (fragOf s x.gid x.fi).map fun f => { f with cond := parkCond s x.gid why } := by
  unfold park
  dsimp only
  split
  · rw [show ∀ t p a q e, fragOf (tap t p a q e) x.gid x.fi = fragOf t x.gid x.fi from fun t p a q e => by
      unfold fragOf; rw [(work_tap t p a q e).1], fragOf_modFrag]
  · exact fragOf_modFrag _ _ _ _

/-- A change of one fragment. -/
theorem onlyFrag_modFrag (s : State) (gid fi : Nat) (f : Frag → Frag) : OnlyFrag s (s.modFrag gid fi f) gid fi := by
  refine ⟨rfl, fun k hk => Tab.get?_upd_ne _ _ hk, fun g hg => ⟨g.modFrag fi f, ?_, modFrag_light _ _ _, fun k hk => split_modFrag_ne _ _ _ _ hk⟩⟩
  have h := grp_modFrag s gid fi f
  simp only [grp, hg] at h
  exact h

/-! ### Clause entry (R28, R32) -/

theorem SameForTraps.of_pts (g : Group) (p : Nat) : SameForTraps g { g with pts := p } := ⟨rfl, rfl, rfl, rfl, rfl, rfl, rfl⟩

/-- What stands at a fragment that is to enter its clause. -/
structure AtEntry (s : State) (gid fi : Nat) (g : Group) (f : Frag) : Prop where
  group : Tab.get? s.groups gid = some g
  frag : g.frag? fi = some f
  live : g.live = true
  ready : f.cond = .ready
  first : f.idx = 0
  inside : fi < 8
  noHeader : f.hdr = 0
  noResume : f.resume = none

section

variable {s t : State} {core slot fi : Nat} {g : Group} {f : Frag} {h : Word}

theorem enterClause_badHeader (he : AtEntry s (core * 128 + slot) fi g f)
    (hf : fetchWords s (core * 128 + slot) fi g f.pc 1 = (t, some [h])) (hok : headerOk h.toNat = false) :
    execEnterClause core slot fi s = .next (entryTrap t (core * 128 + slot) fi f 0x04 0 0) := by
  obtain ⟨hg, hfr, hl, hr, hi, hin, hh, -⟩ := he
  unfold execEnterClause
  simp [hg, hfr, hl, hr, hi, hh, hf, hin, inTable, hok, nth]

theorem enterClause_fetched {t2 : State} {ws : List Word} (he : AtEntry s (core * 128 + slot) fi g f)
    (hf : fetchWords s (core * 128 + slot) fi g f.pc 1 = (t, some [h])) (hok : headerOk h.toNat = true)
    (hw : fetchWords t (core * 128 + slot) fi g (f.pc + 4) (bitsAt h.toNat 0 4) = (t2, some ws)) :
    execEnterClause core slot fi s = .next (testFlags (t2.modFrag (core * 128 + slot) fi fun f => { f with hdr := h, words := ws })
      (core * 128 + slot) fi { f with hdr := h, words := ws }) := by
  obtain ⟨hg, hfr, hl, hr, hi, hin, hh, -⟩ := he
  unfold execEnterClause
  simp [hg, hfr, hl, hr, hi, hh, hf, hin, inTable, hok, hw, nth]

end

theorem testFlags_clear {u : State} {gid fi : Nat} {y : Group} {f : Frag} (hy : Tab.get? u.groups gid = some y) (hr : f.resume = none)
    (hs : flagsSet y (waitmOf f.hdr.toNat) = []) (hn : flagFailure y (waitmOf f.hdr.toNat) = none) :
    testFlags u gid fi f = u.modFrag gid fi fun f => { f with idx := 1 } := by
  unfold testFlags
  simp [hy, hr, hs, hn, beginClause]

/-- A clause that awaits a flag: its fragment parks FLAGWAIT, the stores that the flag waits for posted. -/
theorem testFlags_waits {u : State} {gid fi : Nat} {y : Group} {f : Frag} (hy : Tab.get? u.groups gid = some y) (hr : f.resume = none)
    (hs : flagsSet y (waitmOf f.hdr.toNat) ≠ []) :
    ∃ v, untimed v.groups = untimed u.groups ∧
      testFlags u gid fi f = park v { gid := gid, fi := fi, g := y, f := f } (.flags (waitmOf f.hdr.toNat)) := by
  unfold testFlags
  simp only [hy, hr, Option.isSome_none, Bool.false_eq_true, if_false]
  exact ⟨_, by simp, rfl⟩

section

variable {s t : State} {core slot fi : Nat} {g : Group} {f : Frag} {h : Word}

/-- A malformed header takes BADHDR. -/
theorem enterClause_traps (he : AtEntry s (core * 128 + slot) fi g f)
    (hf : fetchWords s (core * 128 + slot) fi g f.pc 1 = (t, some [h])) (hok : headerOk h.toNat = false) :
    ∃ u, execEnterClause core slot fi s = .next u ∧
      TrapTaken { gid := core * 128 + slot, fi := fi, g := g, f := f } u f.pc f.pc 0 0x04 0 0 f.scc [] := by
  obtain ⟨p, hp⟩ := get?_of_untimed (untimed_fetchWords hf) he.group
  exact ⟨_, enterClause_badHeader he hf hok, trapTaken_takeTrapAt hp (.of_pts g p) he.frag _ _ _ _ _ _ _ _⟩

/-- A clause whose words are fetched begins, or parks until its flags are clear. -/
theorem enterClause_enters {t2 : State} {ws : List Word} (he : AtEntry s (core * 128 + slot) fi g f)
    (hf : fetchWords s (core * 128 + slot) fi g f.pc 1 = (t, some [h])) (hok : headerOk h.toNat = true)
    (hw : fetchWords t (core * 128 + slot) fi g (f.pc + 4) (bitsAt h.toNat 0 4) = (t2, some ws)) :
    (flagsSet g (waitmOf h.toNat) = [] → flagFailure g (waitmOf h.toNat) = none →
      ∃ u, execEnterClause core slot fi s = .next u ∧
        fragOf u (core * 128 + slot) fi = some { f with hdr := h, words := ws, idx := 1 }) ∧
    (flagsSet g (waitmOf h.toNat) ≠ [] →
      ∃ u y b n, execEnterClause core slot fi s = .next u ∧ fragOf u (core * 128 + slot) fi = some y ∧
        y = { f with hdr := h, words := ws, cond := .parked (.flags (waitmOf h.toNat)) b n }) := by
  have hun := (untimed_fetchWords hw).trans (untimed_fetchWords hf)
  obtain ⟨p, hp⟩ := get?_of_untimed hun he.group
  set u := t2.modFrag (core * 128 + slot) fi fun f => { f with hdr := h, words := ws } with hu
  have hy : Tab.get? u.groups (core * 128 + slot) = some (Group.modFrag { g with pts := p } fi fun f => { f with hdr := h, words := ws }) := by
    have := grp_modFrag t2 (core * 128 + slot) fi fun f => { f with hdr := h, words := ws }
    simp only [grp, hp] at this
    exact this
  have hfr : fragOf u (core * 128 + slot) fi = some { f with hdr := h, words := ws } := by
    rw [hu, fragOf_modFrag, fragOf_of_untimed hun, fragOf_eq he.group, he.frag]
    rfl
  have hset (m : Nat) : flagsSet (Group.modFrag { g with pts := p } fi fun f => { f with hdr := h, words := ws }) m = flagsSet g m := by
    rw [modFrag_light]; rfl
  have hfail (m : Nat) : flagFailure (Group.modFrag { g with pts := p } fi fun f => { f with hdr := h, words := ws }) m = flagFailure g m := by
    rw [modFrag_light]; rfl
  refine ⟨fun h1 h2 => ⟨_, enterClause_fetched he hf hok hw, ?_⟩, fun h1 => ?_⟩
  · rw [testFlags_clear (f := { f with hdr := h, words := ws }) hy he.noResume ((hset _).trans h1) ((hfail _).trans h2), fragOf_modFrag, hfr]
    rfl
  · obtain ⟨v, hv, hpark⟩ := testFlags_waits (f := { f with hdr := h, words := ws }) hy he.noResume ((hset _).symm ▸ h1)
    have hout : fragOf (testFlags u (core * 128 + slot) fi { f with hdr := h, words := ws }) (core * 128 + slot) fi =
        some { f with hdr := h, words := ws, cond := parkCond v (core * 128 + slot) (.flags (waitmOf h.toNat)) } := by
      rw [hpark, fragOf_park, fragOf_of_untimed hv, hfr]
      rfl
    exact ⟨_, _, _, _, enterClause_fetched he hf hok hw, hout, rfl⟩

end

end Sys2Proof
end

section

namespace Sys2Proof

open Sys2Proof.Machine

/-! ### An instruction that waited completes (R43, R204) -/

theorem get?_dropLatches (g : Group) (k : Nat) : Tab.get? g.dropLatches.split k = (Tab.get? g.split k).map SplitEntry.dropLatches :=
  Tab.get?_mapVal _ _ _

theorem frag?_dropLatches (g : Group) (fi : Nat) : g.dropLatches.frag? fi = (g.frag? fi).map fun f => { f with latches := [] } := by
  unfold Group.frag?
  rw [get?_dropLatches]
  rcases Tab.get? g.split fi with _ | (_ | _) <;> rfl

theorem region?_dropLatches (g : Group) (id : Nat) : g.dropLatches.region? id = g.region? id := by
  unfold Group.region? Group.dropLatches
  dsimp only
  rw [List.filterMap_map]
  congr 1
  refine List.filterMap_congr fun e _ => ?_
  rcases e with ⟨k, _ | _⟩ <;> rfl

theorem reachSafe_group {t : State} {gid : Nat} {g : Group} (hg : Tab.get? t.groups gid = some g) (mask : Nat) :
    ∃ y, Tab.get? (reachSafe t gid mask).groups gid = some y ∧ y.split = g.dropLatches.split ∧ y.hmode = g.hmode ∧ GRegs g y := by
  have hm := grp_modGroup t gid fun g =>
    if g.live && g.grace.isNone && inGrace t g then { g.dropLatches with grace := some 0, liveMask := mask } else g.dropLatches
  simp only [grp, hg] at hm
  refine ⟨_, hm, ?_, ?_, ?_⟩
  · dsimp only; split <;> rfl
  · dsimp only; split <;> rfl
  · dsimp only; split <;> exact ⟨rfl, rfl, rfl⟩

/-- A safe point is reached behind an instruction that goes on. -/
theorem GoesOn.reachSafe {x : Ctx} {t : State} {len : Nat} {scc carry : Bool} {exec : LaneMask} (h : GoesOn x t len 0 scc carry exec)
    (mask : Nat) : GoesOn (afterSp x true) (reachSafe t x.gid mask) len 0 scc carry exec := by
  intro ha
  have ha' : x.f.isLast len = false ∨ ¬ MeetsRpc x x.f.fallThrough := by
    refine ha.imp_right fun hn hm => hn ?_
    obtain ⟨id, ri, r, h1, h2, h3⟩ := hm
    exact ⟨id, ri, r, h1, (region?_dropLatches x.g id).trans h2, h3⟩
  obtain ⟨g, f, hg, hf, h1, h2, h3, h4, h5, h6, h7, h8, h9, h10, -, h12, h13⟩ := h ha'
  obtain ⟨y, hy, hys, hyh, -⟩ := reachSafe_group hg mask
  refine ⟨y, { f with latches := [] }, hy, ?_, h1, h2, h3, h4, h5, h6, h7, h8, h9, h10, fun _ _ => rfl, fun k hk => ?_, hyh.trans h13⟩
  · rw [frag?_congr hys, show (afterSp x true).fi = x.fi from rfl, frag?_dropLatches, hf]
    rfl
  · rw [hys, get?_dropLatches, h12 k hk]
    exact (get?_dropLatches x.g k).symm

section

variable {s : State} {gid fi p : Nat} {g : Group} {f : Frag}

/-- The fragment that waited goes on behind its instruction with SCC; registers and chiplets are as before. -/
theorem finishWait_spec (hg : Tab.get? s.groups gid = some { g with pts := p }) (hf : g.frag? fi = some f) (scc : Bool) :
    let x : Ctx := { gid := gid, fi := fi, g := g, f := f }
    GoesOn (afterSp x (lenHere f).2) (finishWait s gid fi scc) (lenHere f).1 0 scc f.carry f.exec ∧ SameRegs x (finishWait s gid fi scc) ∧
      (finishWait s gid fi scc).chips = s.chips := by
  intro x
  have hf' : Group.frag? { g with pts := p } fi = some f := hf
  set y : Ctx := { gid := gid, fi := fi, g := { g with pts := p }, f := f } with hy
  set t := advance (setScc s y scc) y (lenHere f).1 (lenHere f).2 with ht
  have hgt : grp t x.gid = some (advanced (setScc s y scc).clock x (lenHere f).1 (lenHere f).2
      (Group.modFrag { g with pts := p } fi fun f => { f with scc := scc })) := by
    rw [ht, show x.gid = y.gid from rfl, grp_advance]
    unfold setScc
    rw [grp_modFrag]
    simp only [grp, hg, hy]
    rfl
  have hgo : GoesOn x t (lenHere f).1 0 scc f.carry f.exec :=
    goesOn_of (f := { f with scc := scc }) hgt (by rw [frag?_modFrag_self, hf']; rfl)
      ((GSplit.same fi g { g with pts := p } rfl rfl).trans (.modFrag _ _ _)) rfl rfl rfl rfl rfl fun _ _ => rfl
  have h0 : GRegs g { g with pts := p } := ⟨rfl, rfl, rfl⟩
  have hregs : GRegs g (advanced (setScc s y scc).clock x (lenHere f).1 (lenHere f).2
      (Group.modFrag { g with pts := p } fi fun f => { f with scc := scc })) :=
    (h0.trans (.modFrag _ fi _)).trans (.advanced _ _ _ _ _)
  have hchips : t.chips = s.chips :=
    (congrArg State.chips ((regs_setScc s y scc).trans (regs_advance _ y (lenHere f).1 (lenHere f).2)).rest).trans rfl
  have hw : finishWait s gid fi scc = if (lenHere f).2 then reachSafe t gid (maskHere f (lenHere f).1) else t := by
    unfold finishWait
    simp only [hg, hf', ht, hy]
  rw [hw]
  cases hsp : (lenHere f).2
  · exact ⟨hgo, ⟨_, hgt, hregs.v, hregs.s⟩, hchips⟩
  · obtain ⟨z, hz, -, -, hr⟩ := reachSafe_group hgt (maskHere f (lenHere f).1)
    exact ⟨hgo.reachSafe _, ⟨z, hz, hr.v.trans hregs.v, hr.s.trans hregs.s⟩, hchips⟩

end

/-! ### Waking a waiter (R204) -/

theorem groupBy_spec {s : State} {uid gid : Nat} {g : Group} (h : groupBy s uid = some (gid, g)) : g.uid = uid := by
  simpa using List.find?_some h

/-- The group found by its name is found again once its clock has advanced. -/
theorem find?_set_uid {t : Tab Group} {uid gid : Nat} {g h : Group} (hb : t.find? (fun e => e.2.uid == uid) = some (gid, g))
    (hg : Tab.get? t gid = some g) (hu : h.uid = uid) : (Tab.set t gid h).find? (fun e => e.2.uid == uid) = some (gid, h) := by
  induction t with
  | nil => cases hg
  | cons e r ih =>
    obtain ⟨j, v⟩ := e
    unfold Tab.set
    unfold Tab.get? at hg
    split
    · simp [hu]
    · next hj =>
      rw [if_neg hj] at hg
      split
      · simp [hu]
      · rw [List.find?_cons] at hb ⊢
        split at hb
        · cases hb; exact absurd rfl hj
        · exact ih hb hg

/-- In `t` the group `g`, found by its name and by its key, is there with another clock at most. -/
def SameGroup (t : State) (gid : Nat) (g : Group) : Prop :=
  ∃ p, groupBy t g.uid = some (gid, { g with pts := p }) ∧ Tab.get? t.groups gid = some { g with pts := p }

theorem SameGroup.of_groups {s t : State} {gid : Nat} {g : Group} (h : SameGroup s gid g) (e : t.groups = s.groups) : SameGroup t gid g := by
  obtain ⟨p, h1, h2⟩ := h
  exact ⟨p, (groupBy_congr e _).trans h1, e ▸ h2⟩

theorem SameGroup.raisePts {s : State} {gid : Nat} {g : Group} (h : SameGroup s gid g) (ts : Nat) : SameGroup (raisePts s g.uid ts) gid g := by
  obtain ⟨p, h1, h2⟩ := h
  unfold Machine.raisePts
  simp only [h1]
  have hset : (s.modGroup gid fun g => { g with pts := max g.pts ts }).groups = Tab.set s.groups gid { g with pts := max p ts } := by
    unfold State.modGroup Tab.upd
    rw [h2]
  refine ⟨max p ts, ?_, ?_⟩
  · unfold groupBy at h1 ⊢
    dsimp only
    rw [hset]
    exact find?_set_uid h1 h2 rfl
  · dsimp only
    rw [hset]
    exact Tab.get?_set_self _ _ _

theorem SameGroup.soObject {s : State} {gid : Nat} {g : Group} (h : SameGroup s gid g) (team : Option Nat) (pa ord : Nat) :
    SameGroup (soObject s g.uid team pa ord) gid g := by
  unfold Machine.soObject
  dsimp only
  split
  · exact h
  · split
    · exact h.of_groups (by simp)
    · exact (h.of_groups (t := (soLoadAt _ _ _).1) (by simp)).raisePts _

theorem not_mem_dropEntries (s : State) (chip : Nat) (e : AttEnt) (k : Nat) :
    Tab.get? ((dropEntries s chip fun y => y == e).chip chip).att k ≠ some e := by
  intro h
  have hm := Tab.mem_of_get? h
  unfold dropEntries at hm
  split at hm
  · simp [State.chip, State.modChip] at hm
  · next hn => exact hn (List.any_eq_true.mpr ⟨_, hm, by simp⟩)

/-- The waiter of an entry whose condition holds goes on with SCC 1, and the entry is gone. -/
theorem wakeEntry_spec {s : State} {chip gid fi : Nat} {e : AttEnt} {g : Group} {f : Frag} (h : SameGroup s gid g) (hu : e.uid = g.uid)
    (hn : g.namedFrag e.frag = some (fi, f)) (hf : g.frag? fi = some f) :
    let x : Ctx := { gid := gid, fi := fi, g := g, f := f }
    GoesOn (afterSp x (lenHere f).2) (wakeEntry s chip e) (lenHere f).1 0 true f.carry f.exec ∧ SameRegs x (wakeEntry s chip e) ∧
      ∀ k, Tab.get? ((wakeEntry s chip e).chip chip).att k ≠ some e := by
  intro x
  have hso : SameGroup (soEntry s e) gid g := by
    unfold soEntry
    rw [hu]
    split
    · exact h.soObject _ _ _
    · exact h
  obtain ⟨p, hb, hg⟩ := hso.of_groups (groups_dropEntries _ chip fun y => y == e)
  have hw : wakeEntry s chip e = finishWait (acquireAt (dropEntries (soEntry s e) chip fun y => y == e) gid e.scope) gid fi true := by
    unfold wakeEntry
    dsimp only
    rw [hu, hb]
    dsimp only
    rw [show Group.namedFrag { g with pts := p } e.frag = some (fi, f) from hn]
  have hacq : RegistersOnly gid (dropEntries (soEntry s e) chip fun y => y == e)
      (acquireAt (dropEntries (soEntry s e) chip fun y => y == e) gid e.scope) := by
    unfold acquireAt
    split
    · exact regs_invalidateL1 _ _ _
    · exact .refl _ _
  have hgr : (acquireAt (dropEntries (soEntry s e) chip fun y => y == e) gid e.scope).groups =
      (dropEntries (soEntry s e) chip fun y => y == e).groups := by
    unfold acquireAt
    split <;> simp
  obtain ⟨h1, h2, h3⟩ := finishWait_spec (hgr ▸ hg) hf true
  rw [hw]
  refine ⟨h1, h2, fun k => ?_⟩
  unfold State.chip
  rw [h3, hacq.rest]
  exact not_mem_dropEntries _ _ _ _

end Sys2Proof
end

section

namespace Sys2Proof

open Sys2Proof.Machine

/-! ### Waiting ends (R43, R44, R212) -/

section

variable {s : State} {core slot fi : Nat} {g : Group} {f : Frag}

/-- A fragment whose condition becomes ready. -/
theorem becomesReady {gid : Nat} (hg : Tab.get? s.groups gid = some g) (hf : g.frag? fi = some f) {h : Frag → Frag}
    (hh : h f = { f with cond := .ready, since := s.clock }) :
    OnlyFrag s (s.modFrag gid fi h) gid fi ∧ fragOf (s.modFrag gid fi h) gid fi = some { f with cond := .ready, since := s.clock } := by
  refine ⟨onlyFrag_modFrag _ _ _ _, ?_⟩
  rw [fragOf_modFrag, fragOf_eq hg, hf, Option.map_some, hh]

theorem waitingTableRetest_step {why : Await} {n : Nat} (hg : Tab.get? s.groups (core * 128 + slot) = some g) (hf : g.frag? fi = some f)
    (hl : g.live = true) (hc : f.cond = .parked why false n) (hm : awaitMet s (core * 128 + slot) g why = true) :
    ∃ t, execWaitingTableRetest core slot fi s = .next t ∧ OnlyFrag s t (core * 128 + slot) fi ∧
      fragOf t (core * 128 + slot) fi = some { f with cond := .ready, since := s.clock } := by
  obtain ⟨h1, h2⟩ := becomesReady (h := fun f => { f with cond := .ready, since := s.clock }) hg hf rfl
  refine ⟨_, ?_, h1, h2⟩
  unfold execWaitingTableRetest
  simp only [hg, hf, hc, hl, hm, Bool.and_self, if_true]

theorem sleepExpiry_wakes {till : Nat} (hg : Tab.get? s.groups (core * 128 + slot) = some g) (hf : g.frag? fi = some f)
    (hl : g.live = true) (hc : f.cond = .sleeping till) (ht : till ≤ s.clock) :
    ∃ t, execSleepExpiry core slot fi s = .next t ∧ OnlyFrag s t (core * 128 + slot) fi ∧
      fragOf t (core * 128 + slot) fi = some { f with cond := .ready, since := s.clock } :=
  ⟨_, rfl, becomesReady hg hf (by simp only [hc, ht, hg, hl, decide_true, Bool.and_self, if_true])⟩

theorem sleepExpiry_early {till : Nat} (hg : Tab.get? s.groups (core * 128 + slot) = some g) (hf : g.frag? fi = some f)
    (hc : f.cond = .sleeping till) (ht : s.clock < till) :
    ∃ t, execSleepExpiry core slot fi s = .next t ∧ fragOf t (core * 128 + slot) fi = some f := by
  refine ⟨_, rfl, ?_⟩
  rw [fragOf_modFrag, fragOf_eq hg, hf, Option.map_some]
  simp [hc, Nat.not_le.mpr ht]

/-! ### The spill area (R222) -/

/-- The entries of the table proper, without one of the spill area. -/
theorem freeEntries_del (g : Group) (k : Nat) (hk : 8 ≤ k) : freeEntries { g with split := Tab.del g.split k } = freeEntries g := by
  unfold freeEntries
  congr 2
  dsimp only
  induction g.split with
  | nil => rfl
  | cons e r ih =>
    obtain ⟨j, v⟩ := e
    unfold Tab.del
    split
    · next hj =>
      rw [ih, List.filter_cons_of_neg]
      simp [inTable, hj, hk]
    · rw [List.filter_cons, List.filter_cons, ih]

/-- A fragment stands at `k` now and no longer at `fi`. -/
theorem moved_of_split {t : State} {gid k : Nat} {y : Group} (hy : Tab.get? t.groups gid = some y)
    (hs : y.split = Tab.set (Tab.del g.split fi) k (.frag f)) (hne : k ≠ fi) :
    fragOf t gid k = some f ∧ fragOf t gid fi = none ∧
      ∀ j, j ≠ fi → j ≠ k → (Tab.get? t.groups gid).bind (fun y => Tab.get? y.split j) = Tab.get? g.split j := by
  rw [fragOf_eq hy, fragOf_eq hy]
  unfold Group.frag?
  rw [hs, hy, Tab.get?_set_self, Tab.get?_set_ne _ _ hne.symm, Tab.get?_del_self]
  refine ⟨rfl, rfl, fun j h1 h2 => ?_⟩
  rw [Option.bind_some, hs, Tab.get?_set_ne _ _ h2, Tab.get?_del_ne _ h1]

/-- A ready fragment whose own entry is free comes back to it. -/
theorem spillBringBack_step (hg : Tab.get? s.groups (core * 128 + slot) = some g) (hf : g.frag? fi = some f) (hl : g.live = true)
    (hi : 8 ≤ fi) (hc : f.cond = .ready) (hh : Tab.get? g.split f.home = none) (h8 : f.home < 8) (hfree : freeEntries g ≠ 0) :
    ∃ t, execSpillBringBack core slot fi s = .next t ∧ fragOf t (core * 128 + slot) f.home = some f ∧
      fragOf t (core * 128 + slot) fi = none ∧
      ∀ k, k ≠ fi → k ≠ f.home → (Tab.get? t.groups (core * 128 + slot)).bind (fun y => Tab.get? y.split k) = Tab.get? g.split k := by
  have hne : f.home ≠ fi := by omega
  have hs : Tab.get? g.split fi = some (.frag f) := by
    unfold Group.frag? at hf
    split at hf
    · next h => cases hf; exact h
    · cases hf
  have hy (F : Group → Group) : Tab.get? (s.modGroup (core * 128 + slot) F).groups (core * 128 + slot) = some (F g) := by
    unfold State.modGroup
    rw [Tab.get?_upd_self, hg, Option.map_some]
  have hready : (f.cond != .ready) = false := by rw [hc]; rfl
  refine ⟨_, rfl, moved_of_split (hy _) ?_ hne⟩
  simp [hs, hready, hl, inTable, freeEntries_del g fi hi, hfree, Tab.get?_del_ne _ hne, hh, h8, Nat.not_lt.mpr hi]

/-! ### Priority, register words and unlisted words (R61, R73, R257) -/

theorem priorityRaise_step (hg : Tab.get? s.groups (core * 128 + slot) = some g) :
    ∃ t y, execPriorityRaise core slot s = .next t ∧ t = { s with groups := t.groups } ∧
      (∀ k, k ≠ core * 128 + slot → Tab.get? t.groups k = Tab.get? s.groups k) ∧ Tab.get? t.groups (core * 128 + slot) = some y ∧
      y = { g with eprio := inherited 8 s (core * 128 + slot) } := by
  unfold execPriorityRaise raisePriority
  simp only [hg]
  split
  · next hp => exact ⟨s, g, rfl, rfl, fun _ _ => rfl, hg, by rw [hp]⟩
  · refine ⟨_, _, rfl, rfl, fun k hk => Tab.get?_upd_ne _ _ hk, ?_, rfl⟩
    unfold State.modGroup
    rw [Tab.get?_upd_self, hg]
    rfl

end

theorem cores_tapEvent (s : State) (port : Nat) (ev : PrEvent) : (tapEvent s port ev).cores = s.cores := by
  unfold tapEvent
  dsimp only
  split
  · rfl
  · split
    · rfl
    · exact List.foldlRecOn (motive := fun t : State => t.cores = s.cores) _ _ rfl fun _ h _ _ => h

@[simp] theorem core_tap (s : State) (port src : Nat) (part : Option Nat) (e : List Nat) (c : Nat) : (tap s port src part e).core c = s.core c := by
  unfold State.core tap
  rw [cores_tapEvent]

theorem registerScrub_step (s : State) (core row lane : Nat) :
    (Tab.get? (s.core core).bad (badKey row lane) = some false →
      ∃ t, execRegisterScrub core row lane s = .next t ∧ Tab.get? (t.core core).bad (badKey row lane) = none ∧ t.groups = s.groups) ∧
    (Tab.get? (s.core core).bad (badKey row lane) = some true →
      ∃ t, execRegisterScrub core row lane s = .next t ∧ (t.core core).bad = (s.core core).bad ∧ t.groups = s.groups) := by
  unfold execRegisterScrub
  refine ⟨fun h => ?_, fun h => ?_⟩
  · simp only [h]
    refine ⟨_, rfl, ?_, groups_correctWords _ _ _ _⟩
    simp [correctWords]
  · simp only [h]
    refine ⟨_, rfl, ?_, (work_tap _ _ _ _ _).1⟩
    rw [core_tap]

/-! ### A waiting entry's word (R204) -/

/-- The waiter of an entry that is no barrier's is woken by itself. -/
theorem wakeWaiter_eq {s : State} {chip gid : Nat} {e : AttEnt} {g : Group} (h : SameGroup s gid g) (hu : e.uid = g.uid) (hk : e.kind ≠ 0) :
    wakeWaiter s chip e = wakeEntry s chip e := by
  obtain ⟨p, hb, -⟩ := h
  unfold wakeWaiter
  rw [hu, hb]
  simp [hk]

/-- What the re-reading of a WAIT's or WAITNE's word comes to: the object is read where it lies in global memory, and the waiter wakes. -/
theorem waitReread_eq {s : State} {chip idx : Nat} {e : AttEnt} (he : Tab.get? (s.chip chip).att idx = some e) (h1 : e.st = 1)
    (hk : e.kind = 2 ∨ e.kind = 3)
    (hp : ∀ pa, e.place = some (none, pa) → (isHost pa = true → (sectorOf s chip (pa / 64)).st ≠ 0) ∧ readGate s pa 4 = none ∧
      entryMet (soObject s e.uid none pa e.ord) e = true)
    (hn : (∀ pa, e.place ≠ some (none, pa)) → entryMet s e = true) :
    ∃ t, (t = s ∨ ∃ pa, t = soObject s e.uid none pa e.ord) ∧ execWaitReread chip idx s = .next (wakeWaiter t chip e) := by
  have hkind : (e.st == 1 && (e.kind == 2 || e.kind == 3)) = true := by simpa [h1] using hk
  by_cases hpa : ∃ pa, e.place = some (none, pa)
  · obtain ⟨pa, hpl⟩ := hpa
    obtain ⟨hhost, hgate, hmet⟩ := hp pa hpl
    have hsec : (isHost pa && (sectorOf s chip (pa / 64)).st == 0) = false := by simpa using hhost
    refine ⟨_, .inr ⟨pa, rfl⟩, ?_⟩
    unfold execWaitReread execWaitReread.again
    simp only [he, hkind, if_true, hpl, hsec, hgate, hmet, Bool.false_eq_true, if_false]
  · have hpl (pa : Nat) : e.place ≠ some (none, pa) := fun h => hpa ⟨pa, h⟩
    refine ⟨s, .inl rfl, ?_⟩
    unfold execWaitReread execWaitReread.again
    simp only [he, hkind, if_true, hn hpl]

theorem waitReread_step {s : State} {chip idx gid fi : Nat} {e : AttEnt} {g : Group} {f : Frag}
    (he : Tab.get? (s.chip chip).att idx = some e) (h1 : e.st = 1) (hk : e.kind = 2 ∨ e.kind = 3)
    (hp : ∀ pa, e.place = some (none, pa) → (isHost pa = true → (sectorOf s chip (pa / 64)).st ≠ 0) ∧ readGate s pa 4 = none ∧
      entryMet (soObject s e.uid none pa e.ord) e = true)
    (hn : (∀ pa, e.place ≠ some (none, pa)) → entryMet s e = true)
    (hb : groupBy s e.uid = some (gid, g)) (hg : Tab.get? s.groups gid = some g)
    (hnf : g.namedFrag e.frag = some (fi, f)) (hf : g.frag? fi = some f) :
    let x : Ctx := { gid := gid, fi := fi, g := g, f := f }
    ∃ t, execWaitReread chip idx s = .next t ∧ GoesOn (afterSp x (lenHere f).2) t (lenHere f).1 0 true f.carry f.exec ∧ SameRegs x t ∧
      ∀ k, Tab.get? (t.chip chip).att k ≠ some e := by
  have hu : e.uid = g.uid := (groupBy_spec hb).symm
  have hbg : groupBy s g.uid = some (gid, g) := hu ▸ hb
  have hsame : SameGroup s gid g := ⟨g.pts, hbg, hg⟩
  obtain ⟨t, ht, hex⟩ := waitReread_eq he h1 hk hp hn
  have hst : SameGroup t gid g := by
    obtain rfl | ⟨pa, rfl⟩ := ht
    · exact hsame
    · exact hu ▸ hsame.soObject none pa e.ord
  exact ⟨_, hex, wakeWaiter_eq (chip := chip) hst hu (by omega) ▸ wakeEntry_spec hst hu hnf hf⟩

theorem unlistedOpcode_step {s : State} {x : Ctx} {ws : List Word} {e : Reject} (hi : s.issuer = some x) (hg : Tab.get? s.groups x.gid = some x.g)
    (hf : x.g.frag? x.fi = some x.f) (hd : decode none ws = .error e) :
    ∃ t, execUnlistedOpcode ws s = .next t ∧ RegistersOnly x.gid s t ∧
      TrapTaken x t x.f.pc0 x.f.pc x.f.idx 0x01 0 0 x.f.scc (formatWords x.f) := by
  refine ⟨_, withIssuer_eq hi _, ?_, ?_⟩
  · rw [hd]
    exact regs_takeTrap _ _ _ _ _
  · rw [hd]
    exact trapTaken_takeTrap hg (.refl _) hf _ _ _

/-- Settles O41: one lemma for each way in which a fragment's state changes between its instructions. -/
theorem fragmentEvents : Obligations.FragmentEvents := by
  intro s core slot fi g f gid x hg hf hl
  refine ⟨fun hr hi hin hh hres t h hfw => ?_, fun why n hc hm => waitingTableRetest_step hg hf hl hc hm,
    fun till hc ht => sleepExpiry_wakes hg hf hl hc ht, fun till hc ht => sleepExpiry_early hg hf hc ht,
    fun h8 hc hh hhome hfree => spillBringBack_step hg hf hl h8 hc hh hhome hfree, priorityRaise_step hg,
    fun chip idx e he h1 hk hp hn hb hnf => waitReread_step he h1 hk hp hn hb hg hnf hf,
    fun row lane => registerScrub_step s core row lane, fun ws e hi hd => unlistedOpcode_step hi hg hf hd⟩
  have ha : AtEntry s gid fi g f := ⟨hg, hf, hl, hr, hi, hin, hh, hres⟩
  exact ⟨enterClause_traps ha hfw, fun hok t2 ws hw => enterClause_enters ha hfw hok hw⟩

end Sys2Proof
end

section

namespace Sys2Proof

open Sys2Proof.Machine

/-! ### The operand checks decide in the order of R60 -/

/-- No operand is illegal, no V register named lies at or above VCOUNT, and every latch named may be read: steps 1 to 3 of R60 pass. -/
structure OperandsLegal (x : Ctx) (u : Use) : Prop where
  bad : u.bad = false
  lits : u.lits < 2
  vs : ∀ k ∈ u.vs, k < x.g.vcount
  latches : ∀ n ∈ u.latches, latchOk x.f n = true

/-- Nothing named is waited for: step 4 of R60 passes. -/
structure OperandsArrived (x : Ctx) (u : Use) : Prop where
  qs : ∀ n ∈ u.qs, queueReady x.g n = true
  pend : ∀ k ∈ u.rd ++ u.wr, Tab.get? x.g.pend k = none
  note : ∀ k ∈ u.rd, Tab.get? x.g.note k ≠ some .empty

/-- Reading the register of a key meets a word with two wrong bits (`double`), or one with one (R61). -/
def WordWrong (s : State) (x : Ctx) (k : Nat) (double : Bool) : Prop :=
  ∃ l, (if k < 128 then l < 64 ∧ inMask x.f.exec l = true else l = 0) ∧
    Tab.get? (s.core (x.gid / 128)).bad (badKey (rowOf x k) l) = some double

/-- The words with an error that the registers read hold. -/
abbrev wrongWords (s : State) (x : Ctx) (u : Use) (double : Bool) : List (Nat × Nat) :=
  badWords (s.core (coreOf x.gid)) x u.rd double

theorem minOf_le {l : List Nat} {k : Nat} (hk : k ∈ l) : minOf l ≤ k := by
  induction l using minOf.induct with
  | case1 => cases hk
  | case2 a => rw [List.mem_singleton.1 hk, minOf]
  | case3 a t hne ih =>
    rw [minOf.eq_3 a t hne]
    rcases List.mem_cons.1 hk with rfl | ht
    · exact min_le_left _ _
    · exact (min_le_right _ _).trans (ih ht)

theorem le_minOf {l : List Nat} {n : Nat} (hne : l ≠ []) (hle : ∀ k ∈ l, n ≤ k) : n ≤ minOf l := by
  induction l using minOf.induct with
  | case1 => exact absurd rfl hne
  | case2 a => exact hle a List.mem_cons_self
  | case3 a t ht ih =>
    rw [minOf.eq_3 a t ht]
    exact le_min (hle a List.mem_cons_self) (ih ht fun k hk => hle k (List.mem_cons_of_mem _ hk))

theorem mem_readLanes {x : Ctx} {k l : Nat} :
    l ∈ readLanes x k ↔ if k < 128 then l < 64 ∧ inMask x.f.exec l = true else l = 0 := by
  unfold readLanes
  split <;> simp [lanesOf]

/-- The words found are those of the registers read, and each is found with its register. -/
theorem exists_mem_wrongWords {s : State} {x : Ctx} {u : Use} {double : Bool} {k : Nat} :
    (∃ w, (k, w) ∈ wrongWords s x u double) ↔ k ∈ u.rd ∧ WordWrong s x k double := by
  simp only [wrongWords, badWords, List.mem_flatMap, List.mem_eraseDups, List.mem_filterMap, mem_readLanes]
  constructor
  · rintro ⟨w, j, hj, l, hl, he⟩
    split at he
    · next hb => cases he; exact ⟨hj, l, hl, hb⟩
    · cases he
  · rintro ⟨hk, l, hl, hb⟩
    exact ⟨_, k, hk, l, hl, if_pos hb⟩

theorem wrongWords_eq_nil_iff {s : State} {x : Ctx} {u : Use} {double : Bool} :
    wrongWords s x u double = [] ↔ ∀ k ∈ u.rd, ¬ WordWrong s x k double := by
  simp only [List.eq_nil_iff_forall_not_mem, Prod.forall]
  exact ⟨fun h k hk hw => (exists_mem_wrongWords.2 ⟨hk, hw⟩).elim fun w hm => h k w hm,
    fun h k w hm => h k (exists_mem_wrongWords.1 ⟨w, hm⟩).1 (exists_mem_wrongWords.1 ⟨w, hm⟩).2⟩

/-- Step 4 of R60 passes just when everything named has arrived. -/
theorem parkFor_eq_none_iff {x : Ctx} {u : Use} : parkFor x u = none ↔ OperandsArrived x u := by
  have hq : (u.qs.find? fun n => !queueReady x.g n) = none ↔ ∀ n ∈ u.qs, queueReady x.g n = true := by simp
  have hp : ((u.rd ++ u.wr).filter fun k => (Tab.get? x.g.pend k).isSome) = [] ↔ ∀ k ∈ u.rd ++ u.wr, Tab.get? x.g.pend k = none := by
    simp only [List.filter_eq_nil_iff, Bool.not_eq_true, Option.isSome_eq_false_iff, Option.isNone_iff_eq_none]
  have he : (u.rd.filter fun k => Tab.get? x.g.note k = some .empty) = [] ↔ ∀ k ∈ u.rd, Tab.get? x.g.note k ≠ some .empty := by
    simp only [List.filter_eq_nil_iff, decide_eq_true_eq, ne_eq]
  have hsteps : parkFor x u = none ↔ (u.qs.find? fun n => !queueReady x.g n) = none ∧
      ((u.rd ++ u.wr).filter fun k => (Tab.get? x.g.pend k).isSome) = [] ∧
      (u.rd.filter fun k => Tab.get? x.g.note k = some .empty) = [] := by
    unfold parkFor
    generalize (u.rd ++ u.wr).filter (fun k => (Tab.get? x.g.pend k).isSome) = p
    generalize u.rd.filter (fun k => Tab.get? x.g.note k = some .empty) = e
    cases u.qs.find? fun n => !queueReady x.g n with
    | some n => simp
    | none => cases p <;> cases e <;> simp
  rw [hsteps, hq, hp, he]
  exact ⟨fun ⟨h1, h2, h3⟩ => ⟨h1, h2, h3⟩, fun ⟨h1, h2, h3⟩ => ⟨h1, h2, h3⟩⟩

section

variable {s : State} {x : Ctx} {u : Use}

theorem operandGate_illegal (h : u.bad = true ∨ 2 ≤ u.lits) : operandGate s x u = .trap 0x02 0 0 := by
  unfold operandGate
  rw [if_pos (by simpa using h)]

theorem operandGate_above (hb : u.bad = false) (hl : u.lits < 2) (h : ∃ n ∈ u.vs, x.g.vcount ≤ n) :
    operandGate s x u = .trap 0x05 (minOf (u.vs.filter fun n => x.g.vcount ≤ n)) 0 := by
  unfold operandGate
  rw [if_neg (by simp [hb, hl]), if_pos (by simpa using h)]

/-- The register reported is the lowest of those at or above VCOUNT. -/
theorem operandGate_lowestAbove (hb : u.bad = false) (hl : u.lits < 2) {n : Nat} (hn : n ∈ u.vs) (hv : x.g.vcount ≤ n)
    (hleast : ∀ k ∈ u.vs, x.g.vcount ≤ k → n ≤ k) : operandGate s x u = .trap 0x05 n 0 := by
  have hmem : n ∈ u.vs.filter fun k => x.g.vcount ≤ k := by simp [hn, hv]
  have hmin : minOf (u.vs.filter fun k => x.g.vcount ≤ k) = n :=
    (minOf_le hmem).antisymm (le_minOf (List.ne_nil_of_mem hmem) (by simpa using hleast))
  rw [operandGate_above hb hl ⟨n, hn, hv⟩, hmin]

theorem operandGate_stale (hb : u.bad = false) (hl : u.lits < 2) (hv : ∀ k ∈ u.vs, k < x.g.vcount)
    (h : ∃ n ∈ u.latches, latchOk x.f n = false) : operandGate s x u = .trap 0x06 0 0 := by
  unfold operandGate
  rw [if_neg (by simp [hb, hl]), if_neg (by simpa using hv), if_pos (by simpa using h)]

/-- Past the first three steps the rest of R60 decides: waiting, and then the errors of the words read. -/
theorem operandGate_legal (h : OperandsLegal x u) :
    operandGate s x u = match parkFor x u with
      | some w => .park w
      | none => errGate (wrongWords s x u true) (wrongWords s x u false) := by
  obtain ⟨hb, hl, hv, hn⟩ := h
  unfold operandGate
  rw [if_neg (by simp [hb, hl]), if_neg (by simpa using hv), if_neg (by simpa using hn)]
  rfl

/-- An instruction that is not trapped by the first three steps of R60 has legal operands. -/
theorem operandsLegal_of_not_trap (h : ∀ code i0 i1, operandGate s x u ≠ .trap code i0 i1) : OperandsLegal x u := by
  have hill : ¬ (u.bad = true ∨ 2 ≤ u.lits) := fun hc => h _ _ _ (operandGate_illegal hc)
  obtain ⟨hb, hl⟩ : u.bad = false ∧ u.lits < 2 := by simpa using hill
  have hv : ∀ k ∈ u.vs, k < x.g.vcount := by
    by_contra hc
    exact h _ _ _ (operandGate_above hb hl (by simpa using hc))
  refine ⟨hb, hl, hv, ?_⟩
  by_contra hc
  exact h _ _ _ (operandGate_stale hb hl hv (by simpa using hc))

theorem operandGate_waits (h : OperandsLegal x u) (hw : ¬ OperandsArrived x u) : ∃ w, operandGate s x u = .park w := by
  rw [operandGate_legal h]
  rcases hp : parkFor x u with _ | w
  · exact absurd (parkFor_eq_none_iff.1 hp) hw
  · exact ⟨w, rfl⟩

theorem operandGate_arrived (h : OperandsLegal x u) (ha : OperandsArrived x u) :
    operandGate s x u = errGate (wrongWords s x u true) (wrongWords s x u false) := by
  rw [operandGate_legal h, parkFor_eq_none_iff.2 ha]

theorem operandGate_doubleError (h : OperandsLegal x u) (ha : OperandsArrived x u) (hw : ∃ k ∈ u.rd, WordWrong s x k true) :
    ∃ k ∈ u.rd, WordWrong s x k true ∧ operandGate s x u = .trap 0x11 (keyNumber k) 0 := by
  rw [operandGate_arrived h ha]
  rcases hc : wrongWords s x u true with _ | ⟨⟨k, w⟩, r⟩
  · obtain ⟨k, hk, hb⟩ := hw
    exact absurd hb (wrongWords_eq_nil_iff.1 hc k hk)
  · obtain ⟨hk, hb⟩ := exists_mem_wrongWords.1 ⟨w, hc ▸ List.mem_cons_self⟩
    exact ⟨k, hk, hb, rfl⟩

theorem operandGate_singleError (h : OperandsLegal x u) (ha : OperandsArrived x u) (h2 : ∀ k ∈ u.rd, ¬ WordWrong s x k true)
    (hw : ∃ k ∈ u.rd, WordWrong s x k false) : ∃ ws, operandGate s x u = .replay ws := by
  obtain ⟨k, hk, hb⟩ := hw
  have hne : wrongWords s x u false ≠ [] := fun he => wrongWords_eq_nil_iff.1 he k hk hb
  refine ⟨(wrongWords s x u false).map (·.2), ?_⟩
  rw [operandGate_arrived h ha, wrongWords_eq_nil_iff.2 h2, errGate, if_neg (by simpa using hne)]

/-- An instruction goes on just when every step of R60 passes. -/
theorem operandGate_eq_go_iff :
    operandGate s x u = .go ↔ OperandsLegal x u ∧ OperandsArrived x u ∧
      ∀ k ∈ u.rd, ¬ WordWrong s x k true ∧ ¬ WordWrong s x k false := by
  constructor
  · intro h
    have hlegal : OperandsLegal x u := operandsLegal_of_not_trap (s := s) fun _ _ _ ht => by cases ht.symm.trans h
    have harr : OperandsArrived x u := by
      by_contra hn
      obtain ⟨w, hw⟩ := operandGate_waits (s := s) hlegal hn
      cases hw.symm.trans h
    have htwo : ∀ k ∈ u.rd, ¬ WordWrong s x k true := fun k hk hw => by
      obtain ⟨_, _, _, ht⟩ := operandGate_doubleError hlegal harr ⟨k, hk, hw⟩
      cases ht.symm.trans h
    refine ⟨hlegal, harr, fun k hk => ⟨htwo k hk, fun hw => ?_⟩⟩
    obtain ⟨ws, hr⟩ := operandGate_singleError hlegal harr htwo ⟨k, hk, hw⟩
    cases hr.symm.trans h
  · rintro ⟨hl, ha, hw⟩
    rw [operandGate_arrived hl ha, wrongWords_eq_nil_iff.2 fun k hk => (hw k hk).1, wrongWords_eq_nil_iff.2 fun k hk => (hw k hk).2]
    rfl

end

end Sys2Proof
end

section

namespace Sys2Proof

open Sys2Proof.Machine

/-! ### An operand asks no more than its instruction -/

/-- All that `v` asks, `u` asks too. -/
structure AsksWithin (v u : Use) : Prop where
  bad : v.bad = true → u.bad = true
  lits : v.lits ≤ u.lits
  vs : v.vs ⊆ u.vs
  rd : v.rd ⊆ u.rd
  wr : v.wr ⊆ u.wr
  latches : v.latches ⊆ u.latches
  qs : v.qs ⊆ u.qs

theorem AsksWithin.refl (u : Use) : AsksWithin u u := ⟨id, le_rfl, fun _ h => h, fun _ h => h, fun _ h => h, fun _ h => h, fun _ h => h⟩

theorem AsksWithin.and_left {v u : Use} (h : AsksWithin v u) (w : Use) : AsksWithin v (u.and w) :=
  ⟨fun hb => by simp [Use.and, h.bad hb], h.lits.trans (Nat.le_add_right _ _), List.subset_append_of_subset_left _ h.vs,
    List.subset_append_of_subset_left _ h.rd, List.subset_append_of_subset_left _ h.wr, List.subset_append_of_subset_left _ h.latches,
    List.subset_append_of_subset_left _ h.qs⟩

theorem AsksWithin.and_right {v u : Use} (h : AsksWithin v u) (w : Use) : AsksWithin v (w.and u) :=
  ⟨fun hb => by simp [Use.and, h.bad hb], h.lits.trans (Nat.le_add_left _ _), List.subset_append_of_subset_right _ h.vs,
    List.subset_append_of_subset_right _ h.rd, List.subset_append_of_subset_right _ h.wr, List.subset_append_of_subset_right _ h.latches,
    List.subset_append_of_subset_right _ h.qs⟩

theorem AsksWithin.foldl {v a : Use} (h : AsksWithin v a) (i : AluI) (os : Opnds) :
    AsksWithin v (os.foldl (fun acc o => Use.and acc (useOf o.2 (i.fld o.1))) a) := by
  induction os generalizing a with
  | nil => exact h
  | cons o r ih => exact ih (h.and_left _)

theorem asksWithin_foldl {i : AluI} {os : Opnds} {o : Fld × Kind} (ho : o ∈ os) (a : Use) :
    AsksWithin (useOf o.2 (i.fld o.1)) (os.foldl (fun acc o => Use.and acc (useOf o.2 (i.fld o.1))) a) := by
  induction os generalizing a with
  | nil => cases ho
  | cons p r ih =>
    rcases List.mem_cons.1 ho with rfl | hr
    · exact ((AsksWithin.refl _).and_right a).foldl i r
    · exact ih hr _

theorem asksWithin_usesOf {i : AluI} {os : Opnds} {o : Fld × Kind} (ho : o ∈ os) :
    AsksWithin (useOf o.2 (i.fld o.1)) (usesOf i os) := by
  have h := asksWithin_foldl (i := i) ho Use.none
  unfold usesOf
  dsimp only
  split
  · exact h
  · exact ⟨fun _ => rfl, h.lits, h.vs, h.rd, h.wr, h.latches, h.qs⟩

/-- Where an instruction's checks pass, those of a part of its operands do. -/
theorem AsksWithin.gate_go {s : State} {x : Ctx} {v u : Use} (h : AsksWithin v u) (hu : operandGate s x u = .go) :
    operandGate s x v = .go := by
  obtain ⟨hlegal, harr, herr⟩ := operandGate_eq_go_iff.1 hu
  refine operandGate_eq_go_iff.2 ⟨⟨?_, h.lits.trans_lt hlegal.lits, fun k hk => hlegal.vs k (h.vs hk),
    fun n hn => hlegal.latches n (h.latches hn)⟩, ⟨fun n hn => harr.qs n (h.qs hn), fun k hk => harr.pend k ?_,
    fun k hk => harr.note k (h.rd hk)⟩, fun k hk => herr k (h.rd hk)⟩
  · exact Bool.eq_false_iff.2 fun hb => Bool.false_ne_true (hlegal.bad.symm.trans (h.bad hb))
  · exact List.mem_append.2 ((List.mem_append.1 hk).imp (fun hr => h.rd hr) fun hw => h.wr hw)

/-! ### Register ranges (R59, R194, R218) -/

/-- A computed number that is out of range traps where all the operands can be read. -/
theorem computedGate_go {s : State} {x : Ctx} {u v : Use} (hu : operandGate s x u = .go) (hv : operandGate s x v = .go) (b : Gate) :
    computedGate s x u v (some b) = b := by
  simp only [computedGate, hu, hv]

theorem baseUse_lt_vcount {s : State} {x : Ctx} {sel : Sel} {base : Nat} {w : Use} (hb : rangeBase sel = some base) (hv : base < 128)
    (hgo : operandGate s x (Use.and (baseUse sel) w) = .go) : base < x.g.vcount := by
  obtain ⟨hlegal, -, -⟩ := operandGate_eq_go_iff.1 hgo
  cases sel <;> cases hb
  case v => exact hlegal.vs _ (by simp [Use.and, baseUse, keyV])
  case s n => exact absurd hv (by simp [keyS])

theorem rangeBase_sel10_le {c : BitVec 10} {base : Nat} (hb : rangeBase (sel10 c) = some base) : base ≤ 512 := by
  unfold sel10 at hb
  dsimp only at hb
  split at hb
  · have hn := Option.some.inj hb
    simp only [keyV] at hn
    omega
  split at hb
  · have hn := Option.some.inj hb
    simp only [keyS] at hn
    omega
  split at hb
  · cases hb
  split at hb
  · cases hb
  split at hb <;> cases hb

/-- V registers past VCOUNT: the first of them is VCOUNT itself. -/
theorem rangeBad_vector {g : Group} {base n : Nat} (h1 : base < 128) (h2 : base < g.vcount) (h3 : g.vcount < base + n) :
    rangeBad g base n = some (g.vcount, 0) := by
  rw [rangeBad, if_pos h1, if_neg (by omega), max_eq_right (by omega)]

/-- S registers past S383: the first of them is 384. -/
theorem rangeBad_uniform {g : Group} {base n : Nat} (h1 : 128 ≤ base) (h2 : base ≤ 512) (h3 : 512 < base + n) :
    rangeBad g base n = some (384, 1) := by
  rw [rangeBad, if_neg (by omega), if_neg (by omega), max_eq_right (by omega)]

/-- A range with a register out of bounds takes REGIDX with that register and its file, where all its operands can be read. -/
theorem runRange_outOfBounds {s : State} {x : Ctx} {minor most : Nat} {f : Lg} {d : Opnds} {base i0 i1 : Nat}
    (k : Ctx → State → Nat → Nat → State) (hi : s.issuer = some x) (hok : lgOk 0x20 minor f = true)
    (hb : rangeBase (sel10 f.a) = some base)
    (hgo : operandGate s x (Use.and (baseUse (sel10 f.a)) (usesOf (lgView f) (rangeOps d))) = .go)
    (h0 : 0 < opVal s x (lgView f) (rangeOps d) .b 0) (hm : opVal s x (lgView f) (rangeOps d) .b 0 ≤ most)
    (hr : rangeBad x.g base (opVal s x (lgView f) (rangeOps d) .b 0) = some (i0, i1)) :
    runRange s minor most f d false k = .next (takeTrap s x 0x05 i0 i1) := by
  have hcount : AsksWithin (useOf (.uni .n32) (lgView f).b) (usesOf (lgView f) (rangeOps d)) :=
    asksWithin_usesOf (o := (.b, .uni .n32)) (List.mem_append_right _ List.mem_cons_self)
  have htrap : rangeTrap x.g base (uval s x f (rangeOps d) .b) most false = some (.trap 0x05 i0 i1) := by
    rw [rangeTrap, if_neg (by simp [uval, h0.ne', hm.not_gt]), uval, hr]
    rfl
  rw [runRange, withIssuer_eq hi]
  simp only [hok, Bool.not_true, Bool.false_eq_true, if_false, hb, Option.getD_some, htrap,
    computedGate_go hgo ((hcount.and_right _).gate_go hgo)]
  rfl

theorem bitAt_mod_four (m : Nat) : bitAt (m % 4) 0 = bitAt m 0 := by
  simp only [bitAt, pow_zero, Nat.div_one]
  rw [Nat.mod_mod_of_dvd m (by decide : 2 ∣ 4)]

/-- CAPMINT takes ILLOPND for its modifier only without a right, or for a range of S registers with the right to vector notes. -/
theorem exec_capmint_onRange {f : Lg} {base : Nat} (s : State) (hb : rangeBase (sel10 f.a) = some base) (hrights : f.mod.toNat % 4 ≠ 0)
    (hnote : bitAt f.mod.toNat 0 = true → base < 128) :
    ∃ k, exec (.capmint f) s = runRange s 0 128 f [(.d, .dstS true false)] false k := by
  have hbad : (f.mod.toNat % 4 = 0 || (bitAt (f.mod.toNat % 4) 0 && 128 ≤ (rangeBase (sel10 f.a)).getD 0)) = false := by
    simpa [hrights, bitAt_mod_four, hb] using hnote
  show ∃ k, execCapmint f s = _
  unfold execCapmint
  dsimp only
  rw [hbad]
  exact ⟨_, rfl⟩

/-- CAPMINT, EXPECT and NPOLL run on a register range. -/
theorem exec_onRange {f : Lg} {base : Nat} (s : State) (hb : rangeBase (sel10 f.a) = some base) :
    ∀ e ∈ [(Instr.capmint f, ([(.d, .dstS true false)] : Opnds), 128), (.expect f, [], 128), (.npoll f, [(.d, .dstS false true)], 32)],
      (e.1 = .capmint f → f.mod.toNat % 4 ≠ 0 ∧ (bitAt f.mod.toNat 0 = true → base < 128)) →
      ∃ minor k, exec e.1 s = runRange s minor e.2.2 f e.2.1 false k ∧ fieldsOk e.1 = lgOk 0x20 minor f := by
  simp only [List.forall_mem_cons, List.not_mem_nil, false_implies, implies_true, and_true]
  refine ⟨fun hc => ?_, fun _ => ⟨4, _, show execExpect f s = _ from rfl, rfl⟩, fun _ => ⟨5, _, show execNpoll f s = _ from rfl, rfl⟩⟩
  obtain ⟨hrights, hnote⟩ := hc trivial
  obtain ⟨k, hk⟩ := exec_capmint_onRange s hb hrights hnote
  exact ⟨0, k, hk, rfl⟩

/-- What the three instructions answer for a range with a register out of bounds. -/
theorem exec_onRange_regidx {s : State} {x : Ctx} {f : Lg} {base i0 i1 : Nat} {e : Instr × Opnds × Nat} (hi : s.issuer = some x)
    (hb : rangeBase (sel10 f.a) = some base)
    (hex : ∃ minor k, exec e.1 s = runRange s minor e.2.2 f e.2.1 false k ∧ fieldsOk e.1 = lgOk 0x20 minor f)
    (hok : fieldsOk e.1 = true)
    (hgo : operandGate s x (Use.and (baseUse (sel10 f.a)) (usesOf (lgView f) (rangeOps e.2.1))) = .go)
    (h0 : 0 < opVal s x (lgView f) (rangeOps e.2.1) .b 0) (hm : opVal s x (lgView f) (rangeOps e.2.1) .b 0 ≤ e.2.2)
    (hr : rangeBad x.g base (opVal s x (lgView f) (rangeOps e.2.1) .b 0) = some (i0, i1)) :
    ∃ t, exec e.1 s = .next t ∧ RegistersOnly x.gid s t ∧
      TrapTaken x t x.f.pc0 x.f.pc x.f.idx 0x05 i0 i1 x.f.scc (formatWords x.f) := by
  obtain ⟨minor, k, hrun, hfields⟩ := hex
  obtain ⟨-, hg, -, hf⟩ := issuer_spec hi
  exact ⟨_, hrun.trans (runRange_outOfBounds k hi (hfields ▸ hok) hb hgo h0 hm hr), regs_takeTrap _ _ _ _ _,
    trapTaken_takeTrap hg (.refl _) hf _ _ _⟩

end Sys2Proof
end

section

namespace Sys2Proof

open Sys2Proof.Machine

/-! ### The values of sources (R46 to R57, R377) -/

theorem OpTy.w_eq_bitsOf (t : OpTy) : t.w = bitsOf t.wide := rfl

/-- The inline constants 17 to 23 are -1 to -7 (R57). -/
theorem constValue_negative (t : OpTy) {c : Nat} (h1 : 17 ≤ c) (h2 : c ≤ 23) : constValue t c + (c - 16) = 2 ^ bitsOf t.wide := by
  unfold constValue
  rw [if_neg (by omega), if_pos h2, OpTy.w_eq_bitsOf, wrap]
  cases t.wide <;> simp only [bitsOf, Bool.false_eq_true, if_true, if_false] <;> omega

/-- What a word stands for in an operand of a type (R56, R377). -/
def widenedWord (t : OpTy) (w : Word) : Nat :=
  match t with
  | .i64 => (sgn 32 w.toNat % ((2 ^ 64 : Nat) : Int)).toNat
  | .f64 => w.toNat * 2 ^ 32
  | _ => w.toNat

theorem signExtend_toNat (w : Word) : (w.signExtend 64).toNat = (sgn 32 w.toNat % ((2 ^ 64 : Nat) : Int)).toNat := by
  have hsgn : w.toInt = sgn 32 w.toNat := by
    have hlt := w.isLt
    rw [BitVec.toInt_eq_toNat_cond, sgn, Nat.mod_eq_of_lt hlt]
    split <;> split <;> omega
  rw [BitVec.signExtend, BitVec.toNat_ofInt, hsgn]

theorem widenWord_eq (t : OpTy) (w : Word) : widenWord t w = widenedWord t w := by
  cases t
  case i64 => exact signExtend_toNat w
  all_goals rfl

/-- The float patterns of the inline constants 24 to 31 at a type (R57): ±0.5, ±1, ±2, ±4. -/
def floatConstants (t : OpTy) : List Nat :=
  match t with
  | .f16x2 => [0x38003800, 0xB800B800, 0x3C003C00, 0xBC00BC00, 0x40004000, 0xC000C000, 0x44004400, 0xC400C400]
  | .bf16x2 => [0x3F003F00, 0xBF00BF00, 0x3F803F80, 0xBF80BF80, 0x40004000, 0xC000C000, 0x40804080, 0xC080C080]
  | _ => if t.wide then
      [0x3FE0 * 2 ^ 48, 0xBFE0 * 2 ^ 48, 0x3FF0 * 2 ^ 48, 0xBFF0 * 2 ^ 48, 0x4000 * 2 ^ 48, 0xC000 * 2 ^ 48, 0x4010 * 2 ^ 48, 0xC010 * 2 ^ 48]
    else [0x3F000000, 0xBF000000, 0x3F800000, 0xBF800000, 0x40000000, 0xC0000000, 0x40800000, 0xC0800000]

theorem constValue_float (t : OpTy) : ∀ k < 8, constValue t (24 + k) = nth (floatConstants t) k 0 := by
  cases t <;> decide

theorem mod_bitsOf {a : Nat} (wide : Bool) (h : a < 2 ^ 32) : a % 2 ^ bitsOf wide = a :=
  Nat.mod_eq_of_lt (h.trans_le (by cases wide <;> decide))

/-- The bits of a sum of one power of two for each number below `n` that does not meet `p`. -/
theorem sumOfPowers_spec (p : Nat → Prop) [DecidablePred p] (n : Nat) :
    (List.range n).foldl (fun acc i => if p i then acc else acc + 2 ^ i) 0 < 2 ^ n ∧
      ∀ i < n, ((List.range n).foldl (fun acc i => if p i then acc else acc + 2 ^ i) 0).testBit i = decide (¬ p i) := by
  induction n with
  | zero => simp
  | succ n ih =>
    obtain ⟨hlt, hbits⟩ := ih
    rw [List.range_succ, List.foldl_append]
    generalize (List.range n).foldl (fun acc i => if p i then acc else acc + 2 ^ i) 0 = a at hlt hbits ⊢
    simp only [List.foldl_cons, List.foldl_nil]
    refine ⟨by split <;> omega, fun i hi => ?_⟩
    rcases Nat.lt_succ_iff_lt_or_eq.1 hi with hi | rfl
    · split
      · exact hbits i hi
      · rw [Nat.add_comm, Nat.testBit_two_pow_add_gt hi, hbits i hi]
    · split
      · next h => simp [h, Nat.testBit_lt_two_pow hlt]
      · next h => rw [Nat.add_comm, Nat.testBit_two_pow_add_eq, Nat.testBit_lt_two_pow hlt, decide_eq_true h, Bool.not_false]

theorem bitAt_eq_testBit (v i : Nat) : bitAt v i = v.testBit i := by
  rw [Nat.testBit_eq_decide_div_mod_eq]
  rfl

/-- A special register is read modulo 2^32 or 2^64 (R50). -/
theorem readSel_special (s : State) (x : Ctx) (lit : Option Word) (t : OpTy) {sel : Sel} {l : Nat}
    (h : sel ∈ [Sel.exec, .flags, .gslot, .teamid, .cohid, .core, .clock, .prio, .topv, .cfcnt]) :
    readSel s x lit t sel l = specialValue s x sel % 2 ^ bitsOf t.wide := by
  simp only [List.mem_cons, List.not_mem_nil, or_false] at h
  rcases h with rfl | rfl | rfl | rfl | rfl | rfl | rfl | rfl | rfl | rfl <;> rfl

/-- CFCNT (R50): the sum of the flags' counts above a bit for each flag whose count is not zero. -/
theorem readSel_cfcnt (s : State) (x : Ctx) (lit : Option Word) (t : OpTy) (l : Nat) (hlen : x.g.fcnt.length = 12)
    (hle : ∀ n ∈ x.g.fcnt, n ≤ 63) :
    readSel s x lit t .cfcnt l / 2 ^ 12 = x.g.fcnt.sum ∧
      ∀ n, n < 12 → (bitAt (readSel s x lit t .cfcnt l) n = true ↔ nth x.g.fcnt n 0 ≠ 0) := by
  have hsum : x.g.fcnt.sum ≤ 12 * 63 := by simpa [hlen] using List.sum_le_card_nsmul x.g.fcnt 63 hle
  obtain ⟨hlt, hbits⟩ := sumOfPowers_spec (fun n => nth x.g.fcnt n 0 = 0) 12
  have hval : readSel s x lit t .cfcnt l =
      (List.range 12).foldl (fun acc n => if nth x.g.fcnt n 0 = 0 then acc else acc + 2 ^ n) 0 + x.g.fcnt.sum * 2 ^ 12 := by
    rw [readSel_special s x lit t (by simp), specialValue, ← List.sum_eq_foldl]
    exact mod_bitsOf _ (by omega)
  rw [hval]
  generalize (List.range 12).foldl (fun acc n => if nth x.g.fcnt n 0 = 0 then acc else acc + 2 ^ n) 0 = v at hlt hbits ⊢
  refine ⟨by omega, fun n hn => ?_⟩
  have hlow : (v + x.g.fcnt.sum * 2 ^ 12) % 2 ^ 12 = v := by omega
  have hbit : v.testBit n = (v + x.g.fcnt.sum * 2 ^ 12).testBit n := by
    conv_lhs => rw [← hlow, Nat.testBit_mod_two_pow, decide_eq_true hn, Bool.true_and]
  rw [bitAt_eq_testBit, ← hbit, hbits n hn, decide_eq_true_iff]

theorem readSel_latch {s : State} {x : Ctx} {n : Nat} {y : Latch} (lit : Option Word) (t : OpTy) (l : Nat)
    (h : Tab.get? x.f.latches n = some y) :
    readSel s x lit t (.latch n) l =
      if t.wide = false then (nth y.vals (if y.uniform then 0 else l) 0).toNat % 2 ^ 32
      else if y.wide then (nth y.vals (if y.uniform then 0 else l) 0).toNat
      else widenedWord t (loHalf (nth y.vals (if y.uniform then 0 else l) 0)) := by
  have hval : readSel s x lit t (.latch n) l = latchValue t y l := by
    unfold readSel
    dsimp only
    rw [h]
  rw [hval, latchValue, widenWord_eq, OpTy.w_eq_bitsOf]
  generalize nth y.vals (if y.uniform then 0 else l) 0 = w
  have hlt : w.toNat % 2 ^ 64 = w.toNat := Nat.mod_eq_of_lt w.isLt
  cases t.wide with
  | false => rfl
  | true =>
    cases y.wide with
    | false => rfl
    | true => exact hlt

theorem queueHead_eq {g : Group} {n : Nat} {e : QSlot} {r : List QSlot} {ws : List Word} (h : nth g.queues n [] = e :: r)
    (hv : e.val = some ws) : queueHead g n = ws := by
  simp [queueHead, h, hv]

/-- An entry of Q0 to Q3 holds a word for each lane. -/
theorem readSel_narrowQueue (s : State) (x : Ctx) (lit : Option Word) (t : OpTy) (l : Nat) {n : Nat} {e : QSlot} {r : List QSlot}
    {ws : List Word} (h : nth x.g.queues n [] = e :: r) (hv : e.val = some ws) (hn : n ≤ 3) :
    readSel s x lit t (.q n) l = (nth ws l 0).toNat := by
  rw [← queueHead_eq h hv]
  exact if_pos hn

/-- An entry of Q4 to Q6 is a pair. -/
theorem readSel_pairQueue (s : State) (x : Ctx) (lit : Option Word) (l : Nat) {t : OpTy} {n : Nat} {e : QSlot} {r : List QSlot}
    {ws : List Word} (h : nth x.g.queues n [] = e :: r) (hv : e.val = some ws) (hn : 4 ≤ n) (ht : t.wide = true) :
    readSel s x lit t (.q n) l = (nth ws 0 0).toNat + (nth ws 1 0).toNat * 2 ^ 32 := by
  have hw : t.w = 64 := if_pos ht
  have hlt := (pairOf (nth ws 0 0) (nth ws 1 0)).isLt
  have hval : readSel s x lit t (.q n) l = (pairOf (nth (queueHead x.g n) 0 0) (nth (queueHead x.g n) 1 0)).toNat % 2 ^ t.w :=
    if_neg (by omega)
  rw [hval, queueHead_eq h hv, hw, Nat.mod_eq_of_lt hlt, pairOf_toNat]

/-- The values of the special registers but CFCNT and LANEID: those of 32 bits or fewer whole, EXEC and CLOCK modulo the width (R50). -/
theorem readSel_specials (s : State) (x : Ctx) (lit : Option Word) (t : OpTy) (l : Nat) :
    readSel s x lit t .exec l = x.f.exec.toNat % 2 ^ bitsOf t.wide ∧
    (x.g.sticky < 256 → readSel s x lit t .flags l = (if x.f.scc then 1 else 0) + (if x.f.carry then 2 else 0) + x.g.sticky) ∧
    readSel s x lit t .gslot l = x.gid % 128 ∧ readSel s x lit t .teamid l = x.g.teamid.toNat ∧
    readSel s x lit t .cohid l = x.g.cohid.toNat ∧ (x.gid < 2 ^ 14 → readSel s x lit t .core l = x.gid / 128) ∧
    readSel s x lit t .clock l = s.clock % 2 ^ bitsOf t.wide ∧
    readSel s x lit t .prio l = x.g.eprio % 16 + x.g.bprio % 16 * 2 ^ 4 ∧ readSel s x lit t .topv l = s.topv % 2 ^ 16 := by
  refine ⟨rfl, fun h => ?_, ?_, ?_, ?_, fun h => ?_, ?_, ?_, ?_⟩
  · have hval : flagsValue x.g x.f = (if x.f.scc then 1 else 0) + (if x.f.carry then 2 else 0) + x.g.sticky := by
      unfold flagsValue bitOf
      cases x.f.scc <;> cases x.f.carry <;> rfl
    rw [readSel_special s x lit t (by simp), specialValue, hval]
    exact mod_bitsOf _ (by split <;> split <;> omega)
  · exact mod_bitsOf _ (show x.gid % 128 < 2 ^ 32 by omega)
  · exact mod_bitsOf _ x.g.teamid.isLt
  · exact mod_bitsOf _ x.g.cohid.isLt
  · exact mod_bitsOf _ (show x.gid / 128 < 2 ^ 32 by omega)
  · exact Nat.mod_mod_of_dvd _ (Nat.pow_dvd_pow 2 (show bitsOf t.wide ≤ 64 by cases t.wide <;> decide))
  · exact mod_bitsOf _ (show x.g.eprio % 16 + x.g.bprio % 16 * 16 < 2 ^ 32 by omega)
  · exact mod_bitsOf _ (show s.topv % 2 ^ 16 < 2 ^ 32 by omega)

end Sys2Proof
end

section

namespace Sys2Proof

open Sys2Proof.Machine

/-- Settles O20: the checks step by step, the ranges of the three instructions that name one, and a value for each kind of source. -/
theorem operandChecksInOrder : Obligations.OperandChecksInOrder := by
  refine ⟨fun s x u => ?_, fun s x f base hi hb e he => ?_, fun s x lit t l hl => ?_⟩
  · intro calm here wrong
    have legal : calm → OperandsLegal x u := fun ⟨h1, h2, h3, h4⟩ => ⟨h1, h2, h3, h4⟩
    have arrived : here → OperandsLegal x u ∧ OperandsArrived x u := fun ⟨hc, h1, h2, h3⟩ => ⟨legal hc, h1, h2, h3⟩
    refine ⟨operandGate_illegal, fun hb hl' n hn hv hle => operandGate_lowestAbove hb hl' hn hv hle, operandGate_stale,
      fun hc hw => operandGate_waits (legal hc) fun ha => ?_, fun hh hw => ?_, fun hh h2 hw => ?_, fun hh hw => ?_⟩
    · rcases hw with ⟨n, hn, hq⟩ | ⟨k, hk, hp⟩ | ⟨k, hk, he⟩
      · exact Bool.false_ne_true (hq.symm.trans (ha.qs n hn))
      · rw [ha.pend k hk] at hp
        cases hp
      · exact ha.note k hk he
    · exact operandGate_doubleError (arrived hh).1 (arrived hh).2 hw
    · exact operandGate_singleError (arrived hh).1 (arrived hh).2 h2 hw
    · exact operandGate_eq_go_iff.2 ⟨(arrived hh).1, (arrived hh).2, hw⟩
  · intro n ends hok hgo h0 hm hc
    have hex := exec_onRange s hb e he hc
    exact ⟨fun hv hn => exec_onRange_regidx hi hb hex hok hgo h0 hm (rangeBad_vector hv (baseUse_lt_vcount hb hv hgo) hn),
      fun hv hn => exec_onRange_regidx hi hb hex hok hgo h0 hm (rangeBad_uniform hv (rangeBase_sel10_le hb) hn)⟩
  · intro rd widened floats
    obtain ⟨hexec, hflags, hgslot, hteamid, hcohid, hcore, hclock, hprio, htopv⟩ := readSel_specials s x lit t l
    refine ⟨fun n => ⟨rfl, rfl⟩, fun c hc => if_pos hc, fun c h1 h2 => constValue_negative t h1 h2, constValue_float t,
      fun w hw => ?_, rfl, rfl, hexec, fun h _ => hflags h, hgslot, hteamid, hcohid, hcore, hclock, hprio, htopv,
      readSel_cfcnt s x lit t l, fun n y hy => readSel_latch lit t l hy, fun n e r ws he hv => ⟨fun hn ht => ?_, fun h4 _ ht => ?_⟩⟩
    · subst hw
      exact widenWord_eq t w
    · exact readSel_narrowQueue s x lit t l he hv hn
    · exact readSel_pairQueue s x lit l he hv h4 ht

end Sys2Proof
end

namespace Sys2Proof

/-! ### The opcode tables, both ways (R66, R73, R338) -/

theorem eq_ofNat_of_toNat {w k : Nat} {x : BitVec w} (h : x.toNat = k) : x = BitVec.ofNat w k := by
  rw [← h, BitVec.ofNat_toNat, BitVec.setWidth_eq]

/-- What the table `t` lists under an opcode is encoded with that opcode, and if it is an action of TRIG, its immediate
says so (R338). -/
def Lists {w : Nat} (t : Nat → Option Instr) (e : BitVec w → Enc) : Prop :=
  ∀ n, (t n).map (fun i => (i.enc, trigWf i)) = (t n).map fun _ => (some (e (BitVec.ofNat w n)), true)

theorem Lists.enc {w : Nat} {t : Nat → Option Instr} {e : BitVec w → Enc} (h : Lists t e) {m : BitVec w} {i : Instr}
    (hm : t m.toNat = some i) : i.enc = some (e m) ∧ trigWf i = true := by
  have henc := h m.toNat
  rw [hm, ← eq_ofNat_of_toNat rfl] at henc
  exact Prod.mk.inj (Option.some.inj henc)

theorem vintInstr_lists (f : Lg) : Lists (vintInstr f) (.lg 0x00#6 · f) := by
  intro n
  iterate 31
    obtain _ | n := n
    · rfl
  rfl

theorem vfltInstr_lists (f : Lg) : Lists (vfltInstr f) (.lg 0x01#6 · f) := by
  intro n
  iterate 14
    obtain _ | n := n
    · rfl
  rfl

theorem vxfnInstr_lists (f : Lg) : Lists (vxfnInstr f) (.lg 0x02#6 · f) := by
  intro n
  iterate 8
    obtain _ | n := n
    · rfl
  rfl

theorem vcnvInstr_lists (f : Lg) : Lists (vcnvInstr f) (.lg 0x03#6 · f) := by
  intro n
  iterate 9
    obtain _ | n := n
    · rfl
  rfl

theorem vlaneInstr_lists (f : Lg) : Lists (vlaneInstr f) (.lg 0x04#6 · f) := by
  intro n
  iterate 10
    obtain _ | n := n
    · rfl
  rfl

theorem ualuInstr_lists (f : Lg) : Lists (ualuInstr f) (.lg 0x08#6 · f) := by
  intro n
  iterate 25
    obtain _ | n := n
    · rfl
  rfl

theorem mordInstr_lists (f : Lg) : Lists (mordInstr f) (.lg 0x13#6 · f) := by
  intro n
  iterate 14
    obtain _ | n := n
    · rfl
  rfl

theorem noteInstr_lists (f : Lg) : Lists (noteInstr f) (.lg 0x20#6 · f) := by
  intro n
  iterate 6
    obtain _ | n := n
    · rfl
  rfl

theorem attnInstr_lists (f : Lg) : Lists (attnInstr f) (.lg 0x21#6 · f) := by
  intro n
  iterate 10
    obtain _ | n := n
    · rfl
  rfl

theorem workInstr_lists (f : Lg) : Lists (workInstr f) (.lg 0x22#6 · f) := by
  intro n
  iterate 7
    obtain _ | n := n
    · rfl
  rfl

theorem systInstr_lists (f : Lg) : Lists (systInstr f) (.lg 0x23#6 · f) := by
  intro n
  iterate 8
    obtain _ | n := n
    · rfl
  rfl

theorem mglbInstr_lists (f : Lm) : Lists (mglbInstr f) (.lm 0x10#6 · f) := by
  intro n
  iterate 5
    obtain _ | n := n
    · rfl
  rfl

theorem mscrInstr_lists (f : Lm) : Lists (mscrInstr f) (.lm 0x11#6 · f) := by
  intro n
  iterate 4
    obtain _ | n := n
    · rfl
  rfl

theorem matmInstr_lists (f : La) : Lists (matmInstr f) (.la 0x12#6 · f) := by
  intro n
  iterate 4
    obtain _ | n := n
    · rfl
  rfl

theorem mtrxInstr_lists (f : Lx) : Lists (mtrxInstr f) (.lx 0x18#6 · f) := by
  intro n
  iterate 7
    obtain _ | n := n
    · rfl
  rfl

theorem ctrlInstr_lists (f : Lb) : Lists (ctrlInstr f) (.lb 0x09#6 · f) := by
  intro n
  iterate 10
    obtain _ | n := n
    · rfl
  rfl

theorem vs3Instr_lists (f : Vs3) : Lists (vs3Instr f) (.vs3 · f) := by
  intro n
  iterate 18
    obtain _ | n := n
    · rfl
  rfl

theorem vs2iInstr_lists (f : Vs2i) : Lists (vs2iInstr f) (.vs2i · f) := by
  intro n
  iterate 36
    obtain _ | n := n
    · rfl
  rfl

theorem prInstr_trig (f : Pr) :
    prInstr f 0x13 = match f.imm.toNat % 4 with
      | 0 => some (.prTrigIrq f)
      | 1 => some (.prTrigSnap f)
      | 2 => some (.prTrigArm f)
      | _ => some (.prTrigDisarm f) := rfl

/-- TRIG is read as the action that its immediate names (R338). -/
theorem exists_prInstr_trig (f : Pr) :
    ∃ i, prInstr f 0x13 = some i ∧ i.enc = some (.pr 0x13#6 f) ∧ trigWf i = true := by
  have hact := (by decide : ∀ k < 4, k = 0 ∨ k = 1 ∨ k = 2 ∨ k = 3) _ (Nat.mod_lt f.imm.toNat (by decide))
  rw [prInstr_trig]
  rcases hact with h | h | h | h <;> rw [h] <;> exact ⟨_, rfl, rfl, beq_iff_eq.2 h⟩

theorem prInstr_lists (f : Pr) : Lists (prInstr f) (.pr · f) := by
  intro n
  iterate 19
    obtain _ | n := n
    · rfl
  obtain _ | n := n
  · obtain ⟨i, hi, henc, ht⟩ := exists_prInstr_trig f
    simp only [Nat.reduceAdd, hi, henc, ht, Option.map_some]
  iterate 2
    obtain _ | n := n
    · rfl
  rfl

/-- The instruction that the tables give an encoding has that encoding. The cases of a format are the majors of its
tables. -/
theorem enc_of_instr? {e : Enc} {i : Instr} (h : e.instr? = some i) : i.enc = some e ∧ trigWf i = true := by
  cases e with
  | vs3 maj f => exact (vs3Instr_lists f).enc h
  | vs2i maj f => exact (vs2iInstr_lists f).enc h
  | us f | usi f | nop f => cases h; exact ⟨rfl, rfl⟩
  | br maj f =>
    delta Enc.instr? at h
    dsimp only at h
    split at h
    case h_3 => cases h
    all_goals rename_i hmaj; rw [eq_ofNat_of_toNat hmaj]; cases h; exact ⟨rfl, rfl⟩
  | lg maj minor f =>
    delta Enc.instr? at h
    dsimp only at h
    split at h
    case h_12 => cases h
    all_goals rename_i hmaj; rw [eq_ofNat_of_toNat hmaj]
    exacts [(vintInstr_lists f).enc h, (vfltInstr_lists f).enc h, (vxfnInstr_lists f).enc h, (vcnvInstr_lists f).enc h,
      (vlaneInstr_lists f).enc h, (ualuInstr_lists f).enc h, (mordInstr_lists f).enc h, (noteInstr_lists f).enc h,
      (attnInstr_lists f).enc h, (workInstr_lists f).enc h, (systInstr_lists f).enc h]
  | lm maj minor f =>
    delta Enc.instr? at h
    dsimp only at h
    split at h
    case h_3 => cases h
    all_goals rename_i hmaj; rw [eq_ofNat_of_toNat hmaj]
    exacts [(mglbInstr_lists f).enc h, (mscrInstr_lists f).enc h]
  | la maj minor f =>
    delta Enc.instr? at h
    dsimp only at h
    split at h
    case h_2 => cases h
    all_goals rename_i hmaj; rw [eq_ofNat_of_toNat hmaj]
    exact (matmInstr_lists f).enc h
  | lx maj minor f =>
    delta Enc.instr? at h
    dsimp only at h
    split at h
    case h_2 => cases h
    all_goals rename_i hmaj; rw [eq_ofNat_of_toNat hmaj]
    exact (mtrxInstr_lists f).enc h
  | lb maj minor f =>
    delta Enc.instr? at h
    dsimp only at h
    split at h
    case h_2 => cases h
    all_goals rename_i hmaj; rw [eq_ofNat_of_toNat hmaj]
    exact (ctrlInstr_lists f).enc h
  | pr op f => exact (prInstr_lists f).enc h

/-! ### Formats (R65 to R71) -/

/-- The format of an encoding; a Proctor word has none. -/
def Enc.fmt : Enc → Option Fmt
  | .vs3 .. => some .vs3
  | .vs2i .. => some .vs2i
  | .us .. => some .us
  | .usi .. => some .usi
  | .br .. => some .br
  | .nop .. => some .nop
  | .lg .. => some .lg
  | .lm .. => some .lm
  | .la .. => some .la
  | .lx .. => some .lx
  | .lb .. => some .lb
  | .pr .. => none

/-- The forms of more than one word (R63). -/
def Fmt.long : Fmt → Bool
  | .lg | .lm | .la | .lx | .lb => true
  | _ => false

/-- The one major that a format stands for, where it stands for one (R65). -/
def Fmt.onlyMajor : Fmt → Option (BitVec 6)
  | .us => some 0x28#6
  | .usi => some 0x29#6
  | .nop => some 0x3F#6
  | _ => none

theorem majorFmt_all : ∀ long, ∀ n < 64,
    (majorFmt long n).all (fun fmt => fmt.long == long && fmt.onlyMajor.all (· == BitVec.ofNat 6 n)) = true := by
  decide

/-- A listed major says whether the form is long, and is the format's one major where it has one. -/
theorem of_majorFmt {long : Bool} {maj : BitVec 6} {fmt : Fmt} (h : majorFmt long maj.toNat = some fmt) :
    long = fmt.long ∧ ∀ k ∈ fmt.onlyMajor, maj = k := by
  have hall := majorFmt_all long maj.toNat maj.isLt
  rw [h, Option.all_some, Bool.and_eq_true, ← eq_ofNat_of_toNat rfl] at hall
  obtain ⟨hlong, honly⟩ := hall
  exact ⟨(eq_of_beq hlong).symm, fun k hk => (eq_of_beq ((Option.all_eq_true _ _).1 honly k hk)).symm⟩

/-- The major opcode that the first word of an encoding carries. -/
def Enc.major : Enc → BitVec 6
  | .vs3 m _ | .vs2i m _ | .br m _ | .lg m _ _ | .lm m _ _ | .la m _ _ | .lx m _ _ | .lb m _ _ => m
  | .us _ => 0x28#6
  | .usi _ => 0x29#6
  | .nop _ => 0x3F#6
  | .pr _ _ => 0

/-- The major of an encoding is listed in step 1 under the encoding's format (R65, R73). -/
def Enc.listed (e : Enc) : Bool := e.fmt.all fun fmt => majorFmt fmt.long e.major.toNat == some fmt

theorem majorFmt_of_listed {e : Enc} {fmt : Fmt} (hf : e.fmt = some fmt) (h : e.listed = true) :
    majorFmt fmt.long e.major.toNat = some fmt := by
  rw [Enc.listed, hf] at h
  exact eq_of_beq h

/-- The tables give back each instruction from its encoding, unless that is TRIG's under another action (R338). -/
theorem enc_tables (i : Instr) (ht : (i.enc.all (·.fmt.isSome) || trigWf i) = true) :
    i.enc.map (fun e => (e.instr?, e.listed)) = i.enc.map fun _ => (some i, true) := by
  induction i with
  | prTrigIrq f | prTrigSnap f | prTrigArm f | prTrigDisarm f =>
    exact congrArg (fun o => some (o, true)) ((prInstr_trig f).trans (by rw [eq_of_beq ht]; rfl))
  | _ => rfl

theorem instr?_of_enc {i : Instr} {e : Enc} (h : i.enc = some e) (ht : (e.fmt.isSome || trigWf i) = true) :
    e.instr? = some i ∧ e.listed = true := by
  have hback := enc_tables i (by rw [h]; exact ht)
  rw [h] at hback
  exact Prod.mk.inj (Option.some.inj hback)

theorem wf_of_enc {i : Instr} {e : Enc} (h : i.enc = some e) : i.wf = (e.wf && trigWf i) := by
  rw [Instr.wf, h]

/-! ### Rows of fields (R4) -/

theorem toNat_field (w : Word) (lo n : Nat) : (field w lo n).toNat = w.toNat / 2 ^ lo % 2 ^ n :=
  BitVec.toNat_ofNat _ _

theorem field_word (w : Word) : field w 0 32 = w := by
  rw [field, Nat.pow_zero, Nat.div_one, BitVec.ofNat_toNat, BitVec.setWidth_eq]

theorem bitOf_flag (w : Word) (i : Nat) : bitOf (flag w i) = w.toNat / 2 ^ i % 2 := by
  rcases Nat.mod_two_eq_zero_or_one (w.toNat / 2 ^ i) with h | h <;> simp [flag, bitOf, h]

/-- A field of a word: bits, a flag, a bit that is 1, or bits that are 0. -/
inductive WordField where
  | bits {k : Nat} (v : BitVec k)
  | bit (b : Bool)
  | one
  | zero (k : Nat)

namespace WordField

/-- How many bits a field takes. -/
def width : WordField → Nat
  | @bits k _ => k
  | bit _ | one => 1
  | zero k => k

/-- The number that a field holds. -/
def value : WordField → Nat
  | bits v => v.toNat
  | bit b => bitOf b
  | one => 1
  | zero _ => 0

/-- The decoder reads this field from bit `lo` of `w` upward. -/
def ReadAt (w : Word) (lo : Nat) : WordField → Prop
  | @bits k v => field w lo k = v
  | bit b => flag w lo = b
  | one => flag w lo = true
  | zero k => (field w lo k == 0) = true

theorem value_lt (x : WordField) : x.value < 2 ^ x.width := by
  cases x with
  | bits v => exact v.isLt
  | bit b => cases b <;> decide
  | one => decide
  | zero k => exact Nat.two_pow_pos k

theorem readAt_iff {w : Word} {lo : Nat} {x : WordField} :
    x.ReadAt w lo ↔ w.toNat / 2 ^ lo % 2 ^ x.width = x.value := by
  cases x with
  | bits v => rw [ReadAt, ← BitVec.toNat_inj, toNat_field]; rfl
  | bit b =>
    rw [ReadAt, width, value, Nat.pow_one, ← bitOf_flag]
    cases flag w lo <;> cases b <;> decide
  | one =>
    rw [ReadAt, width, value, Nat.pow_one, ← bitOf_flag]
    cases flag w lo <;> decide
  | zero k => rw [ReadAt, beq_iff_eq, ← BitVec.toNat_inj, toNat_field]; exact Iff.of_eq (congrArg _ (by simp [value]))

end WordField

/-- One bit that is 0, as LG of a short form, is a flag that is not set (R65). -/
theorem readAt_zero_iff {w : Word} {i : Nat} : (WordField.zero 1).ReadAt w i ↔ flag w i = false := by
  rw [WordField.readAt_iff, WordField.width, WordField.value, Nat.pow_one, ← bitOf_flag]
  cases flag w i <;> decide

/-- How many bits a row of fields takes. -/
def rowWidth : List WordField → Nat
  | [] => 0
  | x :: l => x.width + rowWidth l

/-- The number `n` with a row of fields written behind it, highest first. -/
def pack (n : Nat) : List WordField → Nat
  | [] => n
  | x :: l => pack (n * 2 ^ x.width + x.value) l

/-- The decoder reads each field of a row where the fields after it leave off. -/
def Reads (w : Word) : List WordField → Prop
  | [] => True
  | x :: l => x.ReadAt w (rowWidth l) ∧ Reads w l

theorem pack_div (n : Nat) (l : List WordField) : pack n l / 2 ^ rowWidth l = n := by
  induction l generalizing n with
  | nil => exact Nat.div_one n
  | cons x l ih =>
    rw [pack, rowWidth, Nat.add_comm x.width, Nat.pow_add, ← Nat.div_div_eq_div_mul, ih, Nat.mul_comm,
      Nat.mul_add_div (Nat.two_pow_pos _), Nat.div_eq_of_lt x.value_lt, Nat.add_zero]

/-- The fields that are read from a word are those that it is packed from. -/
theorem reads_iff {w : Word} (l : List WordField) : Reads w l ↔ pack (w.toNat / 2 ^ rowWidth l) l = w.toNat := by
  induction l with
  | nil => simp [Reads, pack, rowWidth]
  | cons x l ih =>
    have hdigit : w.toNat / 2 ^ rowWidth (x :: l) * 2 ^ x.width + w.toNat / 2 ^ rowWidth l % 2 ^ x.width =
        w.toNat / 2 ^ rowWidth l := by
      rw [rowWidth, Nat.add_comm x.width, Nat.pow_add, ← Nat.div_div_eq_div_mul, Nat.div_add_mod']
    rw [Reads, WordField.readAt_iff, pack, ih]
    constructor
    · rintro ⟨hx, hl⟩
      rw [← hx, hdigit, hl]
    · intro h
      have hhigh := pack_div (w.toNat / 2 ^ rowWidth (x :: l) * 2 ^ x.width + x.value) l
      rw [h] at hhigh
      exact ⟨Nat.add_left_cancel (hdigit.trans hhigh), hhigh ▸ h⟩

/-- A number written `n` bits up. -/
def shifted (v : Nat) : Nat → Nat
  | 0 => v
  | n + 1 => v * 2 ^ (n + 1)

theorem shifted_eq (v n : Nat) : shifted v n = v * 2 ^ n := by
  cases n with
  | zero => exact (Nat.mul_one v).symm
  | succ n => rfl

/-- A field added at its place, as `Enc.words` writes it. -/
def WordField.addTo (acc lo : Nat) : WordField → Nat
  | bits v => acc + shifted v.toNat lo
  | bit b => acc + shifted (bitOf b) lo
  | one => acc + 2 ^ lo
  | zero _ => acc

/-- A row of fields added, each at its place. -/
def addRow (acc : Nat) : List WordField → Nat
  | [] => acc
  | x :: l => addRow (x.addTo acc (rowWidth l)) l

/-- Fields that no term of `Enc.words` stands for. -/
def WordField.isZero : WordField → Bool
  | zero _ => true
  | _ => false

/-- The word that a row of fields makes. -/
def rowWord : List WordField → Word
  | [] => 0
  | x :: l => bif x.isZero then rowWord l else BitVec.ofNat 32 (addRow (shifted x.value (rowWidth l)) l)

theorem addTo_eq (acc lo : Nat) (x : WordField) : x.addTo acc lo = acc + x.value * 2 ^ lo := by
  cases x with
  | bits v | bit b => exact congrArg (acc + ·) (shifted_eq ..)
  | one => exact congrArg (acc + ·) (Nat.one_mul (2 ^ lo)).symm
  | zero k => exact congrArg (acc + ·) (Nat.zero_mul (2 ^ lo)).symm

theorem addRow_eq_pack (n : Nat) (l : List WordField) : addRow (n * 2 ^ rowWidth l) l = pack n l := by
  induction l generalizing n with
  | nil => exact Nat.mul_one n
  | cons x l ih => rw [addRow, addTo_eq, rowWidth, Nat.pow_add, ← Nat.mul_assoc, ← Nat.add_mul, ih, pack]

theorem rowWord_eq_pack (l : List WordField) : rowWord l = BitVec.ofNat 32 (pack 0 l) := by
  induction l with
  | nil => rfl
  | cons x l ih =>
    rw [pack, Nat.zero_mul, Nat.zero_add]
    cases x with
    | zero k => exact ih
    | _ => rw [← addRow_eq_pack, ← shifted_eq]; rfl

/-- A word is made of the fields that are read from it. -/
theorem rowWord_eq_iff {w : Word} {l : List WordField} (hl : rowWidth l = 32) : rowWord l = w ↔ Reads w l := by
  have hlt : pack 0 l < 2 ^ 32 := by
    have h := pack_div 0 l
    rw [hl] at h
    exact Nat.lt_of_div_eq_zero (by decide) h
  rw [reads_iff, hl, Nat.div_eq_of_lt w.isLt, rowWord_eq_pack, ← BitVec.toNat_inj, BitVec.toNat_ofNat,
    Nat.mod_eq_of_lt hlt]

/-! ### Format words -/

/-- The fields of the format words, highest first (R65 to R71, R338). -/
def Enc.rows : Enc → List (List WordField)
  | .vs3 maj f => [[.bit f.sp.isSome, .zero 1, .bits maj, .bits f.d, .bits f.a, .bits f.b]]
  | .vs2i maj f => [[.bit f.sp.isSome, .zero 1, .bits maj, .bits f.d, .bits f.a, .bits f.imm]]
  | .us f => [[.bit f.sp.isSome, .zero 1, .bits 0x28#6, .bits f.d, .bits f.a, .bits f.imm]]
  | .usi f => [[.bit f.sp.isSome, .zero 1, .bits 0x29#6, .bits f.d, .bits f.imm]]
  | .br maj f => [[.bit f.sp.isSome, .zero 1, .bits maj, .bits f.cond, .bits f.off]]
  | .nop f => [[.bit f.sp.isSome, .zero 1, .bits 0x3F#6, .zero 24]]
  | .lg maj minor f =>
    [[.bit f.sp.isSome, .one, .bits maj, .bits minor, .bits f.d, .bit f.fs, .bits f.mod],
     [.bits f.a, .bits f.b, .bits f.c, .bits f.hold]]
  | .lm maj minor f =>
    [[.bit f.sp.isSome, .one, .bits maj, .bits minor, .bits f.d, .bit f.fs, .bits f.size, .bit f.sx, .bit f.nt],
     [.bits f.addr, .bits f.order, .bits f.scope, .bits f.off]]
  | .la maj minor f =>
    [[.bit f.sp.isSome, .one, .bits maj, .bits minor, .bits f.d, .bit f.fs, .bits f.aop],
     [.bits f.addr, .bits f.data, .bits f.cmp, .bits f.ty],
     [.zero 10, .bits f.off, .bits f.scope, .bits f.order]]
  | .lx maj minor f =>
    [[.bit f.sp.isSome, .one, .bits maj, .bits minor, .bits f.tile, .bits f.shape, .zero 4, .bit f.fs, .zero 5],
     [.bits f.x, .bits f.y, .bits f.z, .zero 2]]
  | .lb maj minor f =>
    [[.bit f.sp.isSome, .one, .bits maj, .bits minor, .bits f.sel, .bits f.lo], [.bits f.w1]]
  | .pr op f => [[.bits op, .bits f.d, .bits f.a, .bits f.b, .bits f.imm]]

theorem rowWidth_of_mem_rows {e : Enc} {l : List WordField} (h : l ∈ e.rows) : rowWidth l = 32 := by
  have hall : e.rows.all (rowWidth · == 32) = true := by cases e <;> rfl
  exact eq_of_beq (List.all_eq_true.1 hall l h)

theorem words_eq_rows (e : Enc) : e.words = e.rows.map rowWord := by
  cases e with
  | lb maj minor f =>
    have hw1 : rowWord [.bits f.w1] = f.w1 := (rowWord_eq_iff rfl).2 ⟨field_word f.w1, trivial⟩
    exact congrArg (fun w => _ :: [w]) hw1.symm
  | _ => rfl

/-- Words are the format words of `e` when each of them reads as its row of fields. -/
theorem words_eq_iff {e : Enc} {ws : List Word} : e.words = ws ↔ List.Forall₂ Reads ws e.rows := by
  rw [words_eq_rows]
  generalize hrows : e.rows = rows
  have hwidth : ∀ l ∈ rows, rowWidth l = 32 := fun l hl => rowWidth_of_mem_rows (e := e) (hrows ▸ hl)
  clear hrows
  induction rows generalizing ws with
  | nil => cases ws <;> simp
  | cons l rows ih =>
    obtain ⟨hl, hrows⟩ := List.forall_mem_cons.1 hwidth
    cases ws with
    | nil => simp
    | cons w ws =>
      rw [List.map_cons, List.cons.injEq, List.forall₂_cons]
      exact and_congr (rowWord_eq_iff hl) (ih hrows)

theorem exists_of_forall₂_singleton {α β : Type} {R : α → β → Prop} {l : List α} {b : β} (h : List.Forall₂ R l [b]) :
    ∃ a, l = [a] ∧ R a b := by
  obtain ⟨a, l, ha, hl, rfl⟩ := List.forall₂_cons_right_iff.1 h
  exact ⟨a, congrArg _ (List.forall₂_nil_right_iff.1 hl), ha⟩

theorem exists_of_forall₂_pair {α β : Type} {R : α → β → Prop} {l : List α} {b c : β} (h : List.Forall₂ R l [b, c]) :
    ∃ a₁ a₂, l = [a₁, a₂] ∧ R a₁ b ∧ R a₂ c := by
  obtain ⟨a₁, l, ha₁, hl, rfl⟩ := List.forall₂_cons_right_iff.1 h
  obtain ⟨a₂, rfl, ha₂⟩ := exists_of_forall₂_singleton hl
  exact ⟨a₁, a₂, rfl, ha₁, ha₂⟩

/-- The decoder takes `e` from its format words, whatever follows, without literal and live-mask words (R64). -/
def Enc.ReadFrom (e : Enc) (fmt : Fmt) (words : List Word) : Prop :=
  ∃ w0 ws, words = w0 :: ws ∧ flag w0 31 = e.sp.isSome ∧ flag w0 30 = fmt.long ∧ majorOf w0 = e.major ∧
    ∀ r, rawEnc fmt w0 (ws ++ r) = some (e.withTail none none, true, r)

/-- Words that read as the fields of `e` are taken for them. -/
theorem readFrom_of_reads {e : Enc} {fmt : Fmt} (hf : e.fmt = some fmt) {words : List Word}
    (h : List.Forall₂ Reads words e.rows) : e.ReadFrom fmt words := by
  cases e with
  | vs3 maj f =>
    obtain rfl := Option.some.inj hf
    obtain ⟨w0, rfl, hsp, hlg, hmaj, hd, ha, hb, -⟩ := exists_of_forall₂_singleton h
    refine ⟨_, _, rfl, hsp, readAt_zero_iff.1 hlg, hmaj, fun r => congrArg (fun e => some (e, true, r)) ?_⟩
    exact (Enc.vs3.injEq ..).mpr ⟨hmaj, (Vs3.mk.injEq ..).mpr ⟨rfl, hd, ha, hb⟩⟩
  | vs2i maj f =>
    obtain rfl := Option.some.inj hf
    obtain ⟨w0, rfl, hsp, hlg, hmaj, hd, ha, himm, -⟩ := exists_of_forall₂_singleton h
    refine ⟨_, _, rfl, hsp, readAt_zero_iff.1 hlg, hmaj, fun r => congrArg (fun e => some (e, true, r)) ?_⟩
    exact (Enc.vs2i.injEq ..).mpr ⟨hmaj, (Vs2i.mk.injEq ..).mpr ⟨rfl, hd, ha, himm⟩⟩
  | us f =>
    obtain rfl := Option.some.inj hf
    obtain ⟨w0, rfl, hsp, hlg, hmaj, hd, ha, himm, -⟩ := exists_of_forall₂_singleton h
    refine ⟨_, _, rfl, hsp, readAt_zero_iff.1 hlg, hmaj, fun r => congrArg (fun e => some (e, true, r)) ?_⟩
    exact (Enc.us.injEq ..).mpr ((Us.mk.injEq ..).mpr ⟨rfl, hd, ha, himm⟩)
  | usi f =>
    obtain rfl := Option.some.inj hf
    obtain ⟨w0, rfl, hsp, hlg, hmaj, hd, himm, -⟩ := exists_of_forall₂_singleton h
    refine ⟨_, _, rfl, hsp, readAt_zero_iff.1 hlg, hmaj, fun r => congrArg (fun e => some (e, true, r)) ?_⟩
    exact (Enc.usi.injEq ..).mpr ((Usi.mk.injEq ..).mpr ⟨rfl, hd, himm⟩)
  | br maj f =>
    obtain rfl := Option.some.inj hf
    obtain ⟨w0, rfl, hsp, hlg, hmaj, hcond, hoff, -⟩ := exists_of_forall₂_singleton h
    refine ⟨_, _, rfl, hsp, readAt_zero_iff.1 hlg, hmaj, fun r => congrArg (fun e => some (e, true, r)) ?_⟩
    exact (Enc.br.injEq ..).mpr ⟨hmaj, (Br.mk.injEq ..).mpr ⟨rfl, hcond, hoff⟩⟩
  | nop f =>
    obtain rfl := Option.some.inj hf
    obtain ⟨w0, rfl, hsp, hlg, hmaj, hz, -⟩ := exists_of_forall₂_singleton h
    exact ⟨_, _, rfl, hsp, readAt_zero_iff.1 hlg, hmaj, fun r => congrArg (fun z => some (_, z, r)) hz⟩
  | lg maj minor f =>
    obtain rfl := Option.some.inj hf
    obtain ⟨w0, w1, rfl, ⟨hsp, hlg, hmaj, hminor, hd, hfs, hmod, -⟩, ha, hb, hc, hhold, -⟩ := exists_of_forall₂_pair h
    refine ⟨_, _, rfl, hsp, hlg, hmaj, fun r => congrArg (fun e => some (e, true, r)) ?_⟩
    exact (Enc.lg.injEq ..).mpr ⟨hmaj, hminor, (Lg.mk.injEq ..).mpr ⟨rfl, hmod, hfs, hd, ha, hb, hc, hhold, rfl⟩⟩
  | lm maj minor f =>
    obtain rfl := Option.some.inj hf
    obtain ⟨w0, w1, rfl, ⟨hsp, hlg, hmaj, hminor, hd, hfs, hsize, hsx, hnt, -⟩, haddr, horder, hscope, hoff, -⟩ :=
      exists_of_forall₂_pair h
    refine ⟨_, _, rfl, hsp, hlg, hmaj, fun r => congrArg (fun e => some (e, true, r)) ?_⟩
    exact (Enc.lm.injEq ..).mpr ⟨hmaj, hminor,
      (Lm.mk.injEq ..).mpr ⟨rfl, hnt, hsx, hsize, hfs, hd, hoff, hscope, horder, haddr, rfl⟩⟩
  | la maj minor f =>
    obtain rfl := Option.some.inj hf
    obtain ⟨w0, _, ⟨hsp, hlg, hmaj, hminor, hd, hfs, haop, -⟩, htail, rfl⟩ := List.forall₂_cons_right_iff.1 h
    obtain ⟨w1, w2, rfl, ⟨haddr, hdata, hcmp, hty, -⟩, hz, hoff, hscope, horder, -⟩ :=
      exists_of_forall₂_pair htail
    refine ⟨_, _, rfl, hsp, hlg, hmaj, fun r => congrArg₂ (fun e z => some (e, z, r)) ?_ hz⟩
    exact (Enc.la.injEq ..).mpr ⟨hmaj, hminor,
      (La.mk.injEq ..).mpr ⟨rfl, haop, hfs, hd, hty, hcmp, hdata, haddr, horder, hscope, hoff, rfl⟩⟩
  | lx maj minor f =>
    obtain rfl := Option.some.inj hf
    obtain ⟨w0, w1, rfl, ⟨hsp, hlg, hmaj, hminor, htile, hshape, hz1, hfs, hz2, -⟩, hx, hy, hz, hz3, -⟩ :=
      exists_of_forall₂_pair h
    have hzero := Bool.and_eq_true_iff.2 ⟨Bool.and_eq_true_iff.2 ⟨hz1, hz2⟩, hz3⟩
    refine ⟨_, _, rfl, hsp, hlg, hmaj, fun r => congrArg₂ (fun e z => some (e, z, r)) ?_ hzero⟩
    exact (Enc.lx.injEq ..).mpr ⟨hmaj, hminor, (Lx.mk.injEq ..).mpr ⟨rfl, htile, hshape, hfs, hx, hy, hz, rfl⟩⟩
  | lb maj minor f =>
    obtain rfl := Option.some.inj hf
    obtain ⟨w0, w1, rfl, ⟨hsp, hlg, hmaj, hminor, hsel, hlo, -⟩, hw1, -⟩ := exists_of_forall₂_pair h
    refine ⟨_, _, rfl, hsp, hlg, hmaj, fun r => congrArg (fun e => some (e, true, r)) ?_⟩
    exact (Enc.lb.injEq ..).mpr ⟨hmaj, hminor,
      (Lb.mk.injEq ..).mpr ⟨rfl, hsel, hlo, (field_word w1).symm.trans hw1, rfl⟩⟩
  | pr op f => cases hf

/-- The other way: words read as what the decoder takes from them, with the live-mask word that word 0 announces. -/
theorem reads_of_rawEnc {w0 : Word} {rest r : List Word} {fmt : Fmt} {e : Enc}
    (hm : majorFmt (flag w0 30) (majorOf w0).toNat = some fmt) (h : rawEnc fmt w0 rest = some (e, true, r))
    (lit : Option Word) {sp : Option Word} (hsp : flag w0 31 = sp.isSome) :
    ∃ ws, rest = ws ++ r ∧ List.Forall₂ Reads (w0 :: ws) (e.withTail lit sp).rows ∧ (e.withTail lit sp).sp = sp := by
  obtain ⟨hlong, honly⟩ := of_majorFmt hm
  cases fmt with
  | vs3 | vs2i =>
    cases h
    exact ⟨[], rfl, .cons ⟨hsp, readAt_zero_iff.2 hlong, rfl, rfl, rfl, rfl, trivial⟩ .nil, rfl⟩
  | us =>
    cases h
    exact ⟨[], rfl, .cons ⟨hsp, readAt_zero_iff.2 hlong, honly _ rfl, rfl, rfl, rfl, trivial⟩ .nil, rfl⟩
  | usi =>
    cases h
    exact ⟨[], rfl, .cons ⟨hsp, readAt_zero_iff.2 hlong, honly _ rfl, rfl, rfl, trivial⟩ .nil, rfl⟩
  | br =>
    cases h
    exact ⟨[], rfl, .cons ⟨hsp, readAt_zero_iff.2 hlong, rfl, rfl, rfl, trivial⟩ .nil, rfl⟩
  | nop =>
    obtain ⟨rfl, htail⟩ := Prod.mk.inj (Option.some.inj h)
    obtain ⟨hz, rfl⟩ := Prod.mk.inj htail
    exact ⟨[], rfl, .cons ⟨hsp, readAt_zero_iff.2 hlong, honly _ rfl, hz, trivial⟩ .nil, rfl⟩
  | lg =>
    obtain _ | ⟨w1, rest⟩ := rest
    · cases h
    cases h
    exact ⟨[w1], rfl, .cons ⟨hsp, hlong, rfl, rfl, rfl, rfl, rfl, trivial⟩
      (.cons ⟨rfl, rfl, rfl, rfl, trivial⟩ .nil), rfl⟩
  | lm =>
    obtain _ | ⟨w1, rest⟩ := rest
    · cases h
    cases h
    exact ⟨[w1], rfl, .cons ⟨hsp, hlong, rfl, rfl, rfl, rfl, rfl, rfl, rfl, trivial⟩
      (.cons ⟨rfl, rfl, rfl, rfl, trivial⟩ .nil), rfl⟩
  | la =>
    obtain _ | ⟨w1, _ | ⟨w2, rest⟩⟩ := rest
    · cases h
    · cases h
    obtain ⟨rfl, htail⟩ := Prod.mk.inj (Option.some.inj h)
    obtain ⟨hz, rfl⟩ := Prod.mk.inj htail
    exact ⟨[w1, w2], rfl, .cons ⟨hsp, hlong, rfl, rfl, rfl, rfl, rfl, trivial⟩
      (.cons ⟨rfl, rfl, rfl, rfl, trivial⟩ (.cons ⟨hz, rfl, rfl, rfl, trivial⟩ .nil)), rfl⟩
  | lx =>
    obtain _ | ⟨w1, rest⟩ := rest
    · cases h
    obtain ⟨rfl, htail⟩ := Prod.mk.inj (Option.some.inj h)
    obtain ⟨hz, rfl⟩ := Prod.mk.inj htail
    obtain ⟨hz, hz3⟩ := Bool.and_eq_true_iff.1 hz
    obtain ⟨hz1, hz2⟩ := Bool.and_eq_true_iff.1 hz
    exact ⟨[w1], rfl, .cons ⟨hsp, hlong, rfl, rfl, rfl, rfl, hz1, rfl, hz2, trivial⟩
      (.cons ⟨rfl, rfl, rfl, hz3, trivial⟩ .nil), rfl⟩
  | lb =>
    obtain _ | ⟨w1, rest⟩ := rest
    · cases h
    cases h
    exact ⟨[w1], rfl, .cons ⟨hsp, hlong, rfl, rfl, rfl, rfl, trivial⟩
      (.cons ⟨field_word w1, trivial⟩ .nil), rfl⟩

/-! ### Decoding (R64, R75) -/

theorem takeWord_eq_some {need : Bool} {ws r : List Word} {o : Option Word} :
    takeWord need ws = some (o, r) ↔ o.isSome = need ∧ ws = o.toList ++ r := by
  cases need with
  | false => cases o <;> simp [takeWord, eq_comm]
  | true =>
    cases ws with
    | nil => cases o <;> simp [takeWord]
    | cons w ws => cases o <;> simp [takeWord, eq_comm]

theorem withTail_lit_sp (e : Enc) : (e.withTail none none).withTail e.lit e.sp = e := by cases e <;> rfl

theorem usesLit_withTail (e : Enc) (lit sp : Option Word) : (e.withTail lit sp).usesLit = e.usesLit := by
  cases e <;> rfl

/-- An encoding carries a literal word only where a selector calls for one. -/
theorem lit_withTail {e : Enc} {lit : Option Word} (h : lit.isSome = e.usesLit) (sp : Option Word) :
    (e.withTail lit sp).lit = lit := by
  cases e with
  | lg | lm | la | lx | lb => rfl
  | _ => exact (Option.not_isSome_iff_eq_none.1 (h ▸ Bool.false_ne_true)).symm

/-- All the words of an encoding: format words, literal word, live-mask word (R64). -/
def Enc.text (e : Enc) : List Word := e.words ++ e.lit.toList ++ e.sp.toList

theorem encode_of_enc {i : Instr} {e : Enc} (h : i.enc = some e) : encode i = e.text := by
  simp [encode, h, Enc.text]

theorem takeWord_of_isSome {need : Bool} {o : Option Word} (h : need = o.isSome) (r : List Word) :
    takeWord need (o.toList ++ r) = some (o, r) :=
  takeWord_eq_some.2 ⟨h.symm, rfl⟩

/-- A well-formed encoding is read back from its words, whatever follows them. -/
theorem decode_text {e : Enc} {fmt : Fmt} {i : Instr} (hf : e.fmt = some fmt) (hl : e.listed = true) (hw : e.wf = true)
    (hi : e.instr? = some i) (r : List Word) : decode none (e.text ++ r) = .ok (i, e.text.length) := by
  obtain ⟨w0, ws, hwords, h31, h30, hmaj, hraw⟩ := readFrom_of_reads hf (words_eq_iff.1 rfl)
  obtain ⟨hok, hlit⟩ : e.fieldsOk = true ∧ e.lit.isSome = e.usesLit := by simpa [Enc.wf] using hw
  have htext : e.text ++ r = e.words ++ (e.lit.toList ++ (e.sp.toList ++ r)) := by simp [Enc.text]
  have hlen : (e.text ++ r).length - r.length = e.text.length := by simp
  rw [← hlen, htext, hwords, List.cons_append]
  simp only [decode, h30, hmaj, majorFmt_of_listed hf hl, hraw, usesLit_withTail, takeWord_of_isSome hlit.symm,
    takeWord_of_isSome h31, withTail_lit_sp, hok, hi, Bool.and_self, if_true, Bool.false_eq_true, if_false]

/-- Words that decode are those of a well-formed encoding, with any words after them. -/
theorem text_of_decode {ws : List Word} {i : Instr} {n : Nat} (h : decode none ws = .ok (i, n)) :
    ∃ (e : Enc) (r : List Word), e.wf = true ∧ e.instr? = some i ∧ ws = e.text ++ r ∧ n = e.text.length := by
  unfold decode at h
  split at h
  · cases h
  next w0 rest =>
  split at h
  · cases h
  next fmt hmaj =>
  simp only [Bool.false_eq_true, if_false] at h
  split at h
  · cases h
  next e zeros r1 hraw =>
  split at h
  · cases h
  next lit r2 htake =>
  split at h
  · cases h
  next sp r htake' =>
  split at h
  case isFalse => cases h
  next hchecks =>
  split at h
  case h_2 => cases h
  next j hj =>
  cases h
  obtain ⟨rfl, hok⟩ : zeros = true ∧ (e.withTail lit sp).fieldsOk = true := by simpa using hchecks
  obtain ⟨hlit, rfl⟩ := takeWord_eq_some.1 htake
  obtain ⟨hsp, rfl⟩ := takeWord_eq_some.1 htake'
  have htext : w0 :: rest = (e.withTail lit sp).text ++ r := by
    obtain ⟨ws, rfl, hreads, hsp⟩ := reads_of_rawEnc hmaj hraw lit hsp.symm
    rw [Enc.text, words_eq_iff.2 hreads, lit_withTail hlit, hsp]
    simp
  refine ⟨e.withTail lit sp, r, ?_, hj, htext, ?_⟩
  · simp [Enc.wf, hok, lit_withTail hlit, usesLit_withTail, hlit]
  · rw [htext]; simp

/-! ### Proctor words (R338) -/

/-- A Proctor word's bits are its fields. -/
theorem words_pr_iff {op : BitVec 6} {f : Pr} {w : Word} : (Enc.pr op f).words = [w] ↔
    field w 26 6 = op ∧ field w 22 4 = f.d ∧ field w 18 4 = f.a ∧ field w 14 4 = f.b ∧ field w 0 14 = f.imm := by
  refine words_eq_iff.trans ⟨fun h => ?_, fun h => ?_⟩
  · obtain ⟨⟨hop, hd, ha, hb, himm, -⟩, -⟩ := List.forall₂_cons.1 h
    exact ⟨hop, hd, ha, hb, himm⟩
  · obtain ⟨hop, hd, ha, hb, himm⟩ := h
    exact .cons ⟨hop, hd, ha, hb, himm, trivial⟩ .nil

/-- The word of a Proctor encoding is decoded as that encoding, checks included. -/
theorem decodePr_words (op : BitVec 6) (f : Pr) :
    ∃ w, (Enc.pr op f).words = [w] ∧
      decodePr w = if (Enc.pr op f).fieldsOk then (Enc.pr op f).instr? else none := by
  obtain ⟨w, hw⟩ : ∃ w, (Enc.pr op f).words = [w] := ⟨_, rfl⟩
  obtain ⟨hop, hd, ha, hb, himm⟩ := words_pr_iff.1 hw
  exact ⟨w, hw, by rw [decodePr, hop, hd, ha, hb, himm]⟩

theorem text_pr (op : BitVec 6) (f : Pr) : (Enc.pr op f).text = (Enc.pr op f).words :=
  (List.append_nil _).trans (List.append_nil _)

theorem wf_pr (op : BitVec 6) (f : Pr) : (Enc.pr op f).wf = (Enc.pr op f).fieldsOk :=
  Bool.and_true _

/-! ### Both ways -/

theorem exists_fmt {e : Enc} (h : ∀ op f, e ≠ .pr op f) : ∃ fmt, e.fmt = some fmt := by
  cases e with
  | pr op f => exact absurd rfl (h op f)
  | _ => exact ⟨_, rfl⟩

/-- What the tables make of a well-formed encoding is a well-formed instruction. -/
theorem wf_of_instr? {e : Enc} {i : Instr} (h : e.instr? = some i) (hw : e.wf = true) : i.wf = true := by
  obtain ⟨henc, ht⟩ := enc_of_instr? h
  rw [wf_of_enc henc, hw, ht, Bool.and_self]

/-- Settles O58: words and fields of each format give each other back (`readFrom_of_reads`, `reads_of_rawEnc`), and
so do the opcode tables and the instructions (`instr?_of_enc`, `enc_of_instr?`). -/
theorem decodeEncodeAgree : Obligations.DecodeEncodeAgree := by
  refine ⟨fun i e rest he hw hpr => ?_, fun ws i n h => ?_, fun i op f he hw => ?_, fun w i h => ?_⟩
  · obtain ⟨fmt, hf⟩ := exists_fmt hpr
    obtain ⟨hi, hl⟩ := instr?_of_enc he (by rw [hf]; rfl)
    rw [encode_of_enc he]
    exact decode_text hf hl hw hi rest
  · obtain ⟨e, r, hw, hi, rfl, rfl⟩ := text_of_decode h
    rw [encode_of_enc (enc_of_instr? hi).1]
    exact ⟨wf_of_instr? hi hw, by simp, by simp⟩
  · obtain ⟨w, hwords, hread⟩ := decodePr_words op f
    obtain ⟨hok, ht⟩ : (Enc.pr op f).fieldsOk = true ∧ trigWf i = true := by simpa [wf_of_enc he, wf_pr] using hw
    exact ⟨w, by rw [encode_of_enc he, text_pr, hwords], by rw [hread, if_pos hok, (instr?_of_enc he ht).1]⟩
  · obtain ⟨hok, hi⟩ := Option.ite_none_right_eq_some.1 h
    rw [encode_of_enc (enc_of_instr? hi).1, text_pr]
    exact ⟨wf_of_instr? hi (by rw [wf_pr, hok]), words_pr_iff.2 ⟨rfl, rfl, rfl, rfl, rfl⟩⟩

/-- Settles O57, by running the decoder on each of the manual's words. -/
theorem workedWordsDecode : Obligations.WorkedWordsDecode := by
  refine ⟨?_, ?_, ?_, ?_, ?_, ?_, ?_, ?_, ?_, ?_⟩ <;> decide

end Sys2Proof
